-- ==== Sys2Proof/Word.lean ====
section
/-! DEFINITION. The word types of the Stavdel SX4 (R5, R131) and the one sparse container of the model: a list of
key and value pairs in canonical form (keys strictly rising, no entry that equals what an unlisted key reads as). -/

namespace Sys2Proof

/-- A general register, a pointer, a system register: 64 bits (R61, R131, R177). -/
abbrev Word := BitVec 64
/-- One 32-bit word of the instruction stream (R121). -/
abbrev Half := BitVec 32
/-- One location of the memory model (R73). -/
abbrev Byte := BitVec 8
/-- A `g0`–`g63` field (R131). -/
abbrev GReg := BitVec 6
/-- A `p0`–`p7` field (R131). -/
abbrev PReg := BitVec 3
/-- An `s0`–`s15` or `q0`–`q15` field (R131). -/
abbrev SReg := BitVec 4
/-- A sparse table: sorted by key, no key twice, no entry equal to the table's default. -/
abbrev AMap (α : Type) := List (Nat × α)

end Sys2Proof
end

