-- ==== Sys2Proof/Config.lean ====
section
/-! DEFINITION. What an implementation fixes and what the manual leaves open. Every `opaque` constant is a free value:
it has no body, so nothing proved about the model can depend on a value of it (notes/assumptions). -/

namespace Sys2Proof.Config

/-- FREE VALUE (log entry 2): cycles that pass on a stack between two observations of its cycle counter, by event number.
R177 gives the counter, not how many cycles anything takes. -/
opaque cycleGap : Nat → Nat
/-- FREE VALUE (log entry 3): what a racing ordinary access reads, by event number and aligned address (R80): 0 the last store that happens
before it, t + 1 the last store performed up to event t. -/
opaque racePick : Nat → Nat
/-- FREE VALUE (log entry 4): whether a byte of a landed raw read that no `rpt` has returned is seen new, by event number
and byte (R185 allows any mix). -/
opaque landingMix : Nat → Nat → Bool
/-- FREE VALUE (log entry 4): a byte that a raw read delivers uncorrected after an uncorrectable error (R439), by event number and
byte. -/
opaque uncorrected : Nat → Nat → Byte
/-- FREE VALUE (log entry 5): ML-DSA-44 verification of FIPS 204, which R336 and R339 name and do not define:
public key, digest, signature. -/
opaque mldsaVerify : List Byte → List Byte → List Byte → Bool
/-- FREE VALUE (log entry 5): ML-DSA-44 signature of FIPS 204 by the identity key of a seed (R338). -/
opaque mldsaSign : List Byte → List Byte → List Byte
/-- FREE VALUE (log entry 5): the identity public key that a manufacturing seed gives (R338). -/
opaque identityKey : List Byte → List Byte
/-- FREE VALUE (log entry 5): the debug challenge after the n-th renewal (R337 renews it and states no value), 32 bytes. -/
opaque debugChallenge : Nat → Nat → Byte
/-- FREE VALUE (log entry 2): cycles an execution of a profile class has counted since the last clear (R453, R454): berth,
counter offset, event number. -/
opaque profileCount : Nat → Nat → Nat → BitVec 32

/-- FREE VALUE (log entry 14): whether an unpublished store of an aborted or discarded strand had been accepted by its home port, by event
number and aligned 8-byte location (R427 leaves each location its old or a new value). -/
opaque storeAccepted : Nat → Nat → Bool
/-- FREE VALUE (log entry 15): a number that the manual names and does not state, by event number and place. -/
opaque unstated : Nat → Nat → Nat

end Sys2Proof.Config
end

