-- ==== Sys2Proof/Machine/Bits.lean ====
section
/-! DEFINITION. Bit fields, byte order, sign extension and the sparse table's operations (R5, R6, R151). -/

namespace Sys2Proof.Machine

/-- Bits [lo + n - 1 : lo] of a natural number. -/
def fld (w lo n : Nat) : Nat := w / 2 ^ lo % 2 ^ n

/-- Bit i of a natural number. -/
def bitN (w i : Nat) : Bool := w / 2 ^ i % 2 == 1

/-- A truth value as one bit. -/
def b2n (b : Bool) : Nat := if b then 1 else 0

/-- The w-bit value v read as two's complement. -/
def sgnN (v w : Nat) : Int := if 2 * (v % 2 ^ w) < 2 ^ w then (v % 2 ^ w : Nat) else ((v % 2 ^ w : Nat) : Int) - (2 ^ w : Nat)

/-- `SignExt(v, w)` of R151: the w-bit value v as a 64-bit pattern. -/
def signExt64 (v w : Nat) : Word := BitVec.ofInt 64 (sgnN v w)

/-- `Low(x, w)` of an integer (R151). -/
def lowI (x : Int) (w : Nat) : Nat := (x % (2 ^ w : Nat)).toNat

/-- `Clamp(x, lo, hi)` of R151. -/
def clampI (x lo hi : Int) : Int := if x < lo then lo else if x > hi then hi else x

/-- The low n bytes of v, least significant first (R5). -/
def leBytes (v : Nat) : Nat → List Byte
  | 0 => []
  | n + 1 => BitVec.ofNat 8 v :: leBytes (v / 256) n

/-- The natural number whose little-endian bytes are given (R5). -/
def leNat : List Byte → Nat
  | [] => 0
  | b :: bs => b.toNat + 256 * leNat bs

/-- Number of one bits below position n. -/
def popN (v : Nat) : Nat → Nat
  | 0 => 0
  | n + 1 => popN v n + b2n (bitN v n)

/-- `Parity` of R26 over 64 bits. -/
def parity64 (v : Nat) : Bool := popN v 64 % 2 == 1

/-- Least set bit below n, counted from 0. -/
def lowestSet (v : Nat) (n : Nat) : Option Nat := (List.range n).find? (bitN v ·)

/-- Word a with bit i set to b. -/
def setBitN (w i : Nat) (b : Bool) : Nat :=
  let cleared := w - 2 ^ i * b2n (bitN w i)
  cleared + 2 ^ i * b2n b

/-- Rounds x up to a multiple of m. -/
def alignUp (x m : Nat) : Nat := if m = 0 then x else (x + m - 1) / m * m

/-- Ceiling division. -/
def cdiv (x m : Nat) : Nat := if m = 0 then 0 else (x + m - 1) / m

/-! ## The sparse table -/

/-- The value at key k, `d` where nothing is listed. -/
def AMap.get (d : α) (m : AMap α) (k : Nat) : α :=
  match m with
  | [] => d
  | (j, v) :: r => if j = k then v else AMap.get d r k

/-- The value at key k, if one is listed. -/
def AMap.find (m : AMap α) (k : Nat) : Option α :=
  match m with
  | [] => none
  | (j, v) :: r => if j = k then some v else AMap.find r k

/-- Puts (k, v) before the first larger key. -/
def AMap.insert (m : AMap α) (k : Nat) (v : α) : AMap α :=
  match m with
  | [] => [(k, v)]
  | (j, w) :: r => if k < j then (k, v) :: (j, w) :: r else (j, w) :: AMap.insert r k v

/-- Removes key k. -/
def AMap.erase (m : AMap α) (k : Nat) : AMap α := m.filter (fun p => p.1 ≠ k)

/-- Sets key k to v, listing it whatever v is. -/
def AMap.put (m : AMap α) (k : Nat) (v : α) : AMap α := AMap.insert (AMap.erase m k) k v

/-- Sets key k to v in the canonical form with default d: the default is not listed. -/
def AMap.set [DecidableEq α] (d : α) (m : AMap α) (k : Nat) (v : α) : AMap α :=
  if v = d then AMap.erase m k else AMap.put m k v

/-- Applies f at key k. -/
def AMap.upd [DecidableEq α] (d : α) (m : AMap α) (k : Nat) (f : α → α) : AMap α := AMap.set d m k (f (AMap.get d m k))

/-- Keys strictly rising, and no entry equal to the default. -/
def AMap.wf [DecidableEq α] (d : α) : AMap α → Bool
  | [] => true
  | [(_, v)] => v ≠ d
  | (j, v) :: (k, w) :: r => j < k && v ≠ d && AMap.wf d ((k, w) :: r)

/-- Lays the entries of `o` over `m` (canonical with default d). -/
def AMap.overlay [DecidableEq α] (d : α) (m o : AMap α) : AMap α := o.foldl (fun m p => AMap.set d m p.1 p.2) m

/-- Removes every key from lo to lo + n - 1. -/
def AMap.clearRange (m : AMap α) (lo n : Nat) : AMap α := m.filter (fun p => p.1 < lo || lo + n ≤ p.1)

/-- The entries with keys from lo to lo + n - 1, moved to start at key `dst`. -/
def AMap.window (m : AMap α) (lo n dst : Nat) : AMap α :=
  (m.filter (fun p => lo ≤ p.1 && p.1 < lo + n)).map (fun p => (p.1 - lo + dst, p.2))

end Sys2Proof.Machine
end

