-- ==== Sys2Proof/Machine/Num.lean ====
section
/-! DEFINITION. Number formats and rounding (R94–R111): exact values, decoding, one rounding under any mode, the overflow
table of R107, the functions of R251 and the exact accumulator's readout (R119). -/

namespace Sys2Proof.Machine

/-- An exact value (R9): NaN, an infinity, or ± n · 2^e / d with d ≠ 0. A zero keeps its sign. -/
inductive XVal where
  | nan
  | inf (neg : Bool)
  | fin (neg : Bool) (n : Nat) (e : Int) (d : Nat)
  deriving DecidableEq, Repr

/-- A format (R94): IEEE with e exponent and m mantissa bits, narrow float, integer, or sparsity data. -/
inductive NFmt where
  | ieee (e m : Nat)
  | narrow (s : Bool) (e m : Nat) (spec : Bool) (bias : Nat)
  | int (w : Nat) (sgn : Bool)
  | sparse (n : Nat) (index : Bool)
  deriving DecidableEq, Repr

def fp64 : NFmt := .ieee 11 52
def fp32 : NFmt := .ieee 8 23
def fp16 : NFmt := .ieee 5 10
def bf16 : NFmt := .ieee 8 7

/-- The format that a format word names, none when it is invalid (R94, R95). -/
def fmtOf (w : Nat) : Option NFmt :=
  match fld w 0 2 with
  | 0 =>
    let s := fld w 2 1; let e := fld w 3 3; let m := fld w 6 3; let spec := bitN w 9
    if 1 ≤ e ∧ s + e + m ≤ 8 ∧ (!spec || (2 ≤ e && 1 ≤ m)) then some (.narrow (s == 1) e m spec (fld w 10 6)) else none
  | 1 => if fld w 3 3 ≤ 5 ∧ fld w 6 10 = 0 then some (.int (2 ^ fld w 3 3) (bitN w 2)) else none
  | 2 =>
    if fld w 5 11 ≠ 0 then none else
    match fld w 2 3 with
    | 0 => some bf16
    | 1 => some fp16
    | 2 => some fp32
    | _ => none
  | _ =>
    if fld w 8 8 ≠ 0 ∨ 2 ≤ fld w 2 3 then none else
    match fld w 5 3 with
    | 0 => some (.sparse 6 (bitN w 2))
    | 1 => some (.sparse 8 (bitN w 2))
    | 2 => some (.sparse 12 (bitN w 2))
    | _ => none

/-- Container size in bits (R96). -/
def NFmt.container : NFmt → Nat
  | .ieee e m => 1 + e + m
  | .narrow s e m _ _ => if b2n s + e + m ≤ 4 then 4 else 8
  | .int w _ => w
  | .sparse _ index => if index then 8 else 24

/-- Bits of the container that a written code occupies: those above a class 0 code are written as zero, and ignored when read (R96). -/
def NFmt.codeBits : NFmt → Nat
  | .narrow s e m _ _ => b2n s + e + m
  | f => f.container

/-- Class of a format (R94). -/
def NFmt.cls : NFmt → Nat
  | .narrow .. => 0
  | .int .. => 1
  | .ieee .. => 2
  | .sparse .. => 3

/-- Exponent bias of an IEEE format (R102). -/
def ieeeBias (e : Nat) : Int := 2 ^ (e - 1) - 1

/-! ## Decoding -/

def xzero : XVal := .fin false 0 0 1
def xint (i : Int) : XVal := .fin (decide (i < 0)) i.natAbs 0 1

/-- The magnitude of exponent field E and mantissa M with bias and m mantissa bits. -/
def magVal (neg : Bool) (E M m : Nat) (bias : Int) : XVal :=
  if E = 0 then .fin neg M (1 - bias - m) 1 else .fin neg (2 ^ m + M) ((E : Int) - bias - m) 1

/-- The exact value of a code (R98, R101, R102); a class 3 code is read as the natural number of its bits. -/
def NFmt.dec (f : NFmt) (c : Nat) : XVal :=
  match f with
  | .ieee e m =>
    let neg := bitN c (e + m); let E := fld c m e; let M := fld c 0 m
    if E = 2 ^ e - 1 then (if M = 0 then .inf neg else .nan) else magVal neg E M m (ieeeBias e)
  | .narrow s e m spec bias =>
    let neg := s && bitN c (e + m); let E := fld c m e; let M := fld c 0 m
    if !spec && neg && E == 0 && M == 0 then .nan
    else if !s && E == 2 ^ e - 1 && M == 2 ^ m - 1 then .nan
    else if spec && E == 2 ^ e - 1 then (if M = 0 then .inf neg else .nan)
    else magVal neg E M m bias
  | .int w sgn => if sgn then xint (sgnN c w) else .fin false (c % 2 ^ w) 0 1
  | .sparse _ _ => .fin false c 0 1

/-- The canonical NaN (R99, R102). For an integer target the R107 entry for NaN without `sat`. -/
def NFmt.nanCode : NFmt → Nat
  | .ieee e m => (2 ^ e - 1) * 2 ^ m + 2 ^ (m - 1)
  | .narrow s e m spec _ =>
    if spec then (2 ^ e - 1) * 2 ^ m + 2 ^ (m - 1) else if s then 2 ^ (e + m) else 2 ^ (e + m) - 1
  | .int w sgn => if sgn then 2 ^ (w - 1) else 2 ^ w - 1
  | .sparse _ _ => 0

/-- Magnitude code of the largest finite value (R99). -/
def NFmt.maxMag : NFmt → Nat
  | .ieee e m => (2 ^ e - 1) * 2 ^ m - 1
  | .narrow s e m spec _ => if spec then (2 ^ e - 1) * 2 ^ m - 1 else if s then 2 ^ (e + m) - 1 else 2 ^ (e + m) - 2
  | .int w sgn => if sgn then 2 ^ (w - 1) - 1 else 2 ^ w - 1
  | .sparse _ _ => 0

/-- Sign bit weight of a float format, 0 without a sign. -/
def NFmt.signBit : NFmt → Nat
  | .ieee e m => 2 ^ (e + m)
  | .narrow s e m _ _ => if s then 2 ^ (e + m) else 0
  | _ => 0

/-- Whether the format has a −0 (R98). -/
def NFmt.hasNegZero : NFmt → Bool
  | .ieee .. => true
  | .narrow s _ _ spec _ => s && spec
  | _ => false

/-! ## Rounding (R104, R106) -/

/-- Whether a magnitude rem/den above its lower neighbour q (0 ≤ rem < den) goes to the upper one. -/
def roundUp (mode : Nat) (neg : Bool) (q rem den : Nat) (draw : Nat) : Bool :=
  match mode with
  | 0 => decide (den < 2 * rem) || (2 * rem == den && q % 2 == 1)
  | 1 => false
  | 2 => !neg && rem != 0
  | 3 => neg && rem != 0
  | 4 => decide (den ≤ 2 * rem) && rem != 0
  | _ => decide (draw < rem * 65536 / den)

/-- Floor of log2 of n/d, both non-zero. -/
def log2Quot (n d : Nat) : Int :=
  let k : Int := (Nat.log2 n : Int) - Nat.log2 d
  let lt := if 0 ≤ k then n < d * 2 ^ k.toNat else n * 2 ^ (-k).toNat < d
  if lt then k - 1 else k

/-- n · 2^e / d as a quotient by 2^q: numerator and denominator. -/
def quotBy (n : Nat) (e : Int) (d : Nat) (q : Int) : Nat × Nat :=
  if q ≤ e then (n * 2 ^ (e - q).toNat, d) else (n, d * 2 ^ (q - e).toNat)

/-- The rounded magnitude code under an unbounded exponent: exponents count from `emin`, m mantissa bits. DESIGN CHOICE (unsafe; log
entry 89): with m = 0 there is no last mantissa bit that could be even (R104); the hidden bit stands in for it, so that a tie in the normal
range goes to the larger magnitude. -/
def roundMag (neg : Bool) (n : Nat) (e : Int) (d : Nat) (emin : Int) (m mode draw : Nat) : Nat :=
  if n = 0 then 0 else
  let lg := log2Quot n d + e
  let qe := max lg emin - m
  let (a, b) := quotBy n e d qe
  let q := a / b
  let q := if roundUp mode neg q (a % b) b draw then q + 1 else q
  (qe - (emin - m)).toNat * 2 ^ m + q

/-- The exact value rounded to an integer magnitude. -/
def roundInt (neg : Bool) (n : Nat) (e : Int) (d : Nat) (mode draw : Nat) : Nat :=
  let (a, b) := quotBy n e d 0
  if roundUp mode neg (a / b) (a % b) b draw then a / b + 1 else a / b

/-- The entry of R107 for an overflow (or an infinity, `exact`) of the given sign. -/
def NFmt.overflow (f : NFmt) (neg exact sat : Bool) (mode : Nat) : Nat :=
  match f with
  | .ieee e m =>
    let sg := if neg then f.signBit else 0
    if sat then sg + f.maxMag
    else if exact || mode == 0 || mode == 4 || mode == 5 || (mode == 2 && !neg) || (mode == 3 && neg) then
      sg + (2 ^ e - 1) * 2 ^ m
    else sg + f.maxMag
  | .narrow s e m spec _ =>
    if neg && !s then (if sat then 0 else f.nanCode)
    else
      let sg := if neg then f.signBit else 0
      if sat then sg + f.maxMag else if spec then sg + (2 ^ e - 1) * 2 ^ m else f.nanCode
  | .int w sgn =>
    if sat then (if neg then (if sgn then 2 ^ (w - 1) else 0) else f.maxMag) else f.nanCode
  | .sparse _ _ => 0

/-- `Encode` of Convert (R108): rounds x once to f and applies R107. `ftz` replaces a subnormal IEEE result by a zero of
its sign (R105). -/
def NFmt.enc (f : NFmt) (x : XVal) (mode : Nat) (sat ftz : Bool) (draw : Nat) : Nat :=
  match x with
  | .nan => match f with
    | .int .. => if sat then 0 else f.nanCode
    | _ => f.nanCode
  | .inf neg => f.overflow neg true sat mode
  | .fin neg n e d =>
    match f with
    | .int w sgn =>
      let q := roundInt neg n e d mode draw
      if neg then
        if q = 0 then 0
        else if sgn && decide (q ≤ 2 ^ (w - 1)) then (2 ^ w - q) % 2 ^ w else f.overflow true false sat mode
      else if q ≤ f.maxMag then q else f.overflow false false sat mode
    | .ieee eb m =>
      let q := roundMag neg n e d (1 - ieeeBias eb) m mode draw
      let sg := if neg then f.signBit else 0
      if f.maxMag < q then f.overflow neg false sat mode
      else if ftz && q < 2 ^ m then sg else sg + q
    | .narrow s _ m _ bias =>
      let q := roundMag neg n e d (1 - (bias : Int)) m mode draw
      if q = 0 then (if neg && f.hasNegZero then f.signBit else 0)
      else if neg && !s then f.overflow true false sat mode
      else if f.maxMag < q then f.overflow neg false sat mode
      else (if neg then f.signBit else 0) + q
    | .sparse _ _ => 0

/-- `Convert` of R108 between two formats. -/
def convert (fin fout : NFmt) (c mode : Nat) (sat ftz : Bool) (draw : Nat) : Nat := fout.enc (fin.dec c) mode sat ftz draw

/-- A subnormal IEEE operand taken as a zero of its sign under `ftz` (R105). -/
def NFmt.flush (f : NFmt) (ftz : Bool) (c : Nat) : Nat :=
  match f with
  | .ieee e m => if ftz && fld c m e == 0 then (if bitN c (e + m) then f.signBit else 0) else c
  | _ => c

/-! ## Exact arithmetic -/

def XVal.neg : XVal → XVal
  | .nan => .nan
  | .inf s => .inf (!s)
  | .fin s n e d => .fin (!s) n e d

def XVal.abs : XVal → XVal
  | .nan => .nan
  | .inf _ => .inf false
  | .fin _ n e d => .fin false n e d

def XVal.isNan : XVal → Bool
  | .nan => true
  | _ => false

def XVal.isZero : XVal → Bool
  | .fin _ n _ _ => n == 0
  | _ => false

def XVal.sign : XVal → Bool
  | .nan => false
  | .inf s => s
  | .fin s _ _ _ => s

/-- Signed numerator over a common exponent and denominator. -/
def finNum (s : Bool) (n : Nat) (e emin : Int) (k : Nat) : Int :=
  let v : Int := n * 2 ^ (e - emin).toNat * k
  if s then -v else v

/-- a + b exactly. An exact zero of a nonzero pair or of zeros of opposite sign is −0 only when `rdn` (R162); two zeros of one
sign keep it. -/
def xadd (rdn : Bool) (a b : XVal) : XVal :=
  match a, b with
  | .nan, _ => .nan
  | _, .nan => .nan
  | .inf s, .inf t => if s = t then .inf s else .nan
  | .inf s, _ => .inf s
  | _, .inf t => .inf t
  | .fin s n e d, .fin t m f c =>
    if n = 0 ∧ m = 0 then .fin (if s = t then s else rdn) 0 0 1 else
    let lo := min e f
    let v := finNum s n e lo c + finNum t m f lo d
    if v = 0 then .fin rdn 0 0 1 else .fin (decide (v < 0)) v.natAbs lo (d * c)

/-- a × b exactly (R162: 0 × ∞ is NaN). -/
def xmul (a b : XVal) : XVal :=
  match a, b with
  | .nan, _ => .nan
  | _, .nan => .nan
  | .inf s, .inf t => .inf (s ^^ t)
  | .inf s, .fin t n _ _ => if n = 0 then .nan else .inf (s ^^ t)
  | .fin s n _ _, .inf t => if n = 0 then .nan else .inf (s ^^ t)
  | .fin s n e d, .fin t m f c => .fin (s ^^ t) (n * m) (e + f) (d * c)

/-- a ÷ b exactly (R162). -/
def xdiv (a b : XVal) : XVal :=
  match a, b with
  | .nan, _ => .nan
  | _, .nan => .nan
  | .inf _, .inf _ => .nan
  | .inf s, .fin t _ _ _ => .inf (s ^^ t)
  | .fin s _ _ _, .inf t => .fin (s ^^ t) 0 0 1
  | .fin s n e d, .fin t m f c =>
    if m = 0 then (if n = 0 then .nan else .inf (s ^^ t)) else .fin (s ^^ t) (n * c) (e - f) (d * m)

/-- −1, 0 or 1 as a < b, a = b, a > b; neither is NaN; +0 equals −0. -/
def xcmp (a b : XVal) : Int :=
  match a, b with
  | .inf s, .inf t => if s = t then 0 else if s then -1 else 1
  | .inf s, _ => if s then -1 else 1
  | _, .inf t => if t then 1 else -1
  | .fin s n e d, .fin t m f c =>
    let lo := min e f
    let v := finNum s n e lo c - finNum t m f lo d
    if v < 0 then -1 else if v = 0 then 0 else 1
  | _, _ => 0

def xlt (a b : XVal) : Bool := !a.isNan && !b.isNan && xcmp a b == -1
def xle (a b : XVal) : Bool := !a.isNan && !b.isNan && xcmp a b != 1
def xeq (a b : XVal) : Bool := !a.isNan && !b.isNan && xcmp a b == 0

/-- Floating minimum: NaN wins, −0 below +0 (R116, R117). -/
def xmin (a b : XVal) : XVal :=
  if a.isNan || b.isNan then .nan
  else if a.isZero && b.isZero then .fin (a.sign || b.sign) 0 0 1
  else if xcmp a b == 1 then b else a
/-- Floating maximum: NaN wins, +0 above −0. -/
def xmax (a b : XVal) : XVal :=
  if a.isNan || b.isNan then .nan
  else if a.isZero && b.isZero then .fin (a.sign && b.sign) 0 0 1
  else if xcmp a b == -1 then b else a

/-- Bits carried by the inexact functions (log entry 9). -/
def prec : Nat := 400

/-- The integer square root of n, bit by bit from bit k down. -/
def isqrt (n : Nat) : Nat → Nat → Nat
  | 0, r => if (r + 1) * (r + 1) ≤ n then r + 1 else r
  | k + 1, r => isqrt n k (if (r + 2 ^ (k + 1)) * (r + 2 ^ (k + 1)) ≤ n then r + 2 ^ (k + 1) else r)

/-- √a to `prec` bits and a sticky bit below them, so that one rounding of it is one rounding of the exact root (R162). -/
def xsqrt (a : XVal) : XVal :=
  match a with
  | .nan => .nan
  | .inf s => if s then .nan else .inf false
  | .fin s n e d =>
    if n = 0 then .fin s 0 0 1
    else if s then .nan
    else
      let lg := log2Quot n d + e
      let k : Int := prec - lg / 2
      let (x, y) := quotBy n e d (-(2 * k))
      let r := isqrt (x / y) (prec + 2) 0
      if r * r * y = x then .fin false r (-k) 1 else .fin false (2 * r + 1) (-k - 1) 1

/-! ## The functions of R251, in fixed point of `prec` bits -/

/-- e^(r / 2^prec) · 2^prec for 0 ≤ r < 2^prec. -/
def expFix (r : Nat) : Nat :=
  ((List.range 110).foldl (fun (p : Nat × Nat) k => (p.1 + p.2, p.2 * r / 2 ^ prec / (k + 1))) (0, 2 ^ prec)).1

/-- 2 · atanh(t / 2^prec) · 2^prec for 0 ≤ t ≤ 2^prec / 3. -/
def atanhFix2 (t : Nat) : Nat :=
  2 * ((List.range 130).foldl (fun (p : Nat × Nat) k => (p.1 + p.2 / (2 * k + 1), p.2 * t / 2 ^ prec * t / 2 ^ prec)) (0, t)).1

/-- ln 2 · 2^prec. -/
def ln2Fix : Nat := atanhFix2 (2 ^ prec / 3)

/-- Floor and fraction (in `prec` bits) of n · 2^e / d, and whether it is an integer. -/
def splitFix (neg : Bool) (n : Nat) (e : Int) (d : Nat) : Int × Nat × Bool :=
  let (a, b) := quotBy n e d 0
  if neg then
    if a % b = 0 then (-(a / b : Nat), 0, true) else (-(a / b : Nat) - 1, (b - a % b) * 2 ^ prec / b, false)
  else ((a / b : Nat), a % b * 2 ^ prec / b, a % b == 0)

/-- 2^a (R251). -/
def xexp2 (a : XVal) : XVal :=
  match a with
  | .nan => .nan
  | .inf s => if s then xzero else .inf false
  | .fin s n e d =>
    if xlt (xint 3000) a then .fin false 1 3000 1
    else if xlt a (xint (-3000)) then .fin false 1 (-3000) 1
    else
      let (i, f, whole) := splitFix s n e d
      if whole then .fin false 1 i 1
      else if log2Quot n d + e < -200 then
        -- 2^f = 1 ± a tiny amount: between 1 and its neighbours in any format
        if s then .fin false (2 ^ 300 - 1) (-300) 1 else .fin false (2 ^ 300 + 1) (-300) 1
      else .fin false (2 * expFix (f * ln2Fix / 2 ^ prec) + 1) (i - prec - 1) 1

/-- log₂ a (R251). -/
def xlog2 (a : XVal) : XVal :=
  match a with
  | .nan => .nan
  | .inf s => if s then .nan else .inf false
  | .fin s n e d =>
    if n = 0 then .inf true
    else if s then .nan
    else
      let k := log2Quot n d
      let (x, y) := quotBy n 0 d k
      if x = y then xint (k + e)
      else
        let l := atanhFix2 ((x - y) * 2 ^ prec / (x + y)) * 2 ^ prec / ln2Fix
        xadd false (xint (k + e)) (.fin false (2 * l + 1) (-(prec : Int) - 1) 1)

/-- 1 ÷ a (R251). -/
def xrcp (a : XVal) : XVal :=
  match a with
  | .nan => .nan
  | .inf s => .fin s 0 0 1
  | .fin s n e d => if n = 0 then .inf s else .fin s d (-e) n

/-- 1 ÷ √a (R251). -/
def xrsqrt (a : XVal) : XVal :=
  match a with
  | .nan => .nan
  | .inf s => if s then .nan else xzero
  | .fin s n _ _ => if n = 0 then .inf s else if s then .nan else xsqrt (xrcp a)

/-- tanh a (R251). -/
def xtanh (a : XVal) : XVal :=
  match a with
  | .nan => .nan
  | .inf s => .fin s 1 0 1
  | .fin s n e d =>
    if n = 0 then .fin s 0 0 1
    else
      let lg := log2Quot n d + e
      if lg < -60 then .fin s (n * (2 ^ 100 - 1)) (e - 100) d
      else if 8 ≤ lg then .fin s (2 ^ 300 - 1) (-300) 1
      else
        let (x, y) := quotBy n e d (-(prec : Int) - 1)
        let t := x / y                          -- 2|a| in fixed point
        let q := t / ln2Fix
        let E := expFix (t % ln2Fix) * 2 ^ q
        .fin s (2 * ((E - 2 ^ prec) * 2 ^ prec / (E + 2 ^ prec)) + 1) (-(prec : Int) - 1) 1

/-! ## Block scales (R109, R111) -/

/-- `DecodeScale` of R109. -/
def decScale (v : Nat) : XVal :=
  let ex := fld v 12 8; let fr := fld v 0 12
  if ex = 255 then .nan
  else if ex = 0 then .fin false fr (-138) 1
  else .fin false (4096 + fr) ((ex : Int) - 139) 1

/-- The value of a scaled element (R111). -/
def scaled (x sc : XVal) : XVal :=
  match sc with
  | .nan => .nan
  | _ => match x with
    | .nan => .nan
    | .inf s => if sc.isZero then .nan else .inf s
    | .fin s n e d => match sc with
      | .fin _ m f c => .fin s (n * m) (e + f) (d * c)
      | _ => .nan

/-- The smallest S20 value at or above a positive x, at most `lim`; powers of two only when `pow2` (R258). -/
def scaleAbove (x : XVal) (pow2 : Bool) (lim : Nat) : Nat :=
  match x with
  | .fin _ n e d =>
    let q := roundMag false n e d (-126) (if pow2 then 0 else 12) 2 0
    -- a power of two below 2^-126 lies on the subnormal grid of R109
    let v := if pow2 then
        (if q ≤ 1 ∧ log2Quot n d + e < -126 then
          (let f := roundMag false n e d (-126) 12 2 0
           if f ≤ 1 then 1 else min 4096 (2 ^ (Nat.log2 (f - 1) + 1)))
         else q * 4096)
      else q
    min v lim
  | _ => lim

end Sys2Proof.Machine
end

