-- ==== Sys2Proof/Syntax.lean ====
section
/-! DEFINITION. The instructions and events of spec/opcode_table.json as syntax: one constructor per row, with the fields
that R123, R126, R130, R136 and R137 give them. An operand field of a wider encoding (a predicate, stream or handle
register) holds its own bits only; WellFormed says which values of the others the manual assigns. -/

namespace Sys2Proof

/-- The `mod` prefix (R126). -/
structure Pfx where
  pen : Bool
  pneg : Bool
  pred : PReg
  ftz : Bool
  sat : Bool
  round : BitVec 3
  deriving DecidableEq, Repr

/-- An operand slot of a record (R137). -/
structure Slot where
  str : SReg
  off : BitVec 12
  st0 : BitVec 16
  st1 : BitVec 16
  st2 : BitVec 16
  st3 : BitVec 16
  deriving DecidableEq, Repr

/-- The fields of an engine record that its operation does not fix (R136, R137). -/
structure Rec where
  sat : Bool
  round : BitVec 3
  pen : Bool
  pneg : Bool
  pred : PReg
  nest : BitVec 2
  hr : Bool
  hl : Bool
  pr : Bool
  pl : Bool
  ctl : Half
  t0 : BitVec 16
  t1 : BitVec 16
  t2 : BitVec 16
  t3 : BitVec 16
  sD : Slot
  sA : Slot
  sB : Slot
  sC : Slot
  imm : Word
  deriving DecidableEq, Repr

/-- A fabric message as it arrives (R417): header, payload and CRC, byte for byte. -/
structure FabMsg where
  bytes : List Byte
  deriving DecidableEq, Repr

/-- An uncorrectable error of an on-die store (R440). -/
inductive DieErr where
  | cacheClean (pa : Nat)
  | cacheDirty (ctx pa : Nat)
  | scratch (core line : Nat)
  | acc (core tile : Nat)
  | matching (ctx : Nat)
  | reduction (ctx : Nat)
  | unit (b site : Nat)          -- registers, record queues, tokens, ring and barrier state
  | pqueue (core : Nat)
  deriving DecidableEq, Repr

/-- What an event carries: the parties, places and values it names. An event uses the fields its docstring names and
ignores the others. -/
structure EvArg where
  b : Nat := 0               -- berth
  q : Nat := 0               -- queue
  ctx : Nat := 0             -- context
  lsl : Nat := 0             -- launch slot
  stg : Nat := 0             -- stage
  stk : Nat := 0             -- stack
  k : Nat := 0               -- index of a request on its way, or of a word
  ent : Nat := 0             -- copy schedule entry
  core : Nat := 0
  tag : Nat := 0
  side : Nat := 0
  win : Nat := 0
  src : Nat := 0             -- sending stack
  dst : Nat := 0             -- receiving stack
  cls : Nat := 0             -- traffic class
  seq : Nat := 0
  rep : Nat := 0             -- reporting stack
  acc : Nat := 0             -- accused stack
  code : Nat := 0            -- cause code
  pa : Nat := 0              -- physical address
  ecc : Nat := 0             -- wrong bits in a granule
  par : Nat := 0             -- launch parity
  off : Nat := 0             -- window offset
  n : Nat := 0               -- a number or a mask
  flag : Bool := false
  v : Word := 0              -- value written
  w : Half := 0              -- an instruction word
  img : List Byte := []      -- firmware image
  msg : FabMsg := ⟨[]⟩
  err : DieErr := .cacheClean 0
  deriving DecidableEq, Repr

/-- One constructor per row of the opcode table. Operands stand as fields, with two exceptions that keep the type within the
244 constructors with fields that Lean can compile. `callw`, `plive`, `segb` and `sege` have no register field, and their one
operand is the whole second word; `mod` is a prefix, and its fields are its whole word: the step keeps these words in
`State.ir`. What an event names stands in `State.arg`. -/
inductive Instr where
  | brk (n : BitVec 6)
  | sysc (n : BitVec 6)
  | add (d : GReg) (a : GReg) (b : GReg)
  | sub (d : GReg) (a : GReg) (b : GReg)
  | mul (d : GReg) (a : GReg) (b : GReg)
  | mulh (d : GReg) (a : GReg) (b : GReg)
  | mulhn (d : GReg) (a : GReg) (b : GReg)
  | div (d : GReg) (a : GReg) (b : GReg)
  | divn (d : GReg) (a : GReg) (b : GReg)
  | rem (d : GReg) (a : GReg) (b : GReg)
  | remn (d : GReg) (a : GReg) (b : GReg)
  | and (d : GReg) (a : GReg) (b : GReg)
  | or (d : GReg) (a : GReg) (b : GReg)
  | xor (d : GReg) (a : GReg) (b : GReg)
  | andn (d : GReg) (a : GReg) (b : GReg)
  | orn (d : GReg) (a : GReg) (b : GReg)
  | shl (d : GReg) (a : GReg) (b : GReg)
  | shr (d : GReg) (a : GReg) (b : GReg)
  | sra (d : GReg) (a : GReg) (b : GReg)
  | rol (d : GReg) (a : GReg) (b : GReg)
  | min (d : GReg) (a : GReg) (b : GReg)
  | max (d : GReg) (a : GReg) (b : GReg)
  | minn (d : GReg) (a : GReg) (b : GReg)
  | maxn (d : GReg) (a : GReg) (b : GReg)
  | clz (d : GReg) (a : GReg)
  | ctz (d : GReg) (a : GReg)
  | pop (d : GReg) (a : GReg)
  | bswap (d : GReg) (a : GReg)
  | adds (d : GReg) (a : GReg) (b : GReg)
  | subs (d : GReg) (a : GReg) (b : GReg)
  | addi (d : GReg) (a : GReg) (imm : BitVec 12)
  | andi (d : GReg) (a : GReg) (imm : BitVec 12)
  | ori (d : GReg) (a : GReg) (imm : BitVec 12)
  | xori (d : GReg) (a : GReg) (imm : BitVec 12)
  | shli (d : GReg) (a : GReg) (sh : BitVec 6)
  | shri (d : GReg) (a : GReg) (sh : BitVec 6)
  | srai (d : GReg) (a : GReg) (sh : BitVec 6)
  | roli (d : GReg) (a : GReg) (sh : BitVec 6)
  | cmpEq (d : PReg) (a : GReg) (b : GReg)
  | cmpNe (d : PReg) (a : GReg) (b : GReg)
  | cmpLt (d : PReg) (a : GReg) (b : GReg)
  | cmpLe (d : PReg) (a : GReg) (b : GReg)
  | cmpLtn (d : PReg) (a : GReg) (b : GReg)
  | cmpLen (d : PReg) (a : GReg) (b : GReg)
  | cmpi (cc : BitVec 3) (d : PReg) (a : GReg) (imm : BitVec 12)
  | pand (d : PReg) (a : PReg) (b : PReg)
  | por (d : PReg) (a : PReg) (b : PReg)
  | pxor (d : PReg) (a : PReg) (b : PReg)
  | pandn (d : PReg) (a : PReg) (b : PReg)
  | sel (d : GReg) (a : GReg) (b : GReg) (pn : PReg) (inv : Bool)
  | faddD (d : GReg) (a : GReg) (b : GReg)
  | fsubD (d : GReg) (a : GReg) (b : GReg)
  | fmulD (d : GReg) (a : GReg) (b : GReg)
  | fdivD (d : GReg) (a : GReg) (b : GReg)
  | fsqrtD (d : GReg) (a : GReg)
  | fminD (d : GReg) (a : GReg) (b : GReg)
  | fmaxD (d : GReg) (a : GReg) (b : GReg)
  | fmacD (d : GReg) (a : GReg) (b : GReg)
  | fabsD (d : GReg) (a : GReg)
  | fnegD (d : GReg) (a : GReg)
  | faddS (d : GReg) (a : GReg) (b : GReg)
  | fsubS (d : GReg) (a : GReg) (b : GReg)
  | fmulS (d : GReg) (a : GReg) (b : GReg)
  | fdivS (d : GReg) (a : GReg) (b : GReg)
  | fsqrtS (d : GReg) (a : GReg)
  | fminS (d : GReg) (a : GReg) (b : GReg)
  | fmaxS (d : GReg) (a : GReg) (b : GReg)
  | fmacS (d : GReg) (a : GReg) (b : GReg)
  | fabsS (d : GReg) (a : GReg)
  | fnegS (d : GReg) (a : GReg)
  | fcmpEqS (d : PReg) (a : GReg) (b : GReg)
  | fcmpLtS (d : PReg) (a : GReg) (b : GReg)
  | fcmpLeS (d : PReg) (a : GReg) (b : GReg)
  | fcmpUnS (d : PReg) (a : GReg) (b : GReg)
  | fcmpEqD (d : PReg) (a : GReg) (b : GReg)
  | fcmpLtD (d : PReg) (a : GReg) (b : GReg)
  | fcmpLeD (d : PReg) (a : GReg) (b : GReg)
  | fcmpUnD (d : PReg) (a : GReg) (b : GReg)
  | cvtDI (d : GReg) (a : GReg)
  | cvtDN (d : GReg) (a : GReg)
  | cvtID (d : GReg) (a : GReg)
  | cvtND (d : GReg) (a : GReg)
  | cvtSD (d : GReg) (a : GReg)
  | cvtDS (d : GReg) (a : GReg)
  | cvtSI (d : GReg) (a : GReg)
  | cvtIS (d : GReg) (a : GReg)
  | cvtHS (d : GReg) (a : GReg)
  | cvtSH (d : GReg) (a : GReg)
  | cvtBfS (d : GReg) (a : GReg)
  | cvtSBf (d : GReg) (a : GReg)
  | bra (off : BitVec 20)
  | bp (p : PReg) (neg : Bool) (off : BitVec 20)
  | call (off : BitVec 20)
  | jr (a : GReg)
  | callr (a : GReg)
  | ldB (d : GReg) (a : GReg) (sp : Bool) (off : BitVec 8)
  | ldBn (d : GReg) (a : GReg) (sp : Bool) (off : BitVec 8)
  | ldH (d : GReg) (a : GReg) (sp : Bool) (off : BitVec 8)
  | ldHn (d : GReg) (a : GReg) (sp : Bool) (off : BitVec 8)
  | ldW (d : GReg) (a : GReg) (sp : Bool) (off : BitVec 8)
  | ldWn (d : GReg) (a : GReg) (sp : Bool) (off : BitVec 8)
  | ldD (d : GReg) (a : GReg) (sp : Bool) (off : BitVec 8)
  | stB (d : GReg) (a : GReg) (sp : Bool) (off : BitVec 8)
  | stH (d : GReg) (a : GReg) (sp : Bool) (off : BitVec 8)
  | stW (d : GReg) (a : GReg) (sp : Bool) (off : BitVec 8)
  | stD (d : GReg) (a : GReg) (sp : Bool) (off : BitVec 8)
  | pub (sc : BitVec 2)
  | ref (sc : BitVec 2)
  | phase (sc : BitVec 2)
  | tokp (f : BitVec 3)
  | tokw (f : BitVec 3)
  | qwait (a : GReg) (k : BitVec 2)
  | qseq (d : GReg) (k : BitVec 2)
  | racq (d : GReg) (q : SReg)
  | rrel (q : SReg) (b : GReg)
  | rwait (d : GReg) (q : SReg)
  | rpop (q : SReg)
  | rtest (d : PReg) (q : SReg) (k : BitVec 1)
  | rstat (d : GReg) (q : SReg)
  | bara (d : GReg) (a : GReg)
  | barad (d : GReg) (a : GReg)
  | barw (a : GReg) (b : GReg)
  | bart (d : PReg) (a : GReg) (b : GReg)
  | barx (a : GReg) (b : GReg)
  | barq (d : GReg) (a : GReg)
  | gjoin (d : GReg) (a : GReg)
  | gsize (d : GReg) (a : GReg)
  | grank (d : GReg)
  | tagal (d : GReg) (a : GReg) (b : GReg)
  | tagfr (a : GReg)
  | tagq (d : GReg) (a : GReg)
  | tsub (d : GReg) (a : GReg) (b : GReg)
  | tdep (a : GReg)
  | tinfo (d : GReg) (k : BitVec 3)
  | pqins (d : GReg) (a : GReg) (b : GReg)
  | pqpop (d : GReg) (f : PReg) (s : PReg) (b : GReg)
  | pqpeek (d : GReg) (f : PReg) (s : PReg) (b : GReg)
  | pqinv (a : GReg) (b : GReg)
  | pqclr (b : GReg)
  | pqcnt (d : GReg) (b : GReg)
  | mfs (d : GReg) (n : BitVec 12)
  | mts (n : BitVec 12) (a : GReg)
  | rnd (d : GReg)
  | rndk (a : GReg) (b : GReg)
  | chkerr (d : GReg)
  | sigr (d : GReg)
  | logm (a : GReg)
  | logq (d : GReg) (k : BitVec 1)
  | accrd (d : GReg) (a : GReg)
  | accwr (d : GReg) (a : GReg)
  | rpw (d : GReg) (a : GReg) (b : GReg)
  | rpr (d : GReg) (a : GReg) (b : GReg)
  | rpt (d : GReg) (a : GReg)
  | smov (d : SReg) (a : SReg)
  | sld (d : SReg) (a : GReg)
  | sst (d : SReg) (a : GReg)
  | rwopen (d : GReg) (a : GReg) (b : GReg)
  | rwclose (a : GReg)
  | movi (d : GReg) (imm : Half)
  | movhi (d : GReg) (imm : Half)
  | addwi (d : GReg) (a : GReg) (imm : Half)
  | cmpwi (cc : BitVec 3) (d : PReg) (a : GReg) (imm : Half)
  | braw (p : PReg) (neg : Bool) (imm : Half)
  | lea (d : GReg) (a : GReg) (imm : Half)
  | ldlB (d : GReg) (a : GReg) (imm : Half)
  | ldlBn (d : GReg) (a : GReg) (imm : Half)
  | ldlH (d : GReg) (a : GReg) (imm : Half)
  | ldlHn (d : GReg) (a : GReg) (imm : Half)
  | ldlW (d : GReg) (a : GReg) (imm : Half)
  | ldlWn (d : GReg) (a : GReg) (imm : Half)
  | ldlD (d : GReg) (a : GReg) (imm : Half)
  | stlB (d : GReg) (a : GReg) (imm : Half)
  | stlH (d : GReg) (a : GReg) (imm : Half)
  | stlW (d : GReg) (a : GReg) (imm : Half)
  | stlD (d : GReg) (a : GReg) (imm : Half)
  | atomAdd (d : GReg) (a : GReg) (b : GReg) (w : Bool) (o : BitVec 3) (sc : BitVec 2) (ord : Bool)
  | atomSub (d : GReg) (a : GReg) (b : GReg) (w : Bool) (o : BitVec 3) (sc : BitVec 2) (ord : Bool)
  | atomAnd (d : GReg) (a : GReg) (b : GReg) (w : Bool) (o : BitVec 3) (sc : BitVec 2) (ord : Bool)
  | atomOr (d : GReg) (a : GReg) (b : GReg) (w : Bool) (o : BitVec 3) (sc : BitVec 2) (ord : Bool)
  | atomXor (d : GReg) (a : GReg) (b : GReg) (w : Bool) (o : BitVec 3) (sc : BitVec 2) (ord : Bool)
  | atomMin (d : GReg) (a : GReg) (b : GReg) (w : Bool) (o : BitVec 3) (sc : BitVec 2) (ord : Bool)
  | atomMax (d : GReg) (a : GReg) (b : GReg) (w : Bool) (o : BitVec 3) (sc : BitVec 2) (ord : Bool)
  | atomMinn (d : GReg) (a : GReg) (b : GReg) (w : Bool) (o : BitVec 3) (sc : BitVec 2) (ord : Bool)
  | atomMaxn (d : GReg) (a : GReg) (b : GReg) (w : Bool) (o : BitVec 3) (sc : BitVec 2) (ord : Bool)
  | atomXchg (d : GReg) (a : GReg) (b : GReg) (w : Bool) (o : BitVec 3) (sc : BitVec 2) (ord : Bool)
  | atomCas (d : GReg) (a : GReg) (b : GReg) (c : GReg) (o : BitVec 3) (sc : BitVec 2) (ord : Bool)
  | atomFaddS (d : GReg) (a : GReg) (b : GReg) (o : BitVec 3) (sc : BitVec 2) (ord : Bool)
  | atomFaddD (d : GReg) (a : GReg) (b : GReg) (o : BitVec 3) (sc : BitVec 2) (ord : Bool)
  | atomFmaxS (d : GReg) (a : GReg) (b : GReg) (o : BitVec 3) (sc : BitVec 2) (ord : Bool)
  | atomFminS (d : GReg) (a : GReg) (b : GReg) (o : BitVec 3) (sc : BitVec 2) (ord : Bool)
  | sdef (d : SReg) (a : GReg) (b : GReg) (c : GReg) (fmt : BitVec 16) (spc : BitVec 2) (sb : BitVec 2)
  | lTile (r : Rec)
  | lGth (r : Rec)
  | lMc (r : Rec)
  | lSc (r : Rec)
  | lAcc (r : Rec)
  | lZero (r : Rec)
  | lPf (r : Rec)
  | lCv (r : Rec)
  | mma (r : Rec)
  | mmaSp (r : Rec)
  | accZero (r : Rec)
  | accCopy (r : Rec)
  | vAdd (r : Rec)
  | vSub (r : Rec)
  | vMul (r : Rec)
  | vFma (r : Rec)
  | vMin (r : Rec)
  | vMax (r : Rec)
  | vAbs (r : Rec)
  | vNeg (r : Rec)
  | vSel (r : Rec)
  | vCmp (r : Rec)
  | vCvt (r : Rec)
  | vMov (r : Rec)
  | vBcast (r : Rec)
  | vAnd (r : Rec)
  | vOr (r : Rec)
  | vXor (r : Rec)
  | vShl (r : Rec)
  | vShr (r : Rec)
  | vExp2 (r : Rec)
  | vLog2 (r : Rec)
  | vRcp (r : Rec)
  | vRsqrt (r : Rec)
  | vTanh (r : Rec)
  | vClamp (r : Rec)
  | rSum (r : Rec)
  | rMax (r : Rec)
  | rMin (r : Rec)
  | rAmax (r : Rec)
  | rArgmax (r : Rec)
  | rTopk (r : Rec)
  | xTr (r : Rec)
  | xGth (r : Rec)
  | sdfSmp (r : Rec)
  | sweep (r : Rec)
  | sTile (r : Rec)
  | sQuant (r : Rec)
  | sScat (r : Rec)
  | sRed (r : Rec)
  | sMeet (r : Rec)
  | sCkpt (r : Rec)
  | sRing (r : Rec)
  | nop
  | tgt
  | eret
  | yield
  | mod
  | unassignedEncoding
  | misalignedItem
  | ret
  | loadWriteback
  | fenceSc
  | fenceIo
  | waitpv
  | sms
  | qdrain
  | gleave
  | tdone
  | tstage
  | rawPacketComplete
  | callw
  | plive
  | segb
  | sege
  | recordStart
  | recordIssue
  | recordRetire
  | waitSatisfied
  | strandPlacement
  | placeZeroingDone
  | taskDispatch
  | stageAgeTick
  | taskRequest
  | tsubAtOwner
  | depDecrement
  | completionReport
  | copyEntryComplete
  | launchStart
  | launchComplete
  | lqKick
  | launchFetchRetry
  | lqCfgWrite
  | preemptPre
  | preemptRequestArrive
  | preemptHintBoundExpiry
  | contextSaveComplete
  | preemptRes
  | resumeComplete
  | preemptFls
  | ctxFltDsc
  | ctxLogcWrite
  | ctxCkiClear
  | svcCtlShed
  | svcCtlReturn
  | svcTimWrite
  | quiescentPoint
  | stackPowerUp
  | selfTestComplete
  | stackPowerLoss
  | lockstepMismatch
  | fabricMessageReceive
  | fabricAckReceive
  | ackTimeout
  | linkRecoveryExpiry
  | heartbeatTimer
  | suspectReportReceive
  | suspectReportExpiry
  | viewProposalReceive
  | viewAckReceive
  | viewCommit
  | fencedStackPowerDown
  | atomicPerform
  | migrationCopyComplete
  | orderedBatchPerform
  | reductionContributionArrive
  | windowMerge
  | meetOperandArrive
  | meetResultDelivery
  | spillHoldExpiry
  | orphanTimeout
  | multicastDelivery
  | ringDelivery
  | segmentCycleBound
  | patrolScrub
  | onDieUncorrectableError
  | powerCapExceeded
  | dvPcapWrite
  | attestationRequest
  | attestationReportReady
  | debugTokenSubmit
  | dvQscrWrite
  | quarantineScrubDone
  | dvEccClear
  | dvUccClear
  | dbgCtlStop
  | dbgCtlRun
  | dbgCtlStep
  | dbgCctlSall
  | dbgCctlRall
  | dbgCctlPclr
  | dbgDatRead
  | dbgDatWrite
  | dbgPcWrite
  | traceConfigWrite
  | registerWrite
  | pqSelectionWriteback
  | powerFallsBelowCap
  | lifeCycleAdvance
  | dbgStClear
  deriving DecidableEq, Repr

end Sys2Proof
end

