-- ==== Sys2Proof/Machine/State.lean ====
section
/-! DEFINITION. The state of the Stavdel SX4 as plain data: everything the manual gives the package (INVENTORY.md,
'## State'). Words that software reads whole are bit vectors; what only the device counts is a natural number; sparse
tables are canonical lists (`AMap`). -/

namespace Sys2Proof.Machine

/-- Bytes by address, canonical with default 0 (log entry 6). -/
abbrev Mem := AMap Byte

/-- The three shapes of R2. -/
inductive Shape where
  | sx4 | sx2 | sx1
  deriving DecidableEq, Repr

/-- Berth states of R280. -/
inductive BState where
  | free | place | idle | run | wait | save | restore
  deriving DecidableEq, Repr

/-- What a strand in WAIT waits for (R225); the instruction has had no effect, except a request already on its way. -/
inductive WaitKind where
  | none
  | tokp (f : Nat)                 -- R193
  | tokw (f : Nat)
  | qwait (k target : Nat)
  | qdrain                         -- also tdone, chkerr: every queue empty (R208, R221)
  | racq (core desc : Nat)         -- R198
  | rwait (core desc : Nat)
  | barw (id x : Nat)              -- R202
  | waitpv                         -- R54
  | reply                          -- atom, tsub, rwclose: the answer has not come back
  | tagfr (tag : Nat)              -- R220
  | sege                           -- R222
  | raw (tag : Nat)                -- rpt (R183)
  | rawio                          -- fence.io (R191)
  | home (sc : Nat)                -- a release at that scope whose publish a silent home has still to take (R190, R225)
  | win (n : Nat)                  -- rwclose of a window that another strand is closing
  | log                            -- an event held by the order log (R309, R311)
  deriving DecidableEq, Repr

/-- What has happened before a point (R78), as far as global memory is concerned: by thread, the number of the last of its accesses that has.
Thread 0 is the host; strands, records, copies and deliveries have numbers of their own (`threadOf`). -/
abbrev Clock := AMap Nat

/-- One store of a byte of global memory (R73, R79): the thread that made it, the event in which its program order has it, the event in which it
was performed, its context, and the value. -/
structure Ver where
  who : Nat
  iss : Nat
  perf : Nat
  ctx : Nat
  v : Byte
  deriving DecidableEq, Repr

/-- The release side of a pair through an atomic location (R77): what happened before it, its scope, its berth, and whether it is a `pub`
before the atomic (row 2) and not the atomic's own ordering (row 1). -/
structure Rel where
  clk : Clock
  sc : Nat
  src : Nat
  via : Bool
  deriving DecidableEq, Repr

/-- A token (R192) or what a filled ring slot carries for the model of R77: the records that a pop joins (queue,
append position) and their strand, and what happened before the push or the release. The first of the records is the one that pushed or filled. -/
structure Tok where
  ids : List (Nat × Nat)
  src : Nat                  -- the strand of these records, as a thread
  clk : Clock
  deriving DecidableEq, Repr

/-- State of an engine record (R231, R232, R364). -/
inductive RState where
  | waitTok | started | faulted | pushing | retired
  deriving DecidableEq, Repr

/-- A range of the range checker (R235): space 1 scratchpad or 2 accumulator, first byte, past-last byte, written. -/
structure Rng where
  spc : Nat
  lo : Nat
  hi : Nat
  wr : Bool
  deriving DecidableEq, Repr

/-- One used slot of a record as C fixed it at append (R230): the stream register, the handle, whether `bi` or the table
uses the slot, and the ring slot bound at start (R234). -/
structure SlotUse where
  stream : BitVec 256
  handle : Word
  used : Bool
  bound : Option Nat
  deriving DecidableEq, Repr

/-- An engine record of a strand, from append to join (R57, R230–R239). -/
structure QRec where
  q : Nat                    -- queue 0 L, 1 X, 2 S
  opn : Nat                  -- R140
  r : Rec
  addr : Word                -- address of word 0
  word0 : Half
  idx : Nat                  -- append count of its queue before it
  live : Bool                -- the predicate (R139)
  st : RState
  point : Nat                -- next issue, counted in loop order (R227)
  toks : Bool                -- its tokens are taken
  slots : List SlotUse       -- D, A, B, C
  ranges : List Rng
  draw0 : Nat                -- first reserved draw number (R180)
  draws : Nat                -- draws already used
  key : Word                 -- generator key at append
  tid : Nat                  -- its number as a thread (R57)
  clk : Clock                -- what has happened before its next access (R58): the fork, and what its tokens and ring slots bring
  wr : Mem                   -- its own global stores, not yet joined or published
  joins : List (Nat × Nat)   -- records whose tokens or ring slots it has taken (R57): queue and position
  pops : List (Nat × Nat)    -- deterministic pairing (R236): FIFO and pop number
  pushes : List (Nat × Nat)  -- FIFO and push number
  arrived : Option (Nat × Nat)  -- barrier and phase it arrived in
  fcode : Nat                -- code of its fault, for the error arrival (R397)
  faddr : Word
  fval : Word
  flane : Word
  poisoned : Bool            -- an issue read poison (R393)
  skip : Bool                -- `tact` 1: no further issue (R368)
  gval : List XVal           -- elements of the current reduction group read so far (R252)
  front : List Nat           -- by queue, how many of its records program order puts before this one (R236)
  inSeg : Bool               -- appended within the open segment (R222)
  pushed : Nat               -- tokens of the retirement already pushed
  joinAtEnd : Bool           -- a stalled C access joins it when it retires (R57)
  sent : Nat                 -- fabric sends of the last issue not yet acknowledged (R232)
  left : List (Nat × Nat × Bool)  -- contributions of the last issue that have not entered the ordered buffer yet: element, value, poison (R314)
  deriving DecidableEq, Repr

/-- One token FIFO (R192), with the push and pop numbers of R236. -/
structure Fifo where
  npush : Nat                -- pushes numbered so far, in program order
  npop : Nat                 -- pops numbered so far
  done : List (Nat × Tok)    -- the tokens held, oldest first, each with its push number
  fronts : List (Nat × List Nat)  -- pushes whose pop is still to come: number, and what is ordered before (R236)
  deriving DecidableEq, Repr

def Fifo.zero : Fifo := ⟨0, 0, [], []⟩

/-- The trap registers 0x010–0x01E (R362). -/
structure TrapRegs where
  tcause : Word
  tpc : Word
  taddr : Word
  tval : Word
  tword : Word
  tprd : Word
  tscr : Word
  tact : Word
  tcql : Word
  tcqx : Word
  tcqs : Word
  tcil : Word
  tcix : Word
  tcis : Word
  tlane : Word
  deriving DecidableEq, Repr

/-- An open segment and the `sigr` accumulator (R222, R297). -/
structure Seg where
  isOpen : Bool
  disarmed : Bool
  crc : Half
  addr : Word
  il : Half
  ix : Half
  is : Half
  bound : Half
  cycles : Word
  acc : Half
  deriving DecidableEq, Repr

/-- Which buffered ordered atomic (R315). -/
structure OrdAt where
  fn : Nat
  scope : Nat
  wide : Bool                -- 8 bytes
  val : Word
  ptr : Word
  batch : Nat
  pz : Bool
  byRec : Option Nat         -- append position of the `s.red` that made it (R259)
  tid : Nat                  -- the thread that made it
  iss : Nat                  -- event of its issue
  clk : Clock                -- what happened before its issue (R79)
  deriving DecidableEq, Repr

/-- A C load that has issued and not written back (R386). -/
structure LoadOut where
  d : GReg
  val : Word
  pz : Bool
  deriving DecidableEq, Repr

/-- One entry of a priority queue (R265). -/
structure PqEnt where
  key : Nat
  pay : Nat
  ins : Nat
  deriving DecidableEq, Repr

/-- A `pqpop` or `pqpeek` in progress (R269). -/
structure PqSel where
  d : GReg
  f : PReg
  s : PReg
  n : Nat                    -- queue
  tries : Nat
  cand : Option (Nat × Nat × Nat)   -- key, payload, insertion number of the candidate, none before a selection starts
  remove : Bool
  words : List Half          -- the instruction's words
  ents : List PqEnt          -- what the queue held before the first selection, put back when the log holds the outcome (R309)
  deriving DecidableEq, Repr

/-- The debug state of a berth (R446). -/
structure Dbg where
  stp : Bool
  why : Nat
  bcode : Nat
  err : Bool
  dlw : Bool
  sel : Word
  dat : Word                 -- value of the last `dbg_dat` read
  due : Nat                  -- `why` of the stop that follows the unit in progress, 0 none (R448)
  skipBp : Bool              -- first unit after a release is not matched (R448)
  deriving DecidableEq, Repr

/-- A live map as read: the registers and the line ranges that it names (R295). -/
structure LiveMap where
  gm : Nat
  pm : Nat
  sm : Nat
  qm : Nat
  ranges : List (Bool × Nat × Nat)   -- accumulator store or scratchpad, first line, past-last line
  deriving DecidableEq, Repr

/-- What a saved strand record holds that the device keeps in the berth's debug window, and the switch (R290–R292). -/
structure Switch where
  asked : Bool               -- a pre-emption request has reached the berth's stack
  hintOver : Bool            -- the hint bound has passed, or a context fault asks for the next boundary (R372)
  live : Option (Nat × LiveMap)  -- the live map of a `plive` switch, with its index; none: a full save
  before : BState            -- state before the save
  cutWas : Bool              -- the queues stood at the cut before the switch
  deriving DecidableEq, Repr

/-- One berth and the strand it holds (R33, R35, R280). -/
structure Berth where
  st : BState
  ctx : Nat                  -- context of the strand, or of the saved state (R446)
  lsl : Nat                  -- launch slot of the context (R299): seq mod 2
  stage : Nat
  lastOcc : Option Nat       -- last occupant context (R454)
  pc : Word
  pfx : Option Pfx           -- a `mod` of the unit in progress (R127)
  pfxWord : Half
  g : AMap Word
  p : BitVec 8
  s : AMap (BitVec 256)
  q : AMap Word
  rngk : Word
  rngc : Word
  trap : TrapRegs
  trapped : Bool             -- a trap has been recorded since the task began (R370)
  cut : Bool                 -- the queues stand at the cut (R365 step 2, R447)
  haltF : Bool               -- the strand made its cut for a context fault and issues nothing (R372)
  recs : List QRec           -- appended records, oldest first, until they have joined
  hist : List (Nat × Nat × List Rng)  -- deterministic mode: queue, position, ranges of records not ordered by C (R236)
  qfront : List (List Nat)   -- by queue, what is ordered before the next record of it (R236)
  app : List Half            -- append counts A(k) (R193)
  qsn : List Half            -- queue sequence numbers (R32)
  fifos : List Fifo          -- six (R192)
  arrs : List (Nat × Nat × Nat × Nat)  -- arrivals of records not yet observed: queue, position, barrier, phase (R57, R236)
  tid : Nat                  -- the strand's number as a thread
  clk : Clock                -- what happens before its next access (R78, R79): what its acquires have brought
  also : Clock               -- what the records that other parties have joined bring to its releases (R57, R58)
  pubs : AMap Clock          -- by scope, what its last `pub` there released (R77 row 2)
  acqs : List Rel            -- releases that its atomics have read and no `ref` has taken yet (R77 row 2)
  refs : AMap Nat            -- by scope, the event of its last `ref` (R77 row 2)
  pend : Mem                 -- own unpublished stores (R74)
  handle : Half              -- task handle (R41)
  hasTask : Bool
  gang : Option Nat          -- R55
  arrivedPh : Option Nat     -- phase of the gang barrier in which the member has arrived (R205)
  joinNo : Nat               -- join order in the gang (R204)
  waiting : WaitKind
  answer : Option Word       -- the answer a `reply` wait is for
  seg : Seg
  obuf : List OrdAt          -- ordered-atomic buffer (R314)
  batch : Nat                -- batch number (R315)
  outLoad : Option LoadOut
  pq : Option PqSel
  spill : AMap Word          -- spill map (R294)
  pixc : Nat                 -- logged events of C of the task (R307)
  issueAge : Nat             -- R286
  lastIssue : Nat            -- event number of the last issue, 0 never
  yielded : Bool             -- R287
  stalled : Bool             -- C has no instruction that it can issue: its next one stalls (R31, R59, R286)
  xAge : List Nat            -- issue ages of the L, X and S queues (R286)
  xLast : List Nat           -- event numbers of their last issues, 0 never
  pzg : AMap Bool            -- granules of unpublished stores that carry poison (R392)
  wholeg : AMap Bool         -- granules that one unpublished store has written whole (R391)
  rawBack : AMap Nat         -- status of the last packet this berth issued on each tag in the task, plus one (R187)
  landing : List (Nat × Mem) -- landed reads no `rpt` has returned: tag and the old bytes (R185)
  bank : AMap (Nat × Nat × Word) -- registers parked in this berth's bank (R294): owner berth, register, value
  dbg : Dbg
  sw : Switch
  profAt : Nat               -- event at which its profile counters were last cleared (R454)
  profStop : Option Nat      -- event at which its sequencers ceased to be counted, none while they are (R453)
  awaited : AMap Bool        -- flags that a sequencer has waited for since then (R453)
  deriving DecidableEq, Repr

/-- One ring (R72, R196). -/
structure Ring where
  desc : Word
  head : Nat
  tail : Nat
  claimed : Nat
  full : AMap Bool
  owner : AMap Nat
  pay : AMap Tok             -- what a filled slot carries for R77
  grants : Nat               -- grant number for the log (R308)
  freed : AMap Clock         -- by slot, what happened before it was freed (R77)
  deriving DecidableEq, Repr

/-- One phase barrier (R200, R396). -/
structure Bar where
  phase : Nat
  e : Int                    -- drops and a `gleave` can take it below zero for a phase (R201, R205)
  x : Nat
  a : Nat
  d : Nat
  j : Nat
  ev : Bool
  ecode : Nat
  ephase : Nat
  err : Option Nat           -- code of the first error arrival counted in the current phase (R398)
  lsl : Nat                  -- launch slot of the last arrival: its log has the PHASE (R305, R308)
  clk : Clock                -- what happened before the arrivals of the current phase (R77)
  past : AMap Clock          -- the same by completed phase
  deriving DecidableEq, Repr

/-- One priority queue (R265). -/
structure Pq where
  ents : List PqEnt
  inv : AMap Bool
  ctr : Nat
  ops : Nat                  -- place in the queue's order (R308)
  deriving DecidableEq, Repr

/-- One raw packet tag of a core (R183, R184). -/
structure RawTag where
  busy : Bool
  berth : Nat
  write : Bool
  pa : Nat
  mask : Nat
  dst : Nat
  data : List Byte
  order : Nat                -- issue order (R185)
  mine : Bool                -- issued by the berth's strand since its task started (R187)
  deriving DecidableEq, Repr

/-- One tile core (R18, R69). -/
structure Core where
  held : Option Nat          -- context whose data the core's stores hold
  sp : Mem
  acc : Mem
  spz : AMap Bool            -- poisoned 64-byte lines (R391)
  accz : AMap Bool           -- poisoned tiles
  rings : AMap Ring
  bars : AMap Bar            -- core barriers 0–15
  mcb : Word
  pqs : AMap Pq
  raw : AMap RawTag
  cseq : Nat                 -- R187
  deriving DecidableEq, Repr

/-- The task scheduler's view of one task record (R40, R44, R299). -/
structure TaskSlot where
  cnt : Nat
  committed : Bool
  granted : Bool
  ended : Bool
  lap : Nat
  clk : Clock                -- what happened before its commit and the decrements it has had (R46, R77)
  unread : Bool              -- its record could not be read when the launch was accepted: `cnt` counts the decrements since (R468)
  deriving DecidableEq, Repr

/-- One stage queue at its owner (R40–R45, R281). -/
structure StageQ where
  head : Nat                 -- records freed so far
  tail : Nat                 -- records reserved so far
  slots : AMap TaskSlot      -- by index
  age : Nat
  lastGrant : Nat            -- event number of the last grant (R282)
  owner : Nat
  reqs : List Nat            -- stacks whose dispatch request has not been granted (R42)
  deriving DecidableEq, Repr

/-- One copy schedule entry (R47, R48, R203). -/
structure CopyEnt where
  released : Bool
  done : Bool
  bound : Option Nat         -- barrier bound with `barx`
  boundCore : Nat
  moved : Nat                -- 64-byte lines that have moved before the last (R47)
  tid : Nat                  -- its number as a thread, from its release on
  deriving DecidableEq, Repr

/-- State of a launch (R36, R39, R51). -/
inductive LState where
  | queued | refused | waitBerths | running | saved
  deriving DecidableEq, Repr

/-- What the log has resolved (R304–R312). -/
structure LogSt where
  k : Nat                    -- records written, or read
  brk : Bool                 -- a BREAK record has been written, or replay has reached one
  used : AMap Bool           -- replay: record numbers already consumed by their event
  cnt : AMap Nat             -- per-object event counters, by coded object
  free : Bool                -- replay past a BREAK
  deriving DecidableEq, Repr

/-- A launch of a context that has been fetched (R36, R332). -/
structure Launch where
  rcd : Nat                  -- the 384 bytes as one little-endian number
  st : LState
  stks : Nat                 -- mask on which it runs (R318)
  stages : AMap StageQ
  ntst : Nat                 -- `tstage` executed (R48)
  copies : AMap CopyEnt
  sms : Bool                 -- R52
  early : Bool               -- started before its predecessor ended (R53)
  shares : Nat               -- mask of stacks that have reported a non-zero share (R49)
  quads : Nat                -- mask of quads, by 4 × stack + quad, that have reported a non-zero count to their stack (R49)
  log : LogSt
  order : Nat                -- event number of its start: the older launch (R282)
  recovery : Bool            -- a recovery launch: `lq_stat` unchanged (R428)
  hostw : Mem                -- host stores of strands that have left their berths (R51)
  rdnC : Option Nat          -- the launch is copy C of this table entry (R327)
  clk : Clock                -- what happened before the ends of its tasks and copies (R77)
  deriving DecidableEq, Repr

/-- A gang (R55): its barrier and its members in join order. -/
structure Gang where
  bar : Bar
  members : List Nat
  deriving DecidableEq, Repr

/-- An operand at a meet lock (R218). -/
structure MeetOp where
  pos : Nat
  data : List Byte
  pz : Bool
  berth : Nat
  spilled : Option Nat       -- overflow slot (R407)
  stored : Bool              -- holds a matching-store slot
  lock : Nat                 -- stack of the lock
  since : Nat
  deriving DecidableEq, Repr

/-- A meet tag (R216, R220). -/
structure Tag where
  alloc : Bool
  ctl : Word
  dest : Word
  delivered : Nat
  q0 : List MeetOp
  q1 : List MeetOp
  n0 : Nat
  n1 : Nat
  deriving DecidableEq, Repr

/-- An exact accumulator of a reduction slot (R118). -/
structure Acc where
  sum : Int
  nan : Bool
  pinf : Bool
  ninf : Bool
  allNegZero : Bool
  count : Nat
  comb : Nat                 -- and, or, xor, min, max, minn, maxn, fmax.s, fmin.s: the combined value
  pz : Bool
  deriving DecidableEq, Repr

/-- A reduction window (R86, R215): partials by 65,536 × stack + element. -/
structure Window where
  isOpen : Bool
  base : Word
  n : Nat
  op : Nat
  stks : Nat
  parts : AMap Acc
  merged : Nat
  closing : Option Nat       -- berth that waits in `rwclose`
  deriving DecidableEq, Repr

/-- The registers and objects of one context window. -/
structure Ctx where
  ptroot : Word              -- 0x150
  bhk : Word                 -- 0x151
  migf : Word                -- 0x152
  migt : Word                -- 0x153
  raw : Word                 -- 0x154
  ckpt : Word                -- 0x155
  save : Word                -- 0x156
  pbnd : Word                -- 0x157
  pnd : Bool                 -- `ctx_preq` 0x158
  svd : Bool
  rsd : Bool
  logc0 : Word               -- 0x159
  logc1 : Word               -- 0x15A
  lvls : Word                -- 0x15B
  rdn : Word                 -- 0x15C
  trap : Word                -- 0x15D
  flt : Word                 -- 0x15E
  fltm : Word                -- 0x15F
  cki : Word                 -- 0x160
  movf : Word                -- 0x161
  morph : Word               -- 0x162
  ldiv : Word                -- 0x163
  rcv : Word                 -- 0x164
  lqBase : Word
  lqCfg : Word
  kicked : Nat
  fetched : Nat
  completed : Nat
  tries : Nat                -- failed reads of the slot being fetched (R332)
  fetching : Bool
  stopFetch : Bool           -- a fault or refusal has stopped fetching
  svdOpen : Bool             -- `svd` was set by a torn or refused launch: what runs runs on (R404, R441)
  launches : List Launch     -- in queue order
  past : Clock               -- what happened before the completions of its launches (R77)
  gangs : AMap Gang
  joins : Nat
  tags : AMap Tag
  wins : AMap Window
  movUsed : AMap Bool        -- overflow slots in use (R407)
  pendFault : Option (Nat × Nat × Nat × Bool)  -- code, berth, seq, nres reported when `svd` is set (R372)
  cfault : Bool              -- a context fault asks for full saves at the next boundaries (R372)
  arrivedStk : Nat           -- stacks that the pre-emption request has reached (R289)
  savedBerths : List Nat
  savedState : List (Nat × Berth)  -- what the save area's layout does not hold of each strand (log entry 21)
  savedCores : List (Nat × Core)
  resuming : Bool
  skipLvl : Bool             -- R430
  rdnSeen : AMap (Nat × Nat) -- pair of the redundant table: masks of the stacks that A and B completed on, plus one (R327)
  rdnWait : Option Nat       -- entry whose C has still to complete
  rdnRes : Option (Nat × Nat × Nat)  -- a result that has still to be written: entry, its word, result (R327)
  livemaps : List (Nat × Nat × Nat × Nat)  -- live-map sections: code from, up to, address, size (R148, R295)
  dbgc : Word                -- `dbg_cctl`
  frzAt : Nat                -- event at which `frz` was set, 0 while it is clear
  bpa : AMap Word            -- `dbg_bpa0`–`3`
  trBase : Word
  trCfg : Word
  trWr : AMap Word
  trRd : AMap Word
  trEnd : Nat                -- mask of the stacks on which a failed write has ended tracing (R451)
  deriving DecidableEq, Repr

/-- One direction of a link: a sender's state for a destination and class (R418). -/
structure Sender where
  next : Nat
  unacked : List Nat
  rtx : Nat                  -- how many of them, oldest first, have been sent again
  deriving DecidableEq, Repr

/-- A configuration manager instance's proposal (R320), kept by its proposer's stack. -/
structure Proposal where
  num : Nat
  live : Nat
  shed : Nat
  fence : Nat                -- mask of the stacks that it fences
  code : Nat                 -- cause code of the fence
  heard : Nat                -- participants that have received it and acknowledged
  acks : Nat                 -- acknowledgements that have come back
  forced : Bool              -- a fence, or a shed without a drain (R323, R430)
  deriving DecidableEq, Repr

/-- One stack (R11, R14, R20). -/
structure Stack where
  power : Bool
  image : List Byte          -- SHA3-256 of the verified firmware image, empty: none verified
  fenced : Bool
  failed : Bool
  tst : Bool
  tested : Bool              -- its self-test has passed since power-up or shed
  present : Nat              -- cores that fuse and self-test leave enabled
  fuseCores : Nat
  vendorHash : List Byte     -- fused: digest of the vendor's key (R336)
  debugHash : List Byte      -- fused: digest of the debug authority's key (R339)
  rollback : Nat             -- fused: rollback counter (R336)
  capGiB : Nat
  clk : Nat
  cycles : Nat
  halted : Bool              -- lockstep mismatch (R422) or loss of power
  gates : Nat                -- mask of closed ports
  send : AMap Sender         -- by 8 × destination + class
  recv : AMap Nat            -- expected numbers by 8 × source + class (R419)
  lrec : Nat                 -- mask of the sources whose link is in recovery
  sus : List (Nat × Nat × Nat)  -- reports held: reporter, accused, code (R422)
  withhold : Bool            -- power cap exceeded (R340)
  meetSlots : Nat            -- matching-store slots in use (R14)
  redSlots : Nat             -- reduction slots in use (R86)
  frames : AMap (List Nat)   -- migration counters by frame (R90)
  ecc : Nat
  ucc : Nat
  hostShed : Bool            -- the host shed it (R323)
  scrubs : List Nat          -- frames that found the quarantine list full (R434)
  deriving DecidableEq, Repr

/-- A request in flight to a home port: an atomic of R211 (or of `s.red` outside a window, R259). -/
structure AtomReq where
  berth : Nat
  ctx : Nat
  stk : Nat                  -- issuing stack
  fn : Nat
  w : Nat                    -- bytes
  ptr : Word
  y : Word
  cmp : Word
  reply : Bool               -- C waits for the value
  pz : Bool
  byRec : Option Nat         -- record (queue) that issued it
  ordB : Option Nat          -- batch number of an ordered contribution (R315)
  handle : Half
  pix : Nat
  lsl : Nat
  tid : Nat                  -- the thread that issued it
  iss : Nat                  -- event of its issue
  clk : Clock                -- what happened before its issue (R79)
  rels : List Rel            -- what it releases (R77)
  acq : Option Nat           -- scope of its acquire part
  words : Word               -- its unit's words, for a trap (R362)
  deriving DecidableEq, Repr

/-- A contribution on its way to a switch (R87): the atomic that it is once its window has closed, its window and element. -/
structure Contrib where
  req : AtomReq
  win : Nat
  elem : Nat
  deriving DecidableEq, Repr

/-- A `tsub` on its way to the owner (R207). -/
structure TsubReq where
  berth : Nat
  ctx : Nat
  lsl : Nat
  stage : Nat
  img : List Byte
  pz : Bool
  iss : Nat                  -- event of its issue
  waits : Bool               -- it has found its queue full (R45)
  held : Option Nat          -- the record number it has reserved (R207)
  words : Word               -- its unit's words, for a trap (R362)
  deriving DecidableEq, Repr

/-- A decrement on its way (R44). -/
structure DepMsg where
  ctx : Nat
  lsl : Nat
  handle : Nat
  src : Nat                  -- stack
  berth : Nat                -- 0xFF for a copy completion
  iss : Nat                  -- event of its issue
  clk : Clock                -- what happened before it (R77)
  deriving DecidableEq, Repr

/-- A meet operand on its way to its lock (R217). -/
structure MeetMsg where
  ctx : Nat
  tag : Nat
  side : Nat
  data : List Byte
  pz : Bool
  berth : Nat
  stk : Nat
  lock : Nat
  held : Bool                -- held at the switch input (R407)
  byRec : Bool               -- its `s.meet` waits for acceptance
  iss : Nat                  -- event in which it was sent (R29)
  deriving DecidableEq, Repr

/-- A combined result, or an orphan, on its way to its destination (R219, R409). -/
structure MeetOut where
  ctx : Nat
  tag : Nat
  data : List Byte
  pz : Bool
  orphan : Bool
  pos : Nat
  stk : Nat
  iss : Nat                  -- event in which it was sent (R29)
  deriving DecidableEq, Repr

/-- Bytes on their way to a ring (`s.ring`, R263). -/
structure RingMsg where
  ctx : Nat
  core : Nat
  desc : Nat
  data : List Byte
  pz : Bool
  berth : Nat
  lsl : Nat                  -- the sender's launch
  iss : Nat                  -- event in which it was sent (R29)
  clk : Clock                -- what happened before the send (R77)
  deriving DecidableEq, Repr

/-- One issue of `l.mc` on its way along its chain (R244). -/
structure McMsg where
  ctx : Nat
  berth : Nat
  core : Nat                 -- receiver
  issue : Nat
  lo : Nat                   -- landing offset, to which the receiver adds its `mcb`
  data : List Byte
  tail : Nat                 -- bits of the last byte that the codes fill, 0 all
  pz : Bool
  last : Bool
  rb : Nat
  clk : Clock                -- what happened before the send (R77)
  deriving DecidableEq, Repr

/-- A page move in progress (R92). -/
structure Migr where
  ctx : Nat
  pte : Nat                  -- address of the leaf
  ent : Nat                  -- address of the list entry
  old : Nat
  new : Nat
  deriving DecidableEq, Repr

/-- What an outside party or an interleaving may do next: an event of the opcode table, or the issue of a berth's unit. -/
inductive Choice where
  | event (i : Instr) (x : EvArg)
  | issue (b : Nat)
  | same                     -- the two entries around it take place in one cycle (R201)
  deriving DecidableEq, Repr

/-- The whole package. -/
structure State where
  shape : Shape
  berths : AMap Berth
  cores : AMap Core
  stks : AMap Stack
  ctxs : AMap Ctx
  mem : Mem                  -- by physical address (R62); host memory from 2^45
  hist : AMap (List Ver)     -- the stores to each byte so far, newest first (R79, R80); none: memory as it stands
  sync : AMap (List Rel)     -- by address of an atomic location, the releases its order holds (R77, R81)
  poison : AMap Bool         -- poisoned granules, by PA ÷ 32 (R391)
  vnum : Nat                 -- view number (R320)
  live : Nat                 -- healthy-stack mask (R23)
  shed : Nat                 -- shed mask (R319)
  gen : Nat                  -- `gen` of `topo_id`
  act : Nat                  -- R28
  altv : Bool
  alt : Nat
  shown : AMap Nat           -- `topo_cores`, `topo_mem`, `topo_links` and `topo_clk` as the instances last agreed on them (R24)
  behind : AMap (AMap Nat)   -- stacks that the last commit has not reached: the registers that they still show (R320)
  drn : Bool                 -- R322
  pendShed : Option (Bool × Nat)  -- planned change: return (true) or shed, and the stack
  wantShed : Nat             -- stacks that the device wants to shed without a drain (R327, R434)
  wantFence : Nat            -- shed stacks whose self-test failed (R425)
  props : AMap Proposal      -- agreements in progress, by proposer
  reports : List (Nat × Nat × Nat × Nat)  -- suspect reports on their way: to, reporter, accused, code (R422)
  svcTim : Word              -- `svc_tim` in force
  svcTimNew : Option Word    -- written, not yet committed (R421)
  svcSus : Word              -- [27:24] and [23:16] of `svc_sus`
  life : Nat                 -- life-cycle state (R339)
  seed : List Byte           -- identity seed
  nonce : List Byte          -- `dv_nonce`
  report : List Byte         -- `dv_rep`
  repBusy : Bool
  repReady : Bool
  token : Mem                -- `dv_tok`
  challenges : Nat           -- renewals of `dv_tnce` (R337)
  features : Word            -- opened by a token (R339)
  pcap : Word                -- `dv_pcap`
  qlist : AMap Word          -- `dv_qlst`
  scrub : Option Nat         -- entry being scrubbed (R434)
  msixT : Mem                -- MSI-X table (R330)
  msixP : AMap Bool          -- vectors signalled (pending bits, R330)
  atoms : List AtomReq
  contribs : List Contrib
  tsubs : List TsubReq
  deps : List DepMsg
  meets : List MeetMsg
  mouts : List MeetOut
  rmsgs : List RingMsg
  mcs : List McMsg
  lacks : List (Nat × Nat × Nat × Nat)  -- acknowledgements on their way: from, to, class, number (R418)
  migrs : List Migr
  migQueue : List (Nat × Nat × Nat)  -- frames whose evaluation waits for a launch boundary (R93): context, frame, stack
  ev : Nat                   -- number of the current event: the model's counter for free values
  cur : Nat                  -- berth whose unit issues
  ir : List Half             -- words of that unit's instruction
  arg : EvArg                -- what the current event names
  turn : Nat                 -- core that last issued
  cont : Bool                -- the next entry of the agenda takes place in the cycle of the current act (R201)
  joined : Bool              -- the current act takes place in the cycle of the one before it
  agenda : List Choice       -- inputs from outside and chosen interleavings, oldest first
  deriving DecidableEq, Repr

/-- Faults: where the machine stops because the manual gives the behaviour of nothing further. Closed. -/
inductive Fault where
  /-- Raised by `rpw` and `rpr` for a granule of the window of `ctx_raw` that lies outside device memory, past its stack's memory, or on a
  stack that the shape does not hold: R182 says where the window must lie and states no effect elsewhere. Safe: no claim
  about a next state is made there. -/
  | rawWindow
  deriving DecidableEq, Repr

/-- Refusals. Closed. -/
inductive Refusal where
  /-- Raised only by the dispatch arm of an instruction without a meaning. Safe. -/
  | notModelled (mnemonic : String)
  deriving DecidableEq, Repr

/-- A berth at reset: FREE, every register zero (log entry 7; R35 sets them before a task uses them). -/
def Berth.zero : Berth :=
  { st := .free, ctx := 0, lsl := 0, stage := 0, lastOcc := none, pc := 0, pfx := none, pfxWord := 0, g := [], p := 0, s := [],
    q := [], rngk := 0, rngc := 0, trap := ⟨0, 0, 0, 0, 0, 0, 0, 0, 0, 0, 0, 0, 0, 0, 0⟩, trapped := false, cut := false, haltF := false,
    recs := [], hist := [], qfront := List.replicate 3 [0, 0, 0], app := [0, 0, 0], qsn := [0, 0, 0],
    fifos := List.replicate 6 Fifo.zero, arrs := [], tid := 0, clk := [], also := [], pubs := [], acqs := [], refs := [], pend := [], handle := 0xFFFFFFFF, hasTask := false,
    gang := none, arrivedPh := none, joinNo := 0, waiting := .none, answer := none,
    seg := ⟨false, false, 0, 0, 0, 0, 0, 0, 0, 0⟩, obuf := [], batch := 0, outLoad := none, pq := none, spill := [], pixc := 0,
    issueAge := 0, lastIssue := 0, yielded := false, stalled := false, xAge := [0, 0, 0], xLast := [0, 0, 0], pzg := [], wholeg := [], rawBack := [], landing := [], bank := [],
    dbg := ⟨false, 0, 0, false, false, 0, 0, 0, false⟩, sw := ⟨false, false, none, .free, false⟩, profAt := 0,
    profStop := some 0, awaited := [] }

def Ring.zero : Ring := ⟨0, 0, 0, 0, [], [], [], 0, []⟩
def Bar.zero : Bar := ⟨0, 0, 0, 0, 0, 0, false, 0, 0, none, 0, [], []⟩
def Pq.zero : Pq := ⟨[], [], 0, 0⟩
def RawTag.zero : RawTag := ⟨false, 0, false, 0, 0, 0, [], 0, false⟩
def Core.zero : Core := ⟨none, [], [], [], [], [], [], 0, [], [], 0⟩
def TaskSlot.zero : TaskSlot := ⟨0, false, false, false, 0, [], false⟩
def StageQ.zero : StageQ := ⟨0, 0, [], 0, 0, 0, []⟩
def CopyEnt.zero : CopyEnt := ⟨false, false, none, 0, 0, 0⟩
def LogSt.zero : LogSt := ⟨0, false, [], [], false⟩
def Gang.zero : Gang := ⟨Bar.zero, []⟩
def Tag.zero : Tag := ⟨false, 0, 0, 0, [], [], 0, 0⟩
def Acc.zero : Acc := ⟨0, false, false, false, true, 0, 0, false⟩
def Window.zero : Window := ⟨false, 0, 0, 0, 0, [], 0, none⟩
def Sender.zero : Sender := ⟨0, [], 0⟩

/-- A context window at reset: every register zero (log entry 7). -/
def Ctx.zero : Ctx :=
  { ptroot := 0, bhk := 0, migf := 0, migt := 0, raw := 0, ckpt := 0, save := 0, pbnd := 0, pnd := false, svd := false, rsd := false,
    logc0 := 0, logc1 := 0, lvls := 0, rdn := 0, trap := 0, flt := 0, fltm := 0, cki := 0, movf := 0, morph := 0, ldiv := 0, rcv := 0,
    lqBase := 0, lqCfg := 0, kicked := 0, fetched := 0, completed := 0, tries := 0, fetching := false, stopFetch := false,
    svdOpen := false, launches := [], past := [], gangs := [], joins := 0, tags := [], wins := [],
    movUsed := [], pendFault := none, cfault := false, arrivedStk := 0, savedBerths := [], savedState := [], savedCores := [],
    resuming := false, skipLvl := false, rdnSeen := [], rdnWait := none, rdnRes := none, livemaps := [], dbgc := 0, frzAt := 0, bpa := [], trBase := 0, trCfg := 0,
    trWr := [], trRd := [], trEnd := 0 }

/-- A stack before power-up: in boot self-test (R324); fuses leave 16 cores and 48 GiB (log entry 8). -/
def Stack.zero : Stack :=
  { power := false, image := [], fenced := false, failed := false, tst := true, tested := false, present := 0, fuseCores := 0xFFFF, vendorHash := List.replicate 32 0, debugHash := List.replicate 32 0, rollback := 0,
    capGiB := 48, clk := 900, cycles := 0, halted := false, gates := 0, send := [], recv := [], lrec := 0, scrubs := [], sus := [], withhold := false,
    meetSlots := 0, redSlots := 0, frames := [], ecc := 0, ucc := 0, hostShed := false }

/-- The package right after reset: an SX4 (log entry 8) whose stacks are all still in boot self-test (R324), no view formed
(R335), `svc_tim` 200, 150, 100 µs (R421), every cap at 70 W (R340), no memory listed. -/
def State.reset : State :=
  { shape := .sx4, berths := [], cores := [], stks := [], ctxs := [], mem := [], hist := [], sync := [], poison := [], vnum := 0, live := 0, shed := 0,
    gen := 0, act := 0, altv := false, alt := 2, shown := [], behind := [], drn := false, pendShed := none, wantShed := 0, wantFence := 0, props := [], reports := [],
    svcTim := 0x000000C800960064, svcTimNew := none, svcSus := 0, life := 0,
    seed := List.replicate 32 0, nonce := List.replicate 32 0,
    report := [], repBusy := false, repReady := false, token := [], challenges := 0, features := 0, pcap := 0x0046004600460046,
    qlist := [], scrub := none, msixT := [], msixP := [], atoms := [], contribs := [], tsubs := [], deps := [], meets := [],
    mouts := [], rmsgs := [], mcs := [], lacks := [], migrs := [], migQueue := [], ev := 0, cur := 0, ir := [], arg := { }, turn := 0, cont := false, joined := false, agenda := [] }

end Sys2Proof.Machine
end

