-- ==== Sys2Proof/Machine/Mem.lean ====
section
/-! DEFINITION. Access to the parts of the state, the topology, physical memory with its poison marks, translation and
bounds (R11–R30, R61–R68, R387–R392, R467). -/

namespace Sys2Proof.Machine

/-! ## Parts of the state -/

def State.berth (s : State) (b : Nat) : Berth := AMap.get Berth.zero s.berths b
def State.setBerth (s : State) (b : Nat) (v : Berth) : State := { s with berths := AMap.set Berth.zero s.berths b v }
def State.updBerth (s : State) (b : Nat) (f : Berth → Berth) : State := s.setBerth b (f (s.berth b))
def State.core (s : State) (c : Nat) : Core := AMap.get Core.zero s.cores c
def State.setCore (s : State) (c : Nat) (v : Core) : State := { s with cores := AMap.set Core.zero s.cores c v }
def State.updCore (s : State) (c : Nat) (f : Core → Core) : State := s.setCore c (f (s.core c))
def State.stack (s : State) (k : Nat) : Stack := AMap.get Stack.zero s.stks k
def State.setStack (s : State) (k : Nat) (v : Stack) : State := { s with stks := AMap.set Stack.zero s.stks k v }
def State.updStack (s : State) (k : Nat) (f : Stack → Stack) : State := s.setStack k (f (s.stack k))
def State.ctx (s : State) (n : Nat) : Ctx := AMap.get Ctx.zero s.ctxs n
def State.setCtx (s : State) (n : Nat) (v : Ctx) : State := { s with ctxs := AMap.set Ctx.zero s.ctxs n v }
def State.updCtx (s : State) (n : Nat) (f : Ctx → Ctx) : State := s.setCtx n (f (s.ctx n))

/-- The berth whose unit issues. -/
def State.me (s : State) : Berth := s.berth s.cur
/-- Updates the berth whose unit issues. -/
def State.upd (s : State) (f : Berth → Berth) : State := s.updBerth s.cur f

/-- Core of a berth (R17). -/
def coreOf (b : Nat) : Nat := b / 2
/-- Stack of a berth (R17). -/
def stackOf (b : Nat) : Nat := b / 32

/-! ## Topology (R11, R17, R20–R28) -/

/-- Stacks in the package (R2, R23). -/
def Shape.pkg : Shape → Nat
  | .sx4 => 4
  | .sx2 => 2
  | .sx1 => 1

/-- Mask of the stacks that the shape holds. -/
def Shape.mask (h : Shape) : Nat := 2 ^ h.pkg - 1

/-- The alternate host-port stack of the shape (R13), none on the SX1. -/
def Shape.altPort : Shape → Option Nat
  | .sx4 => some 2
  | .sx2 => some 1
  | .sx1 => none

/-- Number of healthy stacks (R23). -/
def State.nlive (s : State) : Nat := popN s.live 4

/-- A stack that the shape holds and no view or boot failure has fenced (R20, R21). -/
def State.unfenced (s : State) (k : Nat) : Bool := k < s.shape.pkg && !(s.stack k).fenced

/-- A stack that runs: powered and not fenced. -/
def State.up (s : State) (k : Nat) : Bool := s.unfenced k && (s.stack k).power

/-- A stack whose instance takes part in the agreement: verified and not fenced (R320). -/
def State.takesPart (s : State) (k : Nat) : Bool := s.unfenced k && (s.stack k).image != []

/-- The core mask that `topo_cores` shows of stack k (R21, R25, R321). -/
def State.coreMask (s : State) (k : Nat) : Nat := if bitN s.live k then (s.stack k).present else 0

/-- Whether core c is present on a stack in `live` (R20, R33). -/
def State.corePresent (s : State) (c : Nat) : Bool := bitN (s.coreMask (c / 16)) (c % 16)

/-- Capacity that `topo_mem` shows: 0 for a fenced or absent stack (R21, R25). -/
def State.capOf (s : State) (k : Nat) : Nat := if s.unfenced k then (s.stack k).capGiB else 0

/-- Clock that `topo_clk` shows: 0 for a fenced or absent stack (R21, R25). -/
def State.clkOf (s : State) (k : Nat) : Nat := if s.unfenced k then (s.stack k).clk else 0

/-- The coordinating stack: the lowest-numbered stack in `live` (R188). -/
def State.coord (s : State) : Nat := (lowestSet s.live 4).getD 0

/-- The stack at the far end of port j of stack k (R12). -/
def Shape.peer (h : Shape) (k j : Nat) : Option Nat :=
  let t := (k + j + 1) % 4
  if k < h.pkg && t < h.pkg then some t else none

/-- State code of port j of stack k (R12, R21, R27, R424): 0 absent, 1 up, 2 isolated, 3 training. A port that faces a fenced stack reads
absent (R21, R424). DESIGN CHOICE (unsafe; log entry 92): R27 gives the code of training and no rule says when it holds; here it holds while the image
of either end is not yet verified. -/
def State.linkState (s : State) (k j : Nat) : Nat :=
  match s.shape.peer k j with
  | none => 0
  | some t =>
    if !(s.unfenced k) then 0
    else if !(s.unfenced t) then 0
    else if !(s.takesPart k) || !(s.takesPart t) then 3
    else if bitN (s.stack k).gates j then 2
    else 1

/-- The stacks of a mask, lowest first. -/
def maskList (m : Nat) : List Nat := (List.range 4).filter (bitN m ·)

/-! ## Physical memory (R5, R62, R73, R391) -/

/-- The byte at physical address a. -/
def State.mb (s : State) (a : Nat) : Byte := AMap.get 0 s.mem a

/-- n bytes of a store from address a. -/
def memBytes (m : Mem) (a n : Nat) : List Byte := (List.range n).map (fun i => AMap.get 0 m (a + i))

/-- Writes bytes from address a. -/
def memPut (m : Mem) (a : Nat) : List Byte → Mem
  | [] => m
  | v :: vs => memPut (AMap.set 0 m a v) (a + 1) vs

/-- The canonical form of memory: addresses strictly rising, no byte listed that an unlisted address reads as. -/
abbrev Memory.wf (m : Mem) : Bool := AMap.wf 0 m

/-- Little-endian value of n bytes at a. -/
def memNat (m : Mem) (a n : Nat) : Nat := leNat (memBytes m a n)

/-- Lays bytes as an overlay: zero bytes are listed too. -/
def ovPut (m : Mem) (a : Nat) : List Byte → Mem
  | [] => m
  | v :: vs => ovPut (AMap.put m a v) (a + 1) vs

/-- Whether a granule of the n bytes at physical address a is poisoned (R391). -/
def State.poisoned (s : State) (a n : Nat) : Bool :=
  (List.range ((a + n - 1) / 32 - a / 32 + 1)).any (fun i => AMap.get false s.poison (a / 32 + i))

/-- Marks every granule that holds one of the n bytes at a. -/
def State.setPoison (s : State) (a n : Nat) : State :=
  { s with poison := (List.range ((a + n - 1) / 32 - a / 32 + 1)).foldl (fun m i => AMap.set false m (a / 32 + i) true) s.poison }

/-- Lays one store over memory; a granule that it writes whole loses its poison (R391). -/
def State.storeOv (s : State) (ov : Mem) : State :=
  let keys := ov.map (·.1)
  let wholes := (keys.filter (· % 32 == 0)).filter (fun a => (List.range 32).all (fun i => (AMap.find ov (a + i)).isSome))
  { s with mem := AMap.overlay 0 s.mem ov, poison := wholes.foldl (fun m a => AMap.erase m (a / 32)) s.poison }

/-- Lays the bytes of several stores over memory: of the granules that they cover, those in `whole` were written whole by one store and lose their
poison; the others, written in parts, keep it (R391). -/
def State.layOv (s : State) (ov : Mem) (whole : AMap Bool) : State :=
  let gs := ((ov.map (·.1 / 32)).eraseDups).filter (fun g => AMap.get false whole g && (List.range 32).all (fun i => (AMap.find ov (32 * g + i)).isSome))
  { s with mem := AMap.overlay 0 s.mem ov, poison := gs.foldl (fun m g => AMap.erase m g) s.poison }

/-- Adds the stores of an overlay, by address, to the history of their bytes (R79, R80): thread `who` makes them now, for context `ctx`, and its
program order has them in event `iss`. A byte without history first takes in what it holds, as a value that happens before everything. -/
def State.record (s : State) (who iss ctx : Nat) (ov : Mem) : State :=
  { s with hist := ov.foldl (fun h p =>
      AMap.put h p.1 (⟨who, iss, s.ev + 1, ctx, p.2⟩ :: (AMap.find h p.1).getD [⟨0, 0, 0, ctx, s.mb p.1⟩])) s.hist }

/-- The device itself has written these bytes: every later access sees memory as it stands. -/
def State.forget (s : State) (ov : Mem) : State := { s with hist := ov.foldl (fun h p => AMap.erase h p.1) s.hist }

/-- A store of the device itself, performed at its home at once. -/
def State.storeAt (s : State) (a : Nat) (bs : List Byte) : State := (s.storeOv (ovPut [] a bs)).forget (ovPut [] a bs)

/-- A store of thread `who` for a context, performed at its home at once: the host's, a copy's, a delivery's. -/
def State.storeBy (who ctx : Nat) (s : State) (a : Nat) (bs : List Byte) : State :=
  (s.record who (s.ev + 1) ctx (ovPut [] a bs)).storeOv (ovPut [] a bs)

/-! ## Launches -/

/-- A context whose state is saved or being restored (R288, R300): nothing of it runs. After a torn or refused launch, what runs runs on
(R404, R441). -/
def Ctx.frozen (c : Ctx) : Bool := (c.svd && !c.svdOpen) || c.resuming

/-- Field [lo + n - 1 : lo] of a launch record (R36). -/
def Launch.f (l : Launch) (lo n : Nat) : Nat := fld l.rcd lo n
/-- Field of stage descriptor i (R37). -/
def Launch.sf (l : Launch) (i lo n : Nat) : Nat := fld l.rcd (1024 + 256 * i + lo) n
def Launch.seq (l : Launch) : Nat := l.f 32 32
def Launch.nst (l : Launch) : Nat := l.f 64 4
def Launch.det (l : Launch) : Bool := l.f 76 1 == 1
def Launch.rpl (l : Launch) : Bool := l.det && l.f 77 1 == 1
def Launch.bndb (l : Launch) : Nat := l.f 320 64
def Launch.ncpy (l : Launch) : Nat := l.f 448 13
def Launch.qlog (l : Launch) (i : Nat) : Nat := l.sf i 84 4
def Launch.prio (l : Launch) (i : Nat) : Nat := l.sf i 80 4
def Launch.smax (l : Launch) (i : Nat) : Nat := l.sf i 72 8
def Launch.smin (l : Launch) (i : Nat) : Nat := l.sf i 64 8
def Launch.entry (l : Launch) (i : Nat) : Nat := l.sf i 0 64
def Launch.qbase (l : Launch) (i : Nat) : Nat := l.sf i 128 64
/-- The lead stack: the lowest-numbered stack in `live` on which the launch runs; once none of those is live, the lowest of its `stk` that is, and with
none of these either the lowest in `live` (R48, R321; log entry 117). -/
def Launch.lead (l : Launch) (live : Nat) : Nat :=
  (lowestSet (l.stks &&& live) 4).getD ((lowestSet (l.f 72 4 &&& live) 4).getD ((lowestSet live 4).getD 0))

/-- A launch that has nothing in it: what a berth without one reads. -/
def Launch.none : Launch :=
  { rcd := 0, st := .queued, stks := 0, stages := [], ntst := 0, copies := [], sms := false, early := false, shares := 0, quads := 0,
    log := LogSt.zero, order := 0, recovery := false, hostw := [], rdnC := Option.none, clk := [] }

/-- Whether a launch occupies a slot of the device: it has started and not ended. -/
def Launch.resident (l : Launch) : Bool := l.st = .running || l.st = .waitBerths || l.st = .saved

/-- The resident launch in slot lsl (seq mod 2) of a context. -/
def State.launch (s : State) (ctx lsl : Nat) : Launch :=
  ((s.ctx ctx).launches.find? (fun l => l.resident && l.seq % 2 == lsl)).getD Launch.none

/-- Updates the resident launch in slot lsl. -/
def State.updLaunch (s : State) (ctx lsl : Nat) (f : Launch → Launch) : State :=
  s.updCtx ctx (fun c => { c with launches := c.launches.map (fun l => if l.resident && l.seq % 2 == lsl then f l else l) })

/-- The launch of a berth's strand. -/
def State.launchOf (s : State) (b : Nat) : Launch := s.launch (s.berth b).ctx (s.berth b).lsl

/-- Stage i of a launch. -/
def Launch.stage (l : Launch) (i : Nat) : StageQ := AMap.get StageQ.zero l.stages i
def Launch.updStage (l : Launch) (i : Nat) (f : StageQ → StageQ) : Launch :=
  { l with stages := AMap.put l.stages i (f (l.stage i)) }

/-! ## Translation (R62–R64, R388, R424, R434) -/

/-- Kind of an access, numbered as `tval` of PERMISSION (R359). -/
inductive AKind where
  | rd | wr | at | fetch
  deriving DecidableEq, Repr

def AKind.code : AKind → Nat
  | .rd => 0
  | .wr => 1
  | .at => 2
  | .fetch => 3

/-- What stops an access: class, site when it is not the requesting unit, `taddr`, `tval`, and whether it is a context
fault at once and no trap (R388, R467). -/
structure MFault where
  cls : Nat
  site : Option Nat
  addr : Word
  val : Word
  ctxf : Bool
  deriving DecidableEq, Repr

/-- Cause code at unit u (R358). -/
def MFault.code (f : MFault) (u : Nat) : Nat := f.cls * 16 + f.site.getD u

/-- Cause code of a failed access of the device itself, at site u: the walk's own findings are u's, but a poisoned page-table entry keeps the
walker's code (R388, R389, R468). -/
def MFault.devCode (f : MFault) (u : Nat) : Nat := if f.ctxf then f.code u else f.cls * 16 + u

/-- A leaf found by a walk. -/
structure Leaf where
  pa : Nat                   -- physical address of the byte
  pte : Nat                  -- address of the entry
  ent : Nat
  level : Nat
  deriving DecidableEq, Repr

/-- First VA bit and number of VA bits that a level indexes (R63). -/
def lvlShift : Nat → Nat
  | 0 => 33
  | 1 => 28
  | 2 => 21
  | _ => 16
def lvlBits : Nat → Nat
  | 0 => 17
  | 1 => 5
  | 2 => 7
  | _ => 5

/-- Whether physical address a names a stack that the shape does not hold, or lies at or past the capacity of a stack
that is not fenced (R62, R388). -/
def State.paBad (s : State) (a : Nat) : Bool :=
  !(bitN a 45) && (decide (s.shape.pkg ≤ fld a 43 2) ||
    (s.unfenced (fld a 43 2) && decide (2 ^ 30 * (s.stack (fld a 43 2)).capGiB ≤ fld a 0 43)))

/-- Home stack of a physical address (R62). -/
def State.home (s : State) (a : Nat) : Nat := if bitN a 45 then s.act else fld a 43 2

/-- Whether physical address a is homed on a fenced stack. -/
def State.paFenced (s : State) (a : Nat) : Bool := !(s.unfenced (s.home a))

/-- Whether physical address a is homed on a stack that has fallen silent and is not fenced: an access gets no answer (R420, R424). -/
def State.paDead (s : State) (a : Nat) : Bool := s.unfenced (s.home a) && !(s.stack (s.home a)).power

/-- An access that gets no answer: class 0, which is no fault; the access waits. -/
def MFault.silent (p : Word) : MFault := ⟨0, none, p, 0, false⟩

/-- Whether the frame of a is on the quarantine list (R434). -/
def State.quarantined (s : State) (a : Nat) : Bool :=
  s.qlist.any (fun e => bitN e.2.toNat 63 && fld e.2.toNat 16 30 == fld a 16 30)

/-- The walk from a level (R63, R64, R388). `p` is the pointer reported in `taddr`. DESIGN CHOICE (safe; log entry 93): a table entry whose `addr` lies
past its stack's capacity is malformed too; R388 names for table entries only stacks that are absent or fenced. -/
def State.walkFrom (s : State) (va : Nat) (p : Word) (table : Nat) (level : Nat) : Nat → Except MFault Leaf
  | 0 => .error ⟨8, some 8, p, BitVec.ofNat 64 level, false⟩
  | fuel + 1 =>
    let pte := table + 8 * fld va (lvlShift level) (lvlBits level)
    let e := memNat s.mem pte 8
    let addr := 256 * fld e 8 38
    let bad : Except MFault Leaf := .error ⟨8, some 8, p, BitVec.ofNat 64 level, false⟩
    if s.paDead pte then .error (MFault.silent p)
    else if s.poisoned pte 8 then .error ⟨12, some 8, p, 0, true⟩
    else if !(bitN e 0) then .error ⟨8, none, p, BitVec.ofNat 64 level, false⟩
    else if fld e 46 18 ≠ 0 || bitN e 7 then bad
    else if bitN e 1 then
      if addr % 2 ^ lvlShift level ≠ 0 || (bitN e 5 && level ≠ 2) || s.paBad addr then bad
      else if s.paFenced addr then .error ⟨8, none, p, 5, false⟩
      else
        let pa := addr + va % 2 ^ lvlShift level
        if s.paDead pa then .error (MFault.silent p)
        else if s.quarantined pa then .error ⟨8, none, p, 4, false⟩
        else .ok ⟨pa, pte, e, level⟩
    else if level = 3 || s.paBad addr || s.paFenced addr then bad
    else s.walkFrom va p addr (level + 1) fuel

/-- The walk of a context (R63). -/
def State.walk (s : State) (ctx va : Nat) (p : Word) : Except MFault Leaf :=
  s.walkFrom va p (2 ^ 20 * fld (s.ctx ctx).ptroot.toNat 20 26) 0 4

/-- Page permission for a kind (R64). -/
def pageOk (e : Nat) : AKind → Bool
  | .rd => bitN e 2
  | .wr => bitN e 3
  | .at => bitN e 3
  | .fetch => bitN e 4

/-- Translation and page permission (R387 steps 3 and 4). -/
def State.xlate (s : State) (ctx va : Nat) (p : Word) (k : AKind) : Except MFault Leaf :=
  match s.walk ctx va p with
  | .error f => .error f
  | .ok l => if pageOk l.ent k then .ok l else .error ⟨9, none, p, BitVec.ofNat 64 k.code, false⟩

/-- Bounds record i of a context's table (R67), none when its read fails with the fault given. -/
def State.bounds (s : State) (ctx bndb i : Nat) (p : Word) : Except MFault Nat :=
  let va := fld (bndb + 16 * i) 0 50
  match s.xlate ctx va p .rd with
  | .error f => .error (if f.cls = 0 then f else ⟨f.cls, some 8, p, f.val, true⟩)
  | .ok l => if s.poisoned l.pa 16 then .error ⟨12, some 8, p, 0, true⟩ else .ok (memNat s.mem l.pa 16)

/-- Whether record r passes an access of n bytes at va (R68). -/
def boundsOk (r va n : Nat) (k : AKind) : Bool :=
  let perm := match k with
    | .rd => bitN r 63
    | .wr => bitN r 62
    | .at => bitN r 61
    | .fetch => true
  decide (fld r 0 50 ≤ va) && decide (va + n ≤ fld r 64 50) && perm

/-- Steps 1 and 2 of R387: alignment, the reserved field and the bounds record. -/
def State.ptrCheck (s : State) (ctx bndb : Nat) (p : Word) (n : Nat) (k : AKind) : Except MFault Unit :=
  let v := p.toNat
  let i := fld v 54 10
  let va := fld v 0 50
  let oob : Except MFault Unit := .error ⟨7, none, p, BitVec.ofNat 64 i, false⟩
  if va % n ≠ 0 then .error ⟨3, none, p, BitVec.ofNat 64 n, false⟩
  else if fld v 50 4 ≠ 0 then oob
  else if i = 0 then (if va + n ≤ 2 ^ 50 then .ok () else oob)
  else match s.bounds ctx bndb i p with
    | .error f => .error f
    | .ok r => if boundsOk r va n k then .ok () else oob

/-- The bounds check of a whole range of n bytes, whatever its alignment (R214, R216). -/
def State.rangeCheck (s : State) (ctx bndb : Nat) (p : Word) (n : Nat) (k : AKind) : Except MFault Unit :=
  let v := p.toNat
  let oob : Except MFault Unit := .error ⟨7, none, p, BitVec.ofNat 64 (fld v 54 10), false⟩
  if fld v 50 4 ≠ 0 then oob
  else if fld v 54 10 = 0 then (if fld v 0 50 + n ≤ 2 ^ 50 then .ok () else oob)
  else match s.bounds ctx bndb (fld v 54 10) p with
    | .error f => .error f
    | .ok r => if boundsOk r (fld v 0 50) n k then .ok () else oob

/-- The whole check of a global access of n bytes through pointer p (R387): its physical address. -/
def State.access (s : State) (ctx bndb : Nat) (p : Word) (n : Nat) (k : AKind) : Except MFault Nat :=
  match s.ptrCheck ctx bndb p n k with
  | .error f => .error f
  | .ok _ => match s.xlate ctx (fld p.toNat 0 50) p k with
    | .error f => .error f
    | .ok l => .ok l.pa

/-- Reads n bytes at virtual address va of a context for the device itself, chunk by chunk of one page. -/
def State.readVAf (s : State) (ctx va n : Nat) : Nat → Except MFault (List Byte)
  | 0 => .ok []
  | fuel + 1 =>
    if n = 0 then .ok [] else
    let m := min n (65536 - va % 65536)
    match s.xlate ctx (fld va 0 50) (BitVec.ofNat 64 va) .rd with
    | .error f => .error f
    | .ok l => match s.readVAf ctx (va + m) (n - m) fuel with
      | .error f => .error f
      | .ok bs => .ok (memBytes s.mem l.pa m ++ bs)

/-- Reads a short structure (at most two pages). -/
def State.readVA (s : State) (ctx va n : Nat) : Except MFault (List Byte) := s.readVAf ctx va n 3

/-- Writes bytes at virtual address va of a context, chunk by chunk of one page, each by `put`. -/
def State.writeVAby (put : State → Nat → List Byte → State) (s : State) (ctx va : Nat) (bs : List Byte) : Nat → Except MFault State
  | 0 => .ok s
  | fuel + 1 =>
    if bs = [] then .ok s else
    let n := min bs.length (65536 - va % 65536)
    match s.xlate ctx (fld va 0 50) (BitVec.ofNat 64 va) .wr with
    | .error f => .error f
    | .ok l => State.writeVAby put (put s l.pa (bs.take n)) ctx (va + n) (bs.drop n) fuel

/-- Writes bytes at a virtual address as the device's own store. -/
def State.writeVA (s : State) (ctx va : Nat) (bs : List Byte) (fuel : Nat) : Except MFault State := State.writeVAby State.storeAt s ctx va bs fuel

/-- Writes a short record (at most two pages). -/
def State.writeVA2 (s : State) (ctx va : Nat) (bs : List Byte) : Except MFault State := s.writeVA ctx va bs 3

end Sys2Proof.Machine
end

