-- ==== Sys2Proof/Machine/Ops.lean ====
section
/-! DEFINITION. The named operations over registers and memory that every meaning uses: register access (R131, R151),
the end of a unit (R121, R222), taking an exception and returning from one (R365–R369), context faults (R372), the
check-interval register (R394), and phase consistency (R73–R80). -/

namespace Sys2Proof.Machine

/-- The outcome of a meaning. -/
abbrev Out := Host.Outcome State Fault Refusal

/-! ## Registers (R131, R151) -/

def Berth.getG (b : Berth) (n : GReg) : Word := AMap.get 0 b.g n.toNat
/-- A write to `g0` is discarded. -/
def Berth.setG (b : Berth) (n : GReg) (v : Word) : Berth :=
  if n = 0 then b else { b with g := AMap.set 0 b.g n.toNat v }
/-- `p0` reads true. -/
def Berth.getP (b : Berth) (n : PReg) : Bool := if n = 0 then true else b.p.getLsbD n.toNat
/-- A write to `p0` is discarded. -/
def Berth.setP (b : Berth) (n : PReg) (v : Bool) : Berth :=
  if n = 0 then b else { b with p := BitVec.ofNat 8 (setBitN b.p.toNat n.toNat v) }
def Berth.getS (b : Berth) (n : SReg) : BitVec 256 := AMap.get 0 b.s n.toNat
def Berth.setS (b : Berth) (n : SReg) (v : BitVec 256) : Berth := { b with s := AMap.set 0 b.s n.toNat v }
def Berth.getQ (b : Berth) (n : Nat) : Word := AMap.get 0 b.q n
def Berth.setQ (b : Berth) (n : Nat) (v : Word) : Berth := { b with q := AMap.set 0 b.q n v }
/-- `preds` (R177): bit 0 reads 1. -/
def Berth.preds (b : Berth) : Word := BitVec.ofNat 64 (setBitN b.p.toNat 0 true)
def Berth.setPreds (b : Berth) (v : Word) : Berth := { b with p := BitVec.ofNat 8 (setBitN (v.toNat % 256) 0 false) }

/-- `G(n)` of the issuing strand. -/
def State.G (s : State) (n : GReg) : Word := s.me.getG n
/-- `SetG(n, v)`. -/
def State.setG (s : State) (n : GReg) (v : Word) : State := s.upd (·.setG n v)
/-- `P(n)`. -/
def State.P (s : State) (n : PReg) : Bool := s.me.getP n
/-- `SetP(n, v)`. -/
def State.setP (s : State) (n : PReg) (v : Bool) : State := s.upd (·.setP n v)

/-- The fields of the unit's prefix, the defaults of R104 without one. -/
def noPfx : Pfx := ⟨false, false, 0, false, false, 0⟩
def State.pfx (s : State) : Pfx := s.me.pfx.getD noPfx

/-- `imm32` of an instruction whose one operand is its second word (R130). -/
def State.imm32 (s : State) : Half := s.ir.getD 1 0

/-- Address of the unit's first word: the prefix when there is one (R365). -/
def Berth.unitPc (b : Berth) : Word := if b.pfx.isSome then b.pc - 4 else b.pc

/-- The strand is in its handler (`h` of R363). -/
def Berth.inHandler (b : Berth) : Bool := b.trap.tcause.getLsbD 11

/-- Context of the issuing strand. -/
def State.myCtx (s : State) : Nat := s.me.ctx
/-- Launch of the issuing strand. -/
def State.myLaunch (s : State) : Launch := s.launchOf s.cur

/-! ## CRC-32C and the segment signature (R222) -/

/-- One bit step of a reflected CRC with the reflected polynomial `poly`. -/
def crcBit (poly c : Nat) : Nat := if c % 2 = 1 then (c / 2) ^^^ poly else c / 2
/-- One byte. -/
def crcByte (poly c v : Nat) : Nat :=
  (List.range 8).foldl (fun c _ => crcBit poly c) (c ^^^ v)
/-- The reflected polynomials of CRC-32C (0x1EDC_6F41, R222) and CRC-32 (0x04C1_1DB7, R417). -/
def polyC : Nat := 0x82F63B78
def polyE : Nat := 0xEDB88320
/-- A whole CRC-32C (initial value and final exclusive-or 0xFFFF_FFFF). -/
def crc32c (bs : List Byte) : Nat := (bs.foldl (fun c v => crcByte polyC c v.toNat) 0xFFFFFFFF) ^^^ 0xFFFFFFFF
/-- Adds a 32-bit word, four bytes little-endian, to a CRC-32C register. -/
def crcWord (c : Half) (w : Half) : Half :=
  BitVec.ofNat 32 ((leBytes w.toNat 4).foldl (fun c v => crcByte polyC c v.toNat) c.toNat)

/-- The words of the unit enter the open segment's signature, unless in the handler (R222, R370). -/
def Berth.sign (b : Berth) (ws : List Half) : Berth :=
  if b.seg.isOpen && !b.inHandler then { b with seg := { b.seg with crc := ws.foldl crcWord b.seg.crc } } else b

/-! ## The end of a unit -/

/-- A unit has been issued: a stop that waits for its end lands, and breakpoints match again (R447, R448). -/
def Berth.stepStop (b : Berth) : Berth :=
  if b.dbg.due ≠ 0 then { b with cut := true, dbg := { b.dbg with stp := true, why := b.dbg.due, bcode := 0, skipBp := false } }
  else { b with dbg := { b.dbg with skipBp := false } }

/-- A unit of n bytes after its prefix completes: its words enter the signature, the pc moves to `target`, the prefix is
spent, and a step stops the strand (R121, R127, R222, R448). -/
def Berth.finishAt (b : Berth) (ws : List Half) (target : Word) : Berth :=
  let b := b.sign ((if b.pfx.isSome then [b.pfxWord] else []) ++ ws)
  let b := { b with pc := target, pfx := none, waiting := .none, answer := none }
  b.stepStop

/-- Completes the current unit and continues at `target`. -/
def State.goto (s : State) (target : Word) : State := s.upd (·.finishAt s.ir target)
/-- Completes the current unit, whose instruction has n bytes, and falls through (R121). -/
def State.done (s : State) (n : Nat) : State := s.goto (s.me.pc + BitVec.ofNat 64 n)

/-- A 32-bit unit whose only effect is f on the strand. -/
def State.unit4 (s : State) (f : Berth → Berth) : Out := .next ((s.upd f).done 4)
/-- A 64-bit unit whose only effect is f on the strand. -/
def State.unit8 (s : State) (f : Berth → Berth) : Out := .next ((s.upd f).done 8)

/-! ## MSI-X, trace and the check-interval register -/

/-- Signals an MSI-X vector: its pending bit is set (R51, R330, R372). -/
def State.msix (s : State) (v : Nat) : State := { s with msixP := AMap.set false s.msixP (v % 2048) true }

/-- Records an event in `ctx_cki` (R394): the bit, and the code and berth when it is the first since the clear. -/
def ckiMark (r : Word) (bit code berth : Nat) (reads : Bool) : Word :=
  let first := r = 0
  let r := if first then r ||| (BitVec.ofNat 64 (2 ^ 56 * code + 2 ^ 48 * berth)) else r
  let r := r ||| BitVec.ofNat 64 (2 ^ bit)
  if reads && fld r.toNat 32 16 < 65535 then r + BitVec.ofNat 64 (2 ^ 32) else r

def State.cki (s : State) (ctx bit code berth : Nat) (reads : Bool) : State :=
  s.updCtx ctx (fun c => { c with cki := ckiMark c.cki bit code berth reads })

/-- A read of poison by unit `site` of berth b (R392, R394). -/
def State.sawPoison (s : State) (b site : Nat) : State := s.cki (s.berth b).ctx 0 (0xC0 + site) b true

/-- `pzs`: a party, named by its poison-read code and its berth, has written poisoned data to global memory or sent it into the fabric (R394). -/
def State.sentPoison (s : State) (ctx code berth : Nat) : State := s.cki ctx 1 code berth false

/-- Cycle count that stack k shows now: a free value moves it on (R177, log entry 2). -/
def State.cyclesNow (s : State) (k : Nat) : Word := BitVec.ofNat 64 ((s.stack k).cycles + Config.cycleGap s.ev)

/-- Whether debug feature k is open (R339, R444): 0 STOP, 1 RREG, 2 WREG, 3 MEM, 4 TRACE, 5 PROF. -/
def State.feature (s : State) (k : Nat) : Bool := s.life ≠ 1 || s.features.getLsbD k

/-- Writes a trace record of type `typ` for berth b when its event is enabled (R444, R451, R452). DESIGN CHOICE (unsafe; log entry 137): one that gets no
answer from its home is dropped and counted as dropped. -/
def State.trace (s : State) (b typ eng opn : Nat) (pc : Word) (csq code : Nat) : State :=
  let B := s.berth b
  let c := s.ctx B.ctx
  let k := stackOf b
  let cfg := c.trCfg.toNat
  if !(s.feature 4) || !(bitN cfg 0) || !(bitN cfg (8 + typ)) || bitN c.trEnd k then s else
  let tlg := fld c.trBase.toNat 58 6
  let wr := (AMap.get 0 c.trWr k).toNat
  let wcnt := fld wr 0 40
  let drp := fld wr 40 24
  let cap := 2 ^ (tlg - 5)
  let drop := s.updCtx B.ctx (fun c => { c with trWr := AMap.set 0 c.trWr k (BitVec.ofNat 64 (wcnt + 2 ^ 40 * min (drp + 1) (2 ^ 24 - 1))) })
  if lowI ((wcnt : Int) - (fld (AMap.get 0 c.trRd k).toNat 0 40 : Nat)) 40 = cap then drop
  else
    let rcd := 2 ^ 192 * (s.cyclesNow k).toNat + 2 ^ 128 * pc.toNat + 2 ^ 96 * B.handle.toNat + 2 ^ 64 * (csq % 2 ^ 32)
      + 2 ^ 48 * (code % 256) + 2 ^ 40 * b + 2 ^ 36 * eng + 2 ^ 16 * B.ctx + 2 ^ 8 * opn + typ
    let va := 4096 * fld c.trBase.toNat 12 38 + 2 ^ tlg * k + wcnt % cap * 32
    match s.writeVA2 B.ctx va (leBytes rcd 32) with
    | .error f => if f.cls = 0 then drop else s.updCtx B.ctx (fun c => { c with trCfg := BitVec.ofNat 64 (setBitN cfg 1 true), trEnd := setBitN c.trEnd k true })
    | .ok s => s.updCtx B.ctx (fun c => { c with trWr := AMap.set 0 c.trWr k (BitVec.ofNat 64 ((wcnt + 1) % 2 ^ 40 + 2 ^ 40 * drp)) })

/-! ## What happens before what (R73–R80) -/

/-- The number of a thread: k = 0 a strand placed in berth b in event n; 1, 2, 3 a record that it appended to queue L, X, S in event n; 5 the mirror
writes of that S record; 4 a copy or a delivery of event n. 0 is the host. -/
def threadOf (b n k : Nat) : Nat := 8 + 8 * (b + 512 * n) + k

/-- Both clocks: by thread, the later. -/
def Clock.both (a b : Clock) : Clock := b.foldl (fun m p => if AMap.get 0 m p.1 < p.2 then AMap.put m p.1 p.2 else m) a

/-- Whether a store happens before an access of thread `me` of context `ctx` whose clock is K. What another context has stored is no part of the
context's own order. -/
def Ver.known (K : Clock) (me ctx : Nat) (v : Ver) : Bool := v.ctx != ctx || v.who == me || decide (v.iss ≤ AMap.get 0 K v.who)

/-- How far back a racing access of n bytes around a may look: to the last store of a byte of it that nothing races for (R79). -/
def State.raceFloor (s : State) (K : Clock) (me ctx n a : Nat) : Nat :=
  (List.range n).foldl (fun m i => match AMap.find s.hist (a - a % n + i) with
    | some (v :: vs) => if (v :: vs).all (Ver.known K me ctx) then max m v.perf else m
    | _ => m) 0

/-- Byte a of global memory as an ordinary access of n bytes reads it (R73, R79, R80): the last store that happens before it. Where another store
has been made that does not, the access races, and reads that value or the last one of its context up to some event; the choice is one for all
the bytes of an aligned access, and reaches the last stores of those that nothing races for, so that no store is seen in part (log entry 3). -/
def State.seen (s : State) (K : Clock) (me ctx n a : Nat) : Byte :=
  match AMap.find s.hist a with
  | none => s.mb a
  | some vs =>
    let old := ((vs.find? (Ver.known K me ctx)).map (·.v)).getD (s.mb a)
    if vs.all (Ver.known K me ctx) then old else
    match Config.racePick (2 ^ 46 * s.ev + (a - a % n)) with
    | 0 => old
    | t + 1 => ((vs.find? (fun v => decide (v.perf ≤ max t (s.raceFloor K me ctx n a)) && (v.ctx == ctx || v.who == 0))).map (·.v)).getD old

/-- What a release of berth b's strand passes on: all that has happened before it, its own accesses, and those of its records that have joined (R58, R76,
R78). -/
def State.released (s : State) (b : Nat) : Clock :=
  let B := s.berth b
  AMap.put (B.clk.both B.also) B.tid (s.ev + 1)

/-- Whether a scope code covers the parties on two berths (R74). -/
def covers (sc a b : Nat) : Bool := if sc = 0 then coreOf a == coreOf b else if sc = 1 then stackOf a == stackOf b else true

/-- An acquire (R76): what happened before the release side happens before all that follows, and the host's stores so far are read. -/
def State.acquire (s : State) (b : Nat) (K : Clock) : State :=
  s.updBerth b (fun B => { B with clk := AMap.put (B.clk.both K) 0 (s.ev + 1) })

/-! ## Joining and publishing (R57, R58, R74, R76) -/

/-- What a record hands on: all that has happened before its end, with a checkpoint's mirror writes, which are no writes of its own (R262) and have a number of
their own. -/
def QRec.out (r : QRec) : Clock := if r.q = 2 ∧ r.opn = 5 then AMap.put r.clk (r.tid + 2) (AMap.get 0 r.clk r.tid) else r.clk

/-- Records that satisfy p, done with their last issue, join the strand (R57, R58): their stores become the strand's, and what happened before their
end happens before what follows, though the strand's snapshot of a checkpoint's mirror stays as it was (R262). One that has retired leaves the list; one that
is still pushing tokens stays. -/
def Berth.absorb (b : Berth) (p : QRec → Bool) : Berth :=
  let sel := fun (r : QRec) => p r && (r.st == .retired || r.st == .pushing)
  let rs := b.recs.filter sel
  { b with
    pend := rs.foldl (fun m r => r.wr.foldl (fun m p => AMap.put m p.1 p.2) m) b.pend
    clk := rs.foldl (fun k r => k.both r.clk) b.clk
    also := rs.foldl (fun k r => if r.out = r.clk then k else k.both r.out) b.also
    recs := (b.recs.filter (fun r => !(sel r && r.st == .retired))).map (fun r => if sel r then { r with wr := [] } else r) }

/-- Whether p is x or before it, counted modulo 2^32: append positions (R193) and phases (R202). -/
def upTo (p x : Nat) : Bool := decide ((2 ^ 32 + x % 2 ^ 32 - p % 2 ^ 32) % 2 ^ 32 < 2 ^ 31)

/-- Whether a list of queues and positions names a record, or a later one of its queue. -/
def QRec.named (r : QRec) (ids : List (Nat × Nat)) : Bool := ids.any (fun i => r.q == i.1 && upTo r.idx i.2)

/-- What a list of records names, with those whose tokens and ring slots they took (R57). -/
def Berth.closure (b : Berth) (ids : List (Nat × Nat)) : List (Nat × Nat) :=
  ids ++ (b.recs.filter (fun r => r.named ids && (r.st == .retired || r.st == .pushing))).flatMap (·.joins)

/-- Joins every record of queue q up to append position `upto`, and the records whose tokens these took (R57). -/
def Berth.join (b : Berth) (q upto : Nat) : Berth := b.absorb (fun r => r.named (b.closure [(q, upto)]))

/-- ANOTHER PARTY has observed what these records of the strand signal (R57): they have joined, and the strand's releases cover them from here (R58);
the strand's own accesses are not ordered after them by it. -/
def Berth.joinAside (b : Berth) (ids : List (Nat × Nat)) : Berth :=
  let sel := fun (r : QRec) => r.named (b.closure ids) && (r.st == .retired || r.st == .pushing)
  let rs := b.recs.filter sel
  { b with
    pend := rs.foldl (fun m r => r.wr.foldl (fun m p => AMap.put m p.1 p.2) m) b.pend
    also := rs.foldl (fun k r => k.both r.out) b.also
    recs := b.recs.map (fun r => if sel r then { r with wr := [] } else r) }

/-- C orders after itself, for R236, the records of queue q up to position `upto`. -/
def Berth.settle (b : Berth) (q upto : Nat) : Berth := { b with hist := b.hist.filter (fun h => !(h.1 == q && upTo h.2.1 upto)) }

/-- C joins what a token or a slot of its own strand names (R57, R77), and orders after itself the queue that pushed or filled it (R236). -/
def Berth.joinTok (b : Berth) (t : Tok) : Berth :=
  if t.src ≠ b.tid then b else
  let b := t.ids.foldl (fun b i => b.join i.1 i.2) b
  match t.ids with
  | i :: _ => b.settle i.1 i.2
  | [] => b

def Tok.empty : Tok := ⟨[], 0, []⟩

/-- The strands of core c other than that of berth `but`, whose records a token or a slot names, have them joined by its observer (R57). -/
def State.joinElse (s : State) (c but : Nat) (t : Tok) : State :=
  [2 * c, 2 * c + 1].foldl (fun s b =>
    if b = but ∨ t.ids = [] ∨ (s.berth b).tid ≠ t.src then s else s.updBerth b (·.joinAside t.ids)) s

/-- Joins every record of the strand that has retired. -/
def Berth.joinAll (b : Berth) : Berth :=
  [0, 1, 2].foldl (fun b q => b.join q (b.app.getD q 0).toNat) b

/-- Whether every queue of the strand is empty (R193). -/
def Berth.drained (b : Berth) : Bool := b.recs.all (fun r => r.st == .retired)

/-- Stores of berth b's strand reach memory: granules that it wrote with poison stay poisoned (R392). -/
def State.letOut (s : State) (b : Nat) (out : Mem) : State :=
  let B := s.berth b
  let gs := (out.map (fun p => p.1 / 32)).eraseDups
  let hot := gs.filter (AMap.get false B.pzg)
  let s := hot.foldl (fun s g => s.setPoison (32 * g) 1) (s.layOv out B.wholeg)
  s.setBerth b { B with pzg := gs.foldl (fun z g => AMap.erase z g) B.pzg, wholeg := gs.foldl (fun z g => AMap.erase z g) B.wholeg }

/-- Whether a publish at scope `sc` sends the byte at physical address a: one in host memory leaves only at .sys (R74, R469), at .core one whose
home is silent has only entered the core's request path (R74, R424), and one whose home is fenced goes nowhere (R424). -/
def State.goesAt (s : State) (sc a : Nat) : Bool := (!(bitN a 45) || sc == 3) && !(sc == 0 && s.paDead a) && !(s.paFenced a)

/-- Publishes the strand's stores and those of its joined records at scope `sc` (R74, R76, R469). -/
def State.publish (s : State) (b sc : Nat) : State :=
  let out := (s.berth b).pend.filter (fun p => s.goesAt sc p.1)
  (s.letOut b out).updBerth b (fun B => { B with pend := B.pend.filter (fun p => !(s.goesAt sc p.1)) })

/-- Whether every home that a publish at scope `sc` writes can acknowledge (R74): at .core none has to. -/
def State.mayPublish (s : State) (b sc : Nat) : Bool := (s.berth b).pend.all (fun p => !(s.goesAt sc p.1 && s.paDead p.1))

/-- Whether a store of the strand that was sent and not acknowledged has lost its home to a fence (R424 step 5). -/
def State.storesLost (s : State) (b : Nat) : Bool := (s.berth b).pend.any (fun p => s.paFenced p.1)

/-- Those stores are gone. -/
def State.dropLost (s : State) (b : Nat) : State := s.updBerth b (fun B => { B with pend := B.pend.filter (fun p => !(s.paFenced p.1)) })

/-- Whether the host port answers the strand's host stores (R191). -/
def State.hostAnswers (s : State) (b : Nat) : Bool := (s.berth b).pend.all (fun p => !(bitN p.1 45 && s.paDead p.1))

/-- Writes the strand's host stores and nothing else (`fence.io`, R469). -/
def State.flushHost (s : State) (b : Nat) : State :=
  let out := (s.berth b).pend.filter (fun p => bitN p.1 45)
  (s.letOut b out).updBerth b (fun B => { B with pend := B.pend.filter (fun p => !(bitN p.1 45)) })

/-- Byte a of global memory as an ordinary load of n bytes by berth b's strand reads it. A store of the strand's own record that has not joined
races with it (R75). -/
def State.loadIn (s : State) (b n a : Nat) : Byte :=
  let B := s.berth b
  s.seen B.clk B.tid B.ctx n a
def State.loadByte (s : State) (b a : Nat) : Byte := s.loadIn b 1 a

/-- The n bytes of one load. -/
def State.loadBytes (s : State) (b a n : Nat) : List Byte := (List.range n).map (fun i => s.loadIn b n (a + i))

/-- An ordinary store of the strand (R73): it stays with the strand until a publish; a racing access may read it at once (R80). -/
def State.storeOwn (s : State) (b a : Nat) (bs : List Byte) : State :=
  let B := s.berth b
  let ov := ovPut [] a bs
  (s.record B.tid (s.ev + 1) B.ctx ov).setBerth b { B with pend := ovPut B.pend a bs }

/-! ## The cut of a queue (R364) -/

/-- Records of queue q that have not retired, oldest first. -/
def Berth.queue (b : Berth) (q : Nat) : List QRec := b.recs.filter (fun r => r.q == q && r.st != .retired)

/-- One send of the head record of queue q has been acknowledged (R232). -/
def Berth.sendAck (B : Berth) (q : Nat) : Berth :=
  match (B.queue q).head? with
  | none => B
  | some h => { B with recs := B.recs.map (fun r => if r.q == q && r.idx == h.idx then { r with sent := r.sent - 1 } else r) }

/-- Number of issues of a record (R138). -/
def recIssues (r : Rec) : Nat := (r.t0.toNat + 1) * (r.t1.toNat + 1) * (r.t2.toNat + 1) * (r.t3.toNat + 1)
/-- Index ik of issue point n (R227). -/
def recIx (r : Rec) (n k : Nat) : Nat :=
  match k with
  | 0 => n % (r.t0.toNat + 1)
  | 1 => n / (r.t0.toNat + 1) % (r.t1.toNat + 1)
  | 2 => n / (r.t0.toNat + 1) / (r.t1.toNat + 1) % (r.t2.toNat + 1)
  | _ => n / (r.t0.toNat + 1) / (r.t1.toNat + 1) / (r.t2.toNat + 1) % (r.t3.toNat + 1)

/-- Whether a range overlaps n bytes at lo of a space, with a write among the two. -/
def Rng.meets (r : Rng) (spc lo n : Nat) (wr : Bool) : Bool :=
  r.spc == spc && decide (r.lo < lo + n) && decide (lo < r.hi) && (r.wr || wr)

/-- Whether two lists of ranges conflict (R235). -/
def rngsConflict (xs ys : List Rng) : Bool := xs.any (fun g => ys.any (fun h => h.meets g.spc g.lo (g.hi - g.lo) g.wr))

/-- Whether the range checker holds a record: an earlier-appended, conflicting record of another queue has not retired (R235). -/
def Berth.rangeHeld (b : Berth) (r : QRec) : Bool :=
  r.live && (b.recs.takeWhile (fun e => !(e.q == r.q && e.idx == r.idx))).any (fun e =>
    e.q != r.q && e.live && e.st != .retired && rngsConflict e.ranges r.ranges)

/-- A used ring slot that is not bound yet (R234). -/
def QRec.unbound (r : QRec) : Bool := r.live && r.slots.any (fun u => u.used && fld u.stream.toNat 0 2 == 3 && u.bound.isNone)

/-- `hs` of R364. -/
def Berth.hs (b : Berth) (r : QRec) : Nat :=
  match r.st with
  | .waitTok => if !r.toks && r.pops != [] then 1 else if b.rangeHeld r then 2 else if r.unbound then 3 else 4
  | .started => if !r.live || r.skip || decide (recIssues r.r ≤ r.point) then 7 else 4
  | .faulted => 5
  | .pushing => 6
  | .retired => 7

/-- `tcql`, `tcqx` or `tcqs`. -/
def Berth.tcq (b : Berth) (q : Nat) : Word :=
  let rs := b.queue q
  BitVec.ofNat 64 (2 ^ 48 * (rs.head?.map b.hs).getD 0 + 2 ^ 32 * rs.length + (b.qsn.getD q 0).toNat)

/-- `tcil`, `tcix` or `tcis`. -/
def Berth.tci (b : Berth) (q : Nat) : Word :=
  match (b.queue q).head? with
  | none => 0
  | some r => if b.hs r ≤ 3 then 0 else
      BitVec.ofNat 64 (recIx r.r r.point 0 + 2 ^ 16 * recIx r.r r.point 1 + 2 ^ 32 * recIx r.r r.point 2 + 2 ^ 48 * recIx r.r r.point 3)

/-! ## Context faults (R372) and taking an exception (R365–R369) -/

/-- A context fault is raised: what `ctx_flt` will report, no further fetching, and a pre-emption of the whole context
(R372). A later fault changes nothing of the report. -/
def State.ctxFault (s : State) (ctx code berth seq : Nat) (nres : Bool) : State :=
  s.updCtx ctx (fun c =>
    let f := if c.pendFault.isSome || bitN c.flt.toNat 0 then c.pendFault else some (code, berth, seq, nres)
    { c with pendFault := f, stopFetch := true, pnd := true, cfault := true, arrivedStk := if c.pnd then c.arrivedStk else 0 })

/-- Registers of a trap (R362, R365): every field but `tact` and `tscr`. -/
def Berth.recordTrap (b : Berth) (code : Nat) (asy h : Bool) (tpc taddr tval tword tlane : Word) : Berth :=
  { b with trapped := true, trap := { b.trap with
      tcause := BitVec.ofNat 64 (code + 2 ^ 8 * b2n asy + 2 ^ 11 * b2n h), tpc := tpc, taddr := taddr, tval := tval,
      tword := tword, tprd := b.preds, tcql := b.tcq 0, tcqx := b.tcq 1, tcqs := b.tcq 2, tcil := b.tci 0, tcix := b.tci 1,
      tcis := b.tci 2, tlane := tlane } }

/-- The handler's address when it can be entered: `en`, and a `tgt` word fetched with permission (R367). -/
def State.handler (s : State) (ctx : Nat) : Option Word :=
  let t := (s.ctx ctx).trap.toNat
  if !(bitN t 0) then none else
  let va := fld t 2 48 * 4
  match s.xlate ctx va (BitVec.ofNat 64 va) .fetch with
  | .error _ => none
  | .ok l => if memNat s.mem l.pa 4 = 0x08000000 then some (BitVec.ofNat 64 va) else none

/-- TAKING AN EXCEPTION (R365, R366, R369, R372): the trap registers take the cause, the saved pc, the address, the value,
the unit's words and the predicates; the queues stand at the cut; the strand goes on at its context's handler with `h`
set. Without a usable handler the context faults with the trap's code; a trap inside the handler is a nested trap. A step whose unit has not issued goes
on with the handler's first unit (R448). -/
def State.trapAt (s : State) (b code : Nat) (asy : Bool) (tpc taddr tval tword tlane : Word) : State :=
  let B := s.berth b
  let seq := (s.launchOf b).seq
  if B.inHandler then
    let t := B.trap.tcause.toNat
    let B := { B with pfx := none, pc := B.unitPc, cut := true, haltF := true, waiting := .none, answer := none,
                      trap := { B.trap with tcause := BitVec.ofNat 64 (setBitN (t % 2 ^ 16 + 2 ^ 16 * code) 10 true) } }
    (s.setBerth b B).ctxFault B.ctx 0xF0 b seq true
  else match s.handler B.ctx with
    | some va =>
      let B := B.recordTrap code asy true tpc taddr tval tword tlane
      let B := { B with pc := va, pfx := none, cut := true, st := .run, waiting := .none, answer := none }
      (s.trace b 4 0 0 (s.berth b).unitPc 0 code).setBerth b (if asy && B.dbg.due == 4 then B else B.stepStop)
    | none =>
      let B := B.recordTrap code asy false tpc taddr tval tword tlane
      (s.setBerth b { B with pc := tpc, pfx := none, cut := true, haltF := true, st := .run, waiting := .none, answer := none }).ctxFault
        B.ctx code b seq false

/-- `tword` of a C trap: the prefix word and the instruction's first word (R362). -/
def State.unitWords (s : State) : Word :=
  BitVec.ofNat 64 (2 ^ 32 * (if s.me.pfx.isSome then s.me.pfxWord.toNat else 0) + (s.ir.getD 0 0).toNat)

/-- A trap of C at its unit (R152, R365): no effect, `tpc` at the unit's first word. -/
def State.trapC (s : State) (cls : Nat) (taddr tval : Word) : State :=
  s.trapAt s.cur (cls * 16) false s.me.unitPc taddr tval s.unitWords 0

/-- A C trap whose `tpc` is the next unit (R153 `sysc`, R399, R435). -/
def State.trapNext (s : State) (code : Nat) (tpc taddr tval : Word) : State :=
  s.trapAt s.cur code false tpc taddr tval s.unitWords 0

/-- C stalls at the unit: no effect, and it is not ready until something has happened; then it issues again (R31, R59, R184, R286, R424). -/
def State.stall (s : State) : State := s.upd (fun b => { b with pc := b.unitPc, pfx := none, stalled := true })

/-- STEP 1 OF A CONTEXT FAULT THAT IS NO TRAP (R372): the strand makes its cut with `h` = 0 and its trap registers are written; those of a strand in its
handler keep the first trap (R369). -/
def State.haltAt (s : State) (b code : Nat) (asy : Bool) (taddr tval tword tlane : Word) : State :=
  let B := s.berth b
  let B' := if B.inHandler then B else B.recordTrap code asy false B.unitPc taddr tval tword tlane
  s.setBerth b { B' with pc := B.unitPc, pfx := none, haltF := true, cut := true }

/-- An access of berth b's C, made by the unit with the words given, has failed: a trap at that unit, or a context fault that makes the strand halt
there (R387, R388, R467). -/
def State.faultAt (s : State) (b : Nat) (f : MFault) (words : Word) : State :=
  if f.ctxf then
    (s.haltAt b (f.code 0) false f.addr f.val words 0).ctxFault (s.berth b).ctx (f.code 0) b (s.launchOf b).seq false
  else s.trapAt b (f.code 0) false (s.berth b).unitPc f.addr f.val words 0

/-- A faulting C access of the unit that issues: a stall while no answer comes, else its fault. -/
def State.accessFault (s : State) (f : MFault) : State :=
  if f.cls = 0 then s.stall else s.faultAt s.cur f s.unitWords

/-- ILLEGAL at the unit (R359, R381). -/
def State.illegal (s : State) (addr val : Word) : State := s.trapC 5 addr val

/-- RETURN FROM AN EXCEPTION (R368): `preds` from `tprd`, `h` and `tact` cleared, the queues released from the cut, C at
`tpc`; `tact` decides what becomes of faulted records, and 2 escalates. -/
def Berth.eretWith (b : Berth) (skipRec : Bool) : Berth :=
  let asy := b.trap.tcause.getLsbD 8
  let code := b.trap.tcause.toNat % 256
  let first := b.recs.find? (fun r => asy && r.st == .faulted && r.fcode == code)
  let reported := fun (r : QRec) => first.any (fun x => x.q == r.q && x.idx == r.idx)
  let rs := b.recs.map (fun r =>
    if r.st == .faulted then
      if skipRec && reported r then { r with st := .started, skip := true }
      else { r with st := if r.unbound && r.point == 0 then .waitTok else .started }
    else r)
  let b := b.setPreds b.trap.tprd
  { b with recs := rs, cut := false, pc := b.trap.tpc, pfx := none, waiting := .none, answer := none,
           trap := { b.trap with tcause := BitVec.ofNat 64 (setBitN b.trap.tcause.toNat 11 false), tact := 0 } }

/-- A failed access of the device itself for a launch, at site u: a context fault that can be resumed (R390, R410, R468); with no answer
yet, nothing. -/
def State.deviceFault (s : State) (ctx : Nat) (f : MFault) (u seq : Nat) : State :=
  if f.cls = 0 then s else s.ctxFault ctx (f.devCode u) 0xFF seq false

/-! ## Waiting -/

/-- The instruction waits (R225): it has had no effect and restarts when the wait is satisfied. -/
def State.waitFor (s : State) (k : WaitKind) : State :=
  s.upd (fun b => { b with st := .wait, waiting := k, pc := b.unitPc, pfx := none })

/-! ## Fetching (R61, R377) -/

/-- One instruction word of a context at va: translation and the `x` permission (R361, R377). DESIGN CHOICE (unsafe; log entry 96): a pc with a bit of
[63:50] set, which R61 keeps zero and a direct branch or a fall-through can reach, traps with BOUNDS, `tval` 0. -/
def State.fetchWord (s : State) (ctx : Nat) (pc : Word) : Except MFault Half :=
  if fld pc.toNat 50 14 ≠ 0 then .error ⟨7, none, pc, 0, false⟩
  else match s.xlate ctx (fld pc.toNat 0 50) pc .fetch with
    | .error f => .error f
    | .ok l => .ok (BitVec.ofNat 32 (memNat s.mem l.pa 4))

/-- `Mix64` of R178. -/
def mix64 (x : Word) : Word :=
  let z := x + 0x9E3779B97F4A7C15#64
  let z := (z ^^^ (z >>> 30)) * 0xBF58476D1CE4E5B9#64
  let z := (z ^^^ (z >>> 27)) * 0x94D049BB133111EB#64
  z ^^^ (z >>> 31)

/-- Draw number n under key K (R178). -/
def draw16 (key n : Word) : Nat :=
  let w := mix64 (key ^^^ mix64 (n >>> 2))
  fld w.toNat (16 * (n.toNat % 4)) 16

end Sys2Proof.Machine
end

