-- ==== Sys2Proof/Machine/Flags.lean ====
section
/-! DEFINITION. The truth values that instructions write: the conditions of R158, the predicate operations of R159, and
the `Passed` test of barriers (R202). The device keeps no other flags (R103). -/

namespace Sys2Proof.Machine

/-- Condition cc of R158 (codes 0–7): eq, ne, lt, le, ltn, len, gt, gtn. -/
def condHolds (cc : Nat) (x y : Word) : Bool :=
  match cc with
  | 0 => x == y
  | 1 => x != y
  | 2 => decide (x.toInt < y.toInt)
  | 3 => decide (x.toInt ≤ y.toInt)
  | 4 => decide (x.toNat < y.toNat)
  | 5 => decide (x.toNat ≤ y.toNat)
  | 6 => decide (y.toInt < x.toInt)
  | _ => decide (y.toNat < x.toNat)

/-- `Passed(x)` of R202. -/
def passed (phase : Nat) (x : Word) : Bool :=
  let n := (2 ^ 32 + phase - x.toNat % 2 ^ 32) % 2 ^ 32
  decide (1 ≤ n) && decide (n < 2 ^ 31)

end Sys2Proof.Machine
end

