-- ==== Sys2Proof/Machine/Hash.lean ====
section
/-! DEFINITION. SHA3-256 (FIPS 202), which R30, R303, R336, R338 and R339 name. The rotation amounts and the round constants
are computed as the standard defines them, not tabulated. -/

namespace Sys2Proof.Machine

/-- The 25 lanes of the sponge, lane (x, y) at place x + 5y. -/
abbrev Sponge := AMap Word

def Sponge.at5 (a : Sponge) (x y : Nat) : Word := AMap.get 0 a (x % 5 + 5 * (y % 5))

/-- A sponge from a rule for each lane. -/
def Sponge.of (f : Nat → Nat → Word) : Sponge :=
  (List.range 25).foldl (fun a i => AMap.set 0 a i (f (i % 5) (i / 5))) []

/-- θ: each lane takes in the parities of two neighbouring columns. -/
def Sponge.theta (a : Sponge) : Sponge :=
  let col : Nat → Word := fun x => (List.range 5).foldl (fun w y => w ^^^ a.at5 x y) 0
  Sponge.of (fun x y => a.at5 x y ^^^ col (x + 4) ^^^ (col (x + 1)).rotateLeft 1)

/-- ρ and π in one walk of `n` lanes from (x, y), with `t` lanes behind it: the lane at (x, y) turns by (t + 1)(t + 2) ÷ 2
and lands at (y, 2x + 3y), which is where the walk goes on. Lane (0, 0) stays. -/
def Sponge.walk (a out : Sponge) (x y t : Nat) : Nat → Sponge
  | 0 => out
  | n + 1 =>
    let y' := (2 * x + 3 * y) % 5
    Sponge.walk a (AMap.set 0 out (y + 5 * y') ((a.at5 x y).rotateLeft ((t + 1) * (t + 2) / 2 % 64))) y y' (t + 1) n

/-- χ: the only step that is not linear. -/
def Sponge.chi (a : Sponge) : Sponge :=
  Sponge.of (fun x y => a.at5 x y ^^^ (a.at5 (x + 2) y &&& ~~~ a.at5 (x + 1) y))

/-- The 8-bit feedback register behind the round constants, `n` shifts on. -/
def feedback (v : Nat) : Nat → Nat
  | 0 => v
  | n + 1 => feedback (if v ≥ 128 then (2 * v) ^^^ 0x171 else 2 * v) n

/-- The round constant of round `ir`: bit 2^j − 1 is output bit j + 7·ir of the feedback register. -/
def roundConst (ir : Nat) : Word :=
  (List.range 7).foldl (fun w j => if feedback 1 (j + 7 * ir) % 2 = 1 then w ||| (1 <<< (2 ^ j - 1)) else w) 0

/-- Rounds `ir` to 23 of Keccak-f[1600], `n` of them. -/
def Sponge.rounds (a : Sponge) (ir : Nat) : Nat → Sponge
  | 0 => a
  | n + 1 =>
    let b := a.theta
    let c := (Sponge.walk b b 1 0 0 24).chi
    Sponge.rounds (AMap.set 0 c 0 (c.at5 0 0 ^^^ roundConst ir)) (ir + 1) n

/-- The message with SHA-3's padding: 0x06, zeros, and 0x80 set in the last byte of the last block of 136. -/
def sha3Padded (m : List Byte) : List Byte :=
  let z := 135 - m.length % 136
  m ++ (if z = 0 then [0x86] else 0x06 :: (List.replicate (z - 1) 0 ++ [0x80]))

/-- Takes in `n` blocks of 136 bytes, 17 lanes each. -/
def Sponge.absorb (a : Sponge) (bs : List Byte) : Nat → Sponge
  | 0 => a
  | n + 1 =>
    let x := (List.range 17).foldl (fun b i =>
      AMap.set 0 b i (AMap.get 0 a i ^^^ BitVec.ofNat 64 (leNat ((bs.drop (8 * i)).take 8)))) a
    Sponge.absorb (Sponge.rounds x 0 24) (bs.drop 136) n

/-- SHA3-256 of a byte string. -/
def sha3 (m : List Byte) : List Byte :=
  let a := Sponge.absorb [] (sha3Padded m) (m.length / 136 + 1)
  [0, 1, 2, 3].flatMap (fun i => leBytes (AMap.get 0 a i).toNat 8)

/-- Bytes 0–7 of a digest as a little-endian number (R30, R303). -/
def sha3Low (m : List Byte) : Word := BitVec.ofNat 64 (leNat ((sha3 m).take 8))

end Sys2Proof.Machine
end

