-- ==== Sys2Proof/Machine/Log.lean ====
section
/-! DEFINITION. The order log (R301–R313, R390, R414, R415): one gate through which every logged event passes. In record
mode it writes the record, in replay mode it holds the event to the log, outside deterministic mode it does nothing. -/

namespace Sys2Proof.Machine

/-- A logged event (R306–R308). -/
structure LogReq where
  typ : Nat
  obj : Nat
  arg : Nat
  pk : Nat
  hnd : Nat
  src : Nat
  pix : Nat
  deriving DecidableEq, Repr

/-- What the gate answers: the event takes place in the state given, it waits, or it has no effect and the state given
reports why. -/
inductive Gate where
  | go (s : State)
  | hold
  | bad (s : State)
  deriving DecidableEq, Repr

/-- Whether the log holds the event. -/
def Gate.held : Gate → Bool
  | .hold => true
  | _ => false

/-- Rank of a stack among the healthy ones (R307). -/
def State.rank (s : State) (k : Nat) : Nat := popN s.live (min k 4)
/-- Logical berth and core (R307). -/
def State.logBerth (s : State) (b : Nat) : Nat := 32 * s.rank (stackOf b) + b % 32
def State.logCore (s : State) (c : Nat) : Nat := 16 * s.rank (c / 16) + c % 16

/-- The berth of a logical berth number (R307). -/
def State.physBerth (s : State) (n : Nat) : Nat := 32 * (maskList s.live).getD (n / 32) 0 + n % 32

/-- A failed access to the log (R390) for an event of the party on logical berth `src`, 0xFF for none: its strand makes its cut and reports it
(R372). -/
def State.logFault (s : State) (ctx : Nat) (f : MFault) (src seq : Nat) : Gate :=
  let code := f.devCode 10
  if f.cls = 0 then .hold
  else if src = 0xFF then .bad (s.ctxFault ctx code 0xFF seq false)
  else .bad ((s.haltAt (s.physBerth src) code false f.addr f.val 0 0).ctxFault ctx code (s.physBerth src) seq false)

/-- The device's topology hash of a set of stacks (R30). -/
def State.shapeHash (s : State) (mask : Nat) : Word :=
  let ks := maskList mask
  let per := (List.range 4).flatMap (fun i => match ks[i]? with
    | some k => leBytes (s.stack k).present 2 ++ leBytes (s.stack k).capGiB 1
    | none => [0, 0, 0])
  sha3Low ([1, BitVec.ofNat 8 ks.length] ++ per ++ leBytes 0x24900 8 ++ leBytes 0x49200 8 ++ leBytes 0x92400 8)

/-- The reproducibility signature (R303). -/
def State.reproSig (s : State) : Word :=
  let img := (maskList s.live).head?.map (fun k => (s.stack k).image)
  sha3Low (leBytes (s.shapeHash s.live).toNat 8 ++ (img.getD (List.replicate 32 0)) ++ leBytes 1 8)

/-- The object that a record belongs to (R308): TEST records stand in their object's order, all tag records in the pool's,
ARRIVE and PHASE in their barrier's. -/
def logObj (typ obj arg : Nat) : Nat × Nat :=
  match typ with
  | 0x08 => (0x08, fld obj 32 3)
  | 0x09 => (0x09, fld obj 29 3)
  | 0x12 => (0x11, obj)
  | 0x15 => (0x15, fld obj 32 2)
  | 0x16 => match fld arg 0 8 with
    | 0x17 => (0x10, obj)
    | 0x18 => (0x11, obj)
    | 0x19 => (0x13, obj)
    | _ => (0x17, 0)
  | 0x17 => (0x17, 0)
  | 0x04 => (0x04, 0)
  | t => (t, obj)

/-- The 256-bit record (R306). -/
def logWord (r : LogReq) (k : Nat) : Nat :=
  2 ^ 192 * (r.arg % 2 ^ 64) + 2 ^ 128 * (r.obj % 2 ^ 64) + 2 ^ 96 * (r.pix % 2 ^ 32) + 2 ^ 93 * r.pk + 2 ^ 32 * r.hnd + 2 ^ 24 * (k % 256)
    + 2 ^ 16 * r.src + r.typ

/-- Fields of a record as read back. -/
def logRead (w : Nat) : LogReq × Nat :=
  (⟨fld w 0 8, fld w 128 64, fld w 192 64, fld w 93 3, fld w 32 32, fld w 16 8, fld w 96 32⟩, fld w 24 8)

/-- `lcnt` of a launch (R304). -/
def State.lcnt (s : State) (ctx lsl : Nat) : Nat := (if lsl = 0 then (s.ctx ctx).logc0 else (s.ctx ctx).logc1).toNat
def Launch.logCap (l : Launch) : Nat := 2 ^ l.f 256 5
def Launch.logSlot (l : Launch) (k : Nat) : Nat := l.f 192 64 + 32 * (k % l.logCap)

def State.updLog (s : State) (ctx lsl : Nat) (f : LogSt → LogSt) : State := s.updLaunch ctx lsl (fun l => { l with log := f l.log })

/-- Writes record number k and counts it; a write that fails is a resumable context fault at site 10 (R390). -/
def State.logPut (s : State) (ctx lsl : Nat) (r : LogReq) : Gate :=
  let l := s.launch ctx lsl
  match s.writeVA2 ctx (l.logSlot l.log.k) (leBytes (logWord r l.log.k) 32) with
  | .error f => s.logFault ctx f r.src l.seq
  | .ok s => .go (s.updLog ctx lsl (fun g => { g with k := g.k + 1 }))

/-- A replay divergence (R415): `ctx_ldiv`, and a context fault that cannot be resumed. -/
def State.diverge (s : State) (ctx lsl k typ reason : Nat) : State :=
  let l := s.launch ctx lsl
  (s.updCtx ctx (fun c => { c with ldiv := BitVec.ofNat 64 (2 ^ 32 * (k % 2 ^ 32) + 2 ^ 16 * typ + reason) })).ctxFault ctx 0xBA 0xFF l.seq true

/-- What a replay finds for an object. -/
inductive Scan where
  | found (k : Nat) (r : LogReq)
  | lsq (k typ : Nat)
  | endAt (k : Nat)
  | breakAt (k : Nat) (allUsed : Bool)
  | missing
  | unreadable (f : MFault)
  deriving DecidableEq, Repr

/-- Searches the log from record k for the next unconsumed record that satisfies p (R311). -/
def State.logFind (s : State) (ctx lsl : Nat) (p : LogReq → Bool) (k : Nat) (allUsed : Bool) : Nat → Scan
  | 0 => .missing
  | fuel + 1 =>
    let l := s.launch ctx lsl
    if AMap.get false l.log.used k then s.logFind ctx lsl p (k + 1) allUsed fuel else
    match s.readVA ctx (l.logSlot k) 32 with
    | .error f => .unreadable f
    | .ok bs =>
      let (r, q) := logRead (leNat bs)
      if q ≠ k % 256 then .lsq k r.typ
      else if r.typ = 2 then .endAt k
      else if r.typ = 3 then .breakAt k allUsed
      else if p r then .found k r
      else s.logFind ctx lsl p (k + 1) false fuel

/-- The same over every record that the host has placed. -/
def State.logNext (s : State) (ctx lsl : Nat) (p : LogReq → Bool) : Scan := s.logFind ctx lsl p 0 true (s.lcnt ctx lsl)

/-- Whether two events belong to one object (R308). -/
def LogReq.sameObj (q r : LogReq) : Bool := logObj q.typ q.obj q.arg == logObj r.typ r.obj r.arg
/-- Whether a record names the party of an event: C and the records by handle, kind and `pix`, the others by kind (R307, R311). -/
def LogReq.sameParty (q r : LogReq) : Bool := q.hnd == r.hnd && q.pk == r.pk && (decide (3 < q.pk) || q.pix == r.pix)

/-- Whether a record of the strand on a logical berth may still make the ordered buffer leave, and so take C's next number (R307, R314). -/
def State.mayBatch (s : State) (src : Nat) : Bool :=
  let B := s.berth (s.physBerth src)
  B.obuf != [] || B.recs.any (fun e => e.q == 2 && e.opn == 3 && e.st != .retired)

/-- The next record that names the party of an event, where it is of another object or of another type: the party makes the event elsewhere than the log has
it (R415). The records of one party stand in its program order (R305). A batch that a record may still let leave can take C's number. -/
def State.logElsewhere (s : State) (ctx lsl : Nat) (r : LogReq) : Option (Nat × Nat) :=
  if 3 < r.pk then none else
  match s.logNext ctx lsl (fun q => q.sameParty r && decide (4 ≤ q.typ)) with
  | .found k q => if (q.typ == r.typ && q.sameObj r) || (q.typ == 0x15 && r.pk == 0 && s.mayBatch r.src) then none else some (k, q.typ)
  | _ => none

/-- What a replay does with an event whose party the next record of its object does not name, or that has no such record (R311, R312, R415): it
waits for its turn while its own record may still come; reason 1 when its party and number stand elsewhere. `past` is what the end of the log says. -/
def State.logOther (s : State) (ctx lsl : Nat) (r : LogReq) (past : Nat → Gate) : Gate :=
  match s.logElsewhere ctx lsl r with
  | some (j, t) => .bad (s.diverge ctx lsl j t 1)
  | none => match s.logNext ctx lsl (fun q => q.sameObj r && q.sameParty r) with
    | .endAt k => past k
    | .lsq k t => .bad (s.diverge ctx lsl k t 5)
    | .unreadable f => s.logFault ctx f r.src (s.launch ctx lsl).seq
    | _ => .hold

/-- Whether an outcome that differs from its record may still come to equal it: a grant to another berth or of another task is not the one whose
turn it is, and a window that has merged fewer contributions than logged takes more (R311, R313). -/
def LogReq.mayCome (r q : LogReq) : Bool :=
  (r.typ == 8 && q.typ == 8 && (r.obj != q.obj || r.arg % 256 != q.arg % 256))
    || (r.typ == 0x18 && q.typ == 0x18 && r.obj == q.obj && r.arg % 2 == 1 && q.arg % 2 == 1 && decide (r.arg < q.arg))

/-- THE GATE (R305, R309–R312). DESIGN CHOICE (unsafe; log entry 99): `logq` shows a BREAK in a replay that reaches one too, and counts as read every
record up to the highest one consumed. -/
def State.logGate (s : State) (ctx lsl : Nat) (r : LogReq) : Gate :=
  let l := s.launch ctx lsl
  let g := l.log
  if !l.det || g.brk || g.free then .go s
  else if !l.rpl then
    let used := lowI ((g.k : Int) - (s.lcnt ctx lsl : Nat)) 64
    if l.f 78 1 = 1 ∧ used = l.logCap - 1 then
      -- BREAK: the event is resolved without a record of its own
      match s.logPut ctx lsl ⟨3, g.k, 0, 6, 0xFFFFFFFF, 0xFF, 0⟩ with
      | .go s => .go ((s.updLog ctx lsl (fun g => { g with brk := true })).cki ctx 6 0xEA 0xFF false)
      | x => x
    else if used = l.logCap then .hold
    else s.logPut ctx lsl r
  else
    match s.logNext ctx lsl (fun q => q.sameObj r) with
    | .missing => s.logOther ctx lsl r (fun _ => .hold)
    | .unreadable f => s.logFault ctx f r.src l.seq
    | .lsq k t => .bad (s.diverge ctx lsl k t 5)
    | .endAt _ => s.logOther ctx lsl r (fun k => .bad (s.diverge ctx lsl k 2 4))
    | .breakAt _ all => if all then .go (s.updLog ctx lsl (fun g => { g with free := true, brk := true })) else s.logOther ctx lsl r (fun _ => .hold)
    | .found k q =>
      if !(q.sameParty r) then s.logOther ctx lsl r (fun _ => .bad (s.diverge ctx lsl k q.typ 1))
      else if q.typ ≠ r.typ ∨ q.obj ≠ r.obj ∨ q.arg ≠ r.arg then
        if r.mayCome q then .hold else .bad (s.diverge ctx lsl k q.typ (if r.typ = 4 then 7 else 2))
      else .go (s.updLog ctx lsl (fun g => { g with used := AMap.set false g.used k true, k := max g.k (k + 1) }))

/-- A launch whose events the log takes or holds now: deterministic, and not past a BREAK. -/
def Launch.logs (l : Launch) : Bool := l.det && !l.log.brk && !l.log.free
/-- A launch that follows its log. -/
def Launch.follows (l : Launch) : Bool := l.logs && l.rpl

/-- The number of the next event of an object in this log. -/
def State.logCnt (s : State) (ctx lsl : Nat) (key : Nat) : Nat := AMap.get 0 (s.launch ctx lsl).log.cnt key
def State.bumpCnt (s : State) (ctx lsl : Nat) (key : Nat) : State :=
  s.updLog ctx lsl (fun g => { g with cnt := AMap.set 0 g.cnt key (AMap.get 0 g.cnt key + 1) })

/-- Whether the log has C of a task for the party of a request: an atomic of C, or an entry of a batch, whoever made it (R306, R315; log entry 118). -/
def AtomReq.ofTask (a : AtomReq) : Bool := a.byRec.isNone || a.ordB.isSome

/-- An atomic, a batch or a contribution of C's task that the log has still to take, or may have to: later events of the same C come after it (R305). -/
def State.atomAhead (s : State) (b : Nat) : Bool :=
  let B := s.berth b
  (s.launchOf b).logs && (s.atoms.any (fun a => a.berth == b && a.ofTask && a.handle == B.handle)
    || s.contribs.any (fun c => c.req.berth == b && c.req.ofTask && c.req.handle == B.handle))

/-- A logged event of C of berth b: its party numbers are filled in and counted (R307). -/
def State.logC (s : State) (b typ obj arg : Nat) : Gate :=
  let B := s.berth b
  if s.atomAhead b then .hold else
  match s.logGate B.ctx B.lsl ⟨typ, obj, arg, 0, B.handle.toNat, s.logBerth b, B.pixc⟩ with
  | .go s => .go (if (s.launchOf b).det then s.updBerth b (fun B => { B with pixc := B.pixc + 1 }) else s)
  | x => x

/-- How many records of the log from k on satisfy p and have not been consumed. -/
def State.logTally (s : State) (ctx lsl : Nat) (p : LogReq → Bool) (k : Nat) : Nat → Nat
  | 0 => 0
  | fuel + 1 =>
    let l := s.launch ctx lsl
    match s.readVA ctx (l.logSlot k) 32 with
    | .error _ => 0
    | .ok bs =>
      let (r, q) := logRead (leNat bs)
      if q ≠ k % 256 ∨ r.typ = 2 ∨ r.typ = 3 then 0
      else b2n (!(AMap.get false l.log.used k) && p r) + s.logTally ctx lsl p (k + 1) fuel

/-- What a replayed log says of the next event of C of berth b, when it is of type `typ` and satisfies p: object and argument (R311). -/
def State.logMine (s : State) (b typ : Nat) (p : LogReq → Bool) : Option (Nat × Nat) :=
  let B := s.berth b
  if !(s.launchOf b).follows then none else
  match s.logNext B.ctx B.lsl (fun q => q.sameParty ⟨typ, 0, 0, 0, B.handle.toNat, 0, B.pixc⟩ && q.typ == typ && p q) with
  | .found _ q => some (q.obj, q.arg)
  | _ => none

/-- A logged event of a record. -/
def State.logR (s : State) (b q idx typ obj arg : Nat) : Gate :=
  let B := s.berth b
  s.logGate B.ctx B.lsl ⟨typ, obj, arg, q + 1, B.handle.toNat, s.logBerth b, idx⟩

/-- Runs a C instruction's logged event: it goes on, waits (R309), or has had no effect. -/
def State.gateC (s : State) (g : Gate) (k : State → State) : State :=
  match g with
  | .go s => k s
  | .hold => s.waitFor .log
  | .bad s => s.upd (fun b => { b with pc := b.unitPc, pfx := none, haltF := true, cut := true })

/-- Argument of a TEST record (R308). -/
def testArg (maj fn : Nat) (v : Word) : Nat := maj + 2 ^ 8 * fn + 2 ^ 32 * (v.toNat % 2 ^ 32)

/-- A logged test of C (R226, R311): it writes the value v that it observes. In a replay it writes the low 32 bits that the log has for it, once
`ready` says that what it tests, as far as it is not logged, has come that far. -/
def State.testC (s : State) (obj maj fn : Nat) (v : Word) (ready : Nat → Bool) (k : Word → State → State) : State :=
  let go := fun (v : Word) => s.gateC (s.logC s.cur 0x16 obj (testArg maj fn v)) (k v)
  match s.logMine s.cur 0x16 (fun q => q.obj == obj && q.arg % 2 ^ 32 == testArg maj fn 0) with
  | some (_, a) => if ready (fld a 32 32) then go (BitVec.ofNat 64 (v.toNat / 2 ^ 32 * 2 ^ 32 + fld a 32 32)) else s.waitFor .log
  | none => go v

end Sys2Proof.Machine
end

