-- ==== Sys2Proof/Machine/Operands.lean ====
section
/-! DEFINITION. Operand forms: immediates (R124, R142), effective pointers of loads and stores (R169), stream registers
(R172, R174), operand slots (R137, R227), ring handles and descriptors (R196, R197), barrier identifiers (R200). -/

namespace Sys2Proof.Machine

/-- k of R157 and R158: the sign-extended 12-bit immediate. -/
def imm12 (i : BitVec 12) : Word := signExt64 i.toNat 12
/-- k of R168: the sign-extended 32-bit immediate. -/
def imm32 (i : Half) : Word := signExt64 i.toNat 32
/-- The byte distance of a B-format branch (R165). -/
def off20 (o : BitVec 20) : Word := signExt64 o.toNat 20 * 4
/-- The byte distance of `braw` and `callw` (R167). -/
def off32 (o : Half) : Word := signExt64 o.toNat 32 * 4

/-- v of R169 for majors 0x13 and 0x14: base plus n times the signed 8-bit offset. -/
def eaM (base : Word) (n : Nat) (off : BitVec 8) : Word := base + BitVec.ofNat 64 n * signExt64 off.toNat 8
/-- v of R169 for `ldl` and `stl`. -/
def eaL (base : Word) (imm : Half) : Word := base + imm32 imm
/-- `lea` (R168): the low 54 bits move, the bounds index stays. -/
def leaOp (v k : Word) : Word := BitVec.ofNat 64 (2 ^ 54 * fld v.toNat 54 10 + (v + k).toNat % 2 ^ 54)

/-! ## Stream registers (R172) -/

def stAddr (v : BitVec 256) : Nat := fld v.toNat 192 64
def stLen (v : BitVec 256) : Nat := fld v.toNat 160 32
def stSca (v : BitVec 256) : Nat := fld v.toNat 128 32
def stFmt (v : BitVec 256) : Nat := fld v.toNat 112 16
def stCols (v : BitVec 256) : Nat := fld v.toNat 96 16
def stSbw (v : BitVec 256) : Nat := fld v.toNat 80 16
def stRes (v : BitVec 256) : Nat := fld v.toNat 4 76
def stSb (v : BitVec 256) : Nat := fld v.toNat 2 2
def stSpc (v : BitVec 256) : Nat := fld v.toNat 0 2

/-- The value that `sdef` writes (R174). -/
def sdefVal (a b c : Word) (fmt : BitVec 16) (spc sb : BitVec 2) : BitVec 256 :=
  BitVec.ofNat 256 (2 ^ 192 * a.toNat + 2 ^ 160 * (b.toNat % 2 ^ 32) + 2 ^ 128 * fld c.toNat 32 32 + 2 ^ 112 * fmt.toNat
    + 2 ^ 96 * fld c.toNat 0 16 + 2 ^ 80 * fld c.toNat 16 16 + 2 ^ 2 * sb.toNat + spc.toNat)

/-- Ix of R227: the element index of a slot at issue point n. -/
def slotIx (r : Rec) (sl : Slot) (n : Nat) : Int :=
  sgnN sl.off.toNat 12 + (recIx r n 0 : Int) * sgnN sl.st0.toNat 16 + (recIx r n 1 : Int) * sgnN sl.st1.toNat 16
    + (recIx r n 2 : Int) * sgnN sl.st2.toNat 16 + (recIx r n 3 : Int) * sgnN sl.st3.toNat 16

/-! ## Rings and barriers -/

/-- Slot count n (R196). -/
def ringN (d : Word) : Nat := fld d.toNat 32 8 + 1
/-- Slot size 2^z (R196). -/
def ringSz (d : Word) : Nat := 2 ^ (fld d.toNat 24 4 + 6)
def ringBase (d : Word) : Nat := fld d.toNat 0 22
def ringEn (d : Word) : Bool := bitN d.toNat 63
/-- `Slot(k)` of R198. -/
def ringSlot (d : Word) (k : Nat) : Nat := ringBase d + k * ringSz d

/-- Whether a descriptor value keeps the limits of R72 and R196, its reserved bits included. -/
def ringDescOk (d : Word) : Bool :=
  d == 0 || (fld d.toNat 40 23 == 0 && fld d.toNat 28 4 == 0 && fld d.toNat 22 2 == 0 && decide (fld d.toNat 24 4 ≤ 10)
    && ringBase d % ringSz d == 0 && decide (ringBase d + ringN d * ringSz d ≤ 2 ^ 22))

/-- A handle with `v` set and its reserved bits zero (R197): core and descriptor. -/
def handleOf (h : Word) : Option (Nat × Nat) :=
  if bitN h.toNat 15 && fld h.toNat 16 48 == 0 && fld h.toNat 11 4 == 0 then some (fld h.toNat 5 6, fld h.toNat 0 5) else none

/-- What a barrier identifier names (R200). -/
inductive BarId where
  | gang (g : Nat)
  | core (c n : Nat)
  | bad
  deriving DecidableEq, Repr

/-- R200: identifier value v as strand or record of core c names it. -/
def barId (v : Nat) (c : Nat) : BarId :=
  if v < 0x100 then .gang v else if v < 0x110 then .core c (v - 0x100) else .bad

end Sys2Proof.Machine
end

