-- ==== Sys2Proof/Machine/LoadStore.lean ====
section
/-! DEFINITION. Loads and stores of C: global memory, scratchpad, accumulator store and stream images (R59, R169–R171,
R175, R181, R236, R386, R387, R391, R392, R413). -/

namespace Sys2Proof.Machine

/-! ## The range checker against C (R59, R171, R236) -/

/-- Whether some range overlaps an access of n bytes at lo with a write among the two. -/
def rngsMeet (rs : List Rng) (spc lo n : Nat) (wr : Bool) : Bool := rs.any (fun g => g.meets spc lo n wr)

/-- First byte of an overlap, with the space in [63:62] (R413); the lowest over all ranges (log entry 26). -/
def overlapAt (rs : List Rng) (spc lo n : Nat) (wr : Bool) : Option Nat :=
  ((rs.filter (fun g => g.meets spc lo n wr)).map (fun g => max g.lo lo + 2 ^ 62 * spc)).min?
def overlapAddr (rs : List Rng) (spc lo n : Nat) (wr : Bool) : Word := BitVec.ofNat 64 ((overlapAt rs spc lo n wr).getD 0)

/-- The ring slot that a record is filling, once it has bound one (R59, R234). -/
def State.filling (s : State) (r : QRec) : List Rng :=
  match r.slots with
  | u :: _ =>
    let d := (AMap.get Ring.zero (s.core (coreOf s.cur)).rings (fld u.handle.toNat 0 5)).desc
    match u.bound with
    | some k => if u.used && stSpc u.stream == 3 then [⟨1, ringSlot d k, ringSlot d k + ringSz d, true⟩] else []
    | none => []
  | [] => []

/-- Whether an unretired record of the strand conflicts with a C access (R59): on its ranges, or for a read on the ring slot that it is filling. -/
def State.blocks (s : State) (r : QRec) (spc lo n : Nat) (wr : Bool) : Bool :=
  r.live && r.st != .retired && (rngsMeet r.ranges spc lo n wr || (!wr && rngsMeet (s.filling r) spc lo n wr))

/-- Runs a C access under the range checker: it stalls until the conflicting records retire, and joins them; in deterministic mode an overlap
with a record that no C instruction has joined is reported instead (R59, R236, R413). Ring slots, which the ring protocol orders, are no part of that
report (R235). -/
def State.ranged (s : State) (spc lo n : Nat) (wr : Bool) (k : State → State) : State :=
  let wait := fun (p : QRec → Bool) =>
    if s.me.recs.any p then
      (s.upd (fun b => { b with recs := b.recs.map (fun r => if p r then { r with joinAtEnd := true } else r) })).stall
    else k s
  if s.myLaunch.det then
    match s.me.hist.find? (fun h => rngsMeet h.2.2 spc lo n wr) with
    | some h => s.trapC 11 (overlapAddr h.2.2 spc lo n wr) (BitVec.ofNat 64 (2 ^ 32 * h.1 + h.2.1 % 2 ^ 32))
    | none => wait (fun r => s.blocks { r with ranges := [] } spc lo n wr)
  else wait (fun r => s.blocks r spc lo n wr)

/-! ## Scratchpad and accumulator (R69, R71, R391) -/

def State.myCore (s : State) : Core := s.core (coreOf s.cur)

/-- Units (lines of `u` bytes) that n bytes at lo touch. -/
def unitsOf (u lo n : Nat) : List Nat := (List.range ((lo + n - 1) / u - lo / u + 1)).map (· + lo / u)

/-- Whether scratchpad bytes lie in a poisoned line; accumulator bytes in a poisoned tile. -/
def Core.spPoison (c : Core) (lo n : Nat) : Bool := (unitsOf 64 lo n).any (fun l => AMap.get false c.spz l)
def Core.accPoison (c : Core) (lo n : Nat) : Bool := (unitsOf 4096 lo n).any (fun l => AMap.get false c.accz l)

/-- Writes scratchpad bytes; a line written whole loses its poison, one written with poison gains it (R391, R392). -/
def Core.spWrite (c : Core) (lo : Nat) (bs : List Byte) (pz : Bool) : Core :=
  let n := bs.length
  let z := (unitsOf 64 lo n).foldl (fun m l =>
    if pz then AMap.set false m l true else if lo ≤ 64 * l && 64 * l + 64 ≤ lo + n then AMap.erase m l else m) c.spz
  if n = 0 then c else { c with sp := memPut c.sp lo bs, spz := z }

/-- Marks the 64-byte lines that hold a byte of a range as poisoned. -/
def Core.spSpoil (c : Core) (lo n : Nat) : Core :=
  let z := (unitsOf 64 lo n).foldl (fun m l => AMap.set false m l true) c.spz
  { c with spz := z }

/-- Writes accumulator bytes. -/
def Core.accWrite (c : Core) (lo : Nat) (bs : List Byte) (pz : Bool) : Core :=
  let n := bs.length
  let z := (unitsOf 4096 lo n).foldl (fun m l =>
    if pz then AMap.set false m l true else if lo ≤ 4096 * l && 4096 * l + 4096 ≤ lo + n then AMap.erase m l else m) c.accz
  if n = 0 then c else { c with acc := memPut c.acc lo bs, accz := z }

/-! ## Loads (R169, R170) -/

/-- The loaded value: n little-endian bytes, sign- or zero-extended. -/
def loadVal (bs : List Byte) (n : Nat) (sgn : Bool) : Word :=
  if sgn then signExt64 (leNat bs) (8 * n) else BitVec.ofNat 64 (leNat bs)

/-- The writeback of an outstanding load (R386, R392): the register takes the value, a poisoned read is reported. -/
def State.writeback (s : State) (b : Nat) : State :=
  match (s.berth b).outLoad with
  | none => s
  | some o =>
    let s := s.updBerth b (fun B => { B.setG o.d o.val with outLoad := none })
    if o.pz then s.sawPoison b 0 else s

/-- Scratchpad byte a as berth b reads it: where a raw read has landed that no `rpt` has returned, the old byte or the new (R185, log
entry 4). -/
def State.spByte (s : State) (b a : Nat) : Byte :=
  let new := AMap.get 0 (s.core (coreOf b)).sp a
  match (s.berth b).landing.findSome? (fun l => AMap.find l.2 a) with
  | some old => if Config.landingMix s.ev a then new else old
  | none => new
def State.spBytes (s : State) (b a n : Nat) : List Byte := (List.range n).map (fun i => s.spByte b (a + i))

/-- A store of the strand ends what a landed read left open there. -/
def State.overLanding (s : State) (lo n : Nat) : State :=
  s.upd (fun b => { b with landing := b.landing.map (fun l => (l.1, AMap.clearRange l.2 lo n)) })

/-- A load issues: the access and its checks are done, the value is on its way (R386). -/
def State.loadIssued (s : State) (d : GReg) (v : Word) (pz : Bool) (len : Nat) : State :=
  (s.upd (fun b => { b with outLoad := some ⟨d, v, pz⟩ })).done len

/-- Whether an atomic of C of the issuing strand on some of these n bytes has not been performed: a later access of the strand to them waits for it
(R75, R79, R81). -/
def State.atomAt (s : State) (p : Word) (n : Nat) : Bool :=
  s.atoms.any (fun a => a.berth == s.cur && a.byRec.isNone && decide (fld a.ptr.toNat 0 50 < fld p.toNat 0 50 + n)
    && decide (fld p.toNat 0 50 < fld a.ptr.toNat 0 50 + a.w))

/-- A global load of n bytes through pointer p. -/
def State.loadGlobal (s : State) (d : GReg) (p : Word) (n : Nat) (sgn : Bool) (len : Nat) : State :=
  match s.access s.myCtx s.myLaunch.bndb p n .rd with
  | .error f => s.accessFault f
  | .ok pa =>
    if s.atomAt p n then s.stall
    else s.loadIssued d (loadVal (s.loadBytes s.cur pa n) n sgn) (s.poisoned pa n) len

/-- A scratchpad load: aligned, in range, under the range checker (R171). -/
def State.loadScratch (s : State) (d : GReg) (p : Word) (n : Nat) (sgn : Bool) (len : Nat) : State :=
  if p.toNat % n ≠ 0 then s.trapC 3 p (BitVec.ofNat 64 n)
  else if 0x400000 ≤ p.toNat then s.trapC 7 p 0
  else s.ranged 1 p.toNat n false (fun s =>
    s.loadIssued d (loadVal (s.spBytes s.cur p.toNat n) n sgn) (s.myCore.spPoison p.toNat n) len)

/-- A load of majors 0x13: earlier loads of the strand have written back. -/
def loadM (d a : GReg) (sp : Bool) (off : BitVec 8) (n : Nat) (sgn : Bool) (s : State) : Out :=
  let s := s.writeback s.cur
  let p := eaM (s.G a) n off
  .next (if sp then s.loadScratch d p n sgn 4 else s.loadGlobal d p n sgn 4)

/-- A load of 64-bit major 0x09. -/
def loadL (d a : GReg) (imm : Half) (n : Nat) (sgn : Bool) (s : State) : Out :=
  let s := s.writeback s.cur
  .next (s.loadGlobal d (eaL (s.G a) imm) n sgn 8)

/-! ## Stores -/

/-- A global store of n bytes through pointer p. -/
def State.storeGlobal (s : State) (v p : Word) (n : Nat) (len : Nat) : State :=
  match s.access s.myCtx s.myLaunch.bndb p n .wr with
  | .error f => s.accessFault f
  | .ok pa => if s.atomAt p n then s.stall else (s.storeOwn s.cur pa (leBytes v.toNat n)).done len

/-- A scratchpad store: complete when it retires (R74). -/
def State.storeScratch (s : State) (v p : Word) (n : Nat) (len : Nat) : State :=
  if p.toNat % n ≠ 0 then s.trapC 3 p (BitVec.ofNat 64 n)
  else if 0x400000 ≤ p.toNat then s.trapC 7 p 0
  else s.ranged 1 p.toNat n true (fun s =>
    ((s.updCore (coreOf s.cur) (fun c => c.spWrite p.toNat (leBytes v.toNat n) false)).overLanding p.toNat n).done len)

def storeM (d a : GReg) (sp : Bool) (off : BitVec 8) (n : Nat) (s : State) : Out :=
  let s := s.writeback s.cur
  let p := eaM (s.G a) n off
  .next (if sp then s.storeScratch (s.G d) p n 4 else s.storeGlobal (s.G d) p n 4)

def storeL (d a : GReg) (imm : Half) (n : Nat) (s : State) : Out :=
  let s := s.writeback s.cur
  .next (s.storeGlobal (s.G d) (eaL (s.G a) imm) n 8)

/-- `ld.b` (R125, R169, R170). -/
def execLdB (d a : GReg) (sp : Bool) (off : BitVec 8) (s : State) : Out := loadM d a sp off 1 true s

/-- `ld.bn` (R125, R169, R170). -/
def execLdBn (d a : GReg) (sp : Bool) (off : BitVec 8) (s : State) : Out := loadM d a sp off 1 false s

/-- `ld.h` (R125, R169, R170). -/
def execLdH (d a : GReg) (sp : Bool) (off : BitVec 8) (s : State) : Out := loadM d a sp off 2 true s

/-- `ld.hn` (R125, R169, R170). -/
def execLdHn (d a : GReg) (sp : Bool) (off : BitVec 8) (s : State) : Out := loadM d a sp off 2 false s

/-- `ld.w` (R125, R169, R170). -/
def execLdW (d a : GReg) (sp : Bool) (off : BitVec 8) (s : State) : Out := loadM d a sp off 4 true s

/-- `ld.wn` (R125, R169, R170). -/
def execLdWn (d a : GReg) (sp : Bool) (off : BitVec 8) (s : State) : Out := loadM d a sp off 4 false s

/-- `ld.d` (R125, R169, R170). -/
def execLdD (d a : GReg) (sp : Bool) (off : BitVec 8) (s : State) : Out := loadM d a sp off 8 false s

/-- `st.b` (R125, R169, R170). -/
def execStB (d a : GReg) (sp : Bool) (off : BitVec 8) (s : State) : Out := storeM d a sp off 1 s

/-- `st.h` (R125, R169, R170). -/
def execStH (d a : GReg) (sp : Bool) (off : BitVec 8) (s : State) : Out := storeM d a sp off 2 s

/-- `st.w` (R125, R169, R170). -/
def execStW (d a : GReg) (sp : Bool) (off : BitVec 8) (s : State) : Out := storeM d a sp off 4 s

/-- `st.d` (R125, R169, R170). -/
def execStD (d a : GReg) (sp : Bool) (off : BitVec 8) (s : State) : Out := storeM d a sp off 8 s

/-- `ldl.b` (R134, R169). -/
def execLdlB (d a : GReg) (imm : Half) (s : State) : Out := loadL d a imm 1 true s

/-- `ldl.bn` (R134, R169). -/
def execLdlBn (d a : GReg) (imm : Half) (s : State) : Out := loadL d a imm 1 false s

/-- `ldl.h` (R134, R169). -/
def execLdlH (d a : GReg) (imm : Half) (s : State) : Out := loadL d a imm 2 true s

/-- `ldl.hn` (R134, R169). -/
def execLdlHn (d a : GReg) (imm : Half) (s : State) : Out := loadL d a imm 2 false s

/-- `ldl.w` (R134, R169). -/
def execLdlW (d a : GReg) (imm : Half) (s : State) : Out := loadL d a imm 4 true s

/-- `ldl.wn` (R134, R169). -/
def execLdlWn (d a : GReg) (imm : Half) (s : State) : Out := loadL d a imm 4 false s

/-- `ldl.d` (R134, R169). -/
def execLdlD (d a : GReg) (imm : Half) (s : State) : Out := loadL d a imm 8 false s

/-- `stl.b` (R134, R169). -/
def execStlB (d a : GReg) (imm : Half) (s : State) : Out := storeL d a imm 1 s

/-- `stl.h` (R134, R169). -/
def execStlH (d a : GReg) (imm : Half) (s : State) : Out := storeL d a imm 2 s

/-- `stl.w` (R134, R169). -/
def execStlW (d a : GReg) (imm : Half) (s : State) : Out := storeL d a imm 4 s

/-- `stl.d` (R134, R169). -/
def execStlD (d a : GReg) (imm : Half) (s : State) : Out := storeL d a imm 8 s

/-- LOAD_WRITEBACK (R170, R386): the outstanding load of berth `arg.b` returns its value. -/
def execLoadWriteback (s : State) : Out := .next (s.writeback s.arg.b)

/-- Address conditions of `sld` and `sst` (R175, R381), then f under the range checker. -/
def State.streamMem (s : State) (x : Word) (wr : Bool) (f : State → State) : State :=
  if x.toNat % 32 ≠ 0 then s.trapC 3 x 32
  else if 0x400000 ≤ x.toNat then s.trapC 7 x 0
  else s.ranged 1 x.toNat 32 wr f

/-- `sld` (R175). -/
def execSld (d : SReg) (a : GReg) (s : State) : Out :=
  let s := s.writeback s.cur
  let x := s.G a
  .next (s.streamMem x false (fun s =>
    let s' := if s.myCore.spPoison x.toNat 32 then s.sawPoison s.cur 0 else s
    (s'.upd (·.setS d (BitVec.ofNat 256 (leNat (s.spBytes s.cur x.toNat 32))))).done 4))

/-- `sst` (R175). -/
def execSst (d : SReg) (a : GReg) (s : State) : Out :=
  let s := s.writeback s.cur
  let x := s.G a
  .next (s.streamMem x true (fun s =>
    ((s.updCore (coreOf s.cur) (fun c => c.spWrite x.toNat (leBytes (s.me.getS d).toNat 32) false)).overLanding x.toNat 32).done 4))

/-- Address conditions of `accrd` and `accwr` (R181, R381). -/
def State.accMem (s : State) (x : Word) (wr : Bool) (f : State → State) : State :=
  if x.toNat % 8 ≠ 0 then s.trapC 3 x 8
  else if 0x800000 ≤ x.toNat then s.trapC 7 x 0
  else s.ranged 2 x.toNat 8 wr f

/-- `accrd` (R181): bits move unchanged. -/
def execAccrd (d a : GReg) (s : State) : Out :=
  let s := s.writeback s.cur
  let x := s.G a
  .next (s.accMem x false (fun s =>
    let s' := if s.myCore.accPoison x.toNat 8 then s.sawPoison s.cur 0 else s
    (s'.setG d (BitVec.ofNat 64 (memNat s.myCore.acc x.toNat 8))).done 4))

/-- `accwr` (R181). -/
def execAccwr (d a : GReg) (s : State) : Out :=
  let s := s.writeback s.cur
  let x := s.G a
  .next (s.accMem x true (fun s =>
    (s.updCore (coreOf s.cur) (fun c => c.accWrite x.toNat (leBytes (s.G d).toNat 8) false)).done 4))

end Sys2Proof.Machine
end

