-- ==== Sys2Proof/Machine/Sync.lean ====
section
/-! DEFINITION. Publishing, refreshing and fences, token FIFOs and queue waits, rings (R72, R189–R199, R314, R400). -/

namespace Sys2Proof.Machine

/-! ## Releases and the ordered-atomic buffer (R76, R190, R314, R315) -/

/-- A request of C of berth b. -/
def AtomReq.ofC (a : AtomReq) (b : Nat) : Bool := a.berth == b && a.byRec.isNone

/-- Atomics and contributions of C of berth b still on their way. -/
def State.atomsOut (s : State) (b : Nat) : Bool := s.atoms.any (·.ofC b) || s.contribs.any (·.req.ofC b)

/-- Requests of berth b still on their way: atomics, contributions, a `tsub`, a window being closed. -/
def State.busyReq (s : State) (b : Nat) : Bool :=
  s.atomsOut b || s.tsubs.any (fun t => t.berth == b) || s.ctxs.any (fun c => c.2.wins.any (fun w => w.2.closing == some b))

/-- C is past the point at which its unit could still restart: it must finish first (R225, R272, R366). -/
def State.cBusy (s : State) (b : Nat) : Bool :=
  let B := s.berth b
  B.pq.isSome || B.answer.isSome || s.tsubs.any (fun t => t.berth == b && t.held.isSome)

/-- What C of berth b waits for and has had no effect yet is withdrawn, and restarts (R225, R309): a `tsub` that has reserved nothing, an atomic
that has not been performed, with its event number, and an `rwclose` whose merge has not been made. -/
def State.dropWait (s : State) (b : Nat) : State :=
  let mine := fun (a : AtomReq) => a.ofC b && a.reply
  let n := (s.atoms.filter (fun a => mine a && (s.launch a.ctx a.lsl).det)).length
  let s := { s with tsubs := s.tsubs.filter (fun t => t.berth != b || t.held.isSome), atoms := s.atoms.filter (fun a => !(mine a)),
                    contribs := s.contribs.filter (fun c => !(mine c.req)),
                    ctxs := s.ctxs.map (fun c => (c.1, { c.2 with wins := c.2.wins.map (fun w =>
                      (w.1, if w.2.closing = some b then { w.2 with closing := none } else w.2)) })) }
  if n = 0 then s else s.updBerth b (fun B => { B with pixc := B.pixc - n })

/-- Home port of the location of a pointer. -/
def State.portOf (s : State) (ctx : Nat) (p : Word) : Nat :=
  match s.xlate ctx (fld p.toNat 0 50) p .at with
  | .ok l => s.home l.pa
  | .error _ => 0

/-- What an atomic of berth b's strand releases by the `pub`s before it (R77 row 2). -/
def Berth.pubRels (B : Berth) (b : Nat) : List Rel := B.pubs.map (fun p => ⟨p.2, p.1, b, true⟩)

/-- The buffered contributions leave as one batch (R314, R315); each home port that performs a part of it has one event number of the strand's,
in ascending order of port (R307). -/
def State.sendBatch (s : State) (b : Nat) : State :=
  let B := s.berth b
  if B.obuf = [] then s else
  let ports := (List.range 4).filter (fun k => B.obuf.any (fun o => s.portOf B.ctx o.ptr == k))
  let reqs := B.obuf.map (fun o => ({
    berth := b, ctx := B.ctx, stk := stackOf b, fn := o.fn, w := if o.wide then 8 else 4, ptr := o.ptr, y := o.val, cmp := 0, reply := false, pz := o.pz, byRec := o.byRec.map (fun _ => 2), ordB := some B.batch, handle := B.handle,
    pix := B.pixc + ports.findIdx (· == s.portOf B.ctx o.ptr), lsl := B.lsl, tid := o.tid, iss := o.iss, clk := o.clk, rels := B.pubRels b, acq := none, words := 0 } : AtomReq))
  { s.setBerth b { B with obuf := [], batch := B.batch + 1, pixc := B.pixc + (if (s.launchOf b).det then ports.length else 0) } with
    atoms := s.atoms ++ reqs }

/-- Whether a record may make the ordered buffer leave now: in a replay, when the log has a batch as the next event of C (R311). -/
def State.mayFlush (s : State) (b : Nat) : Bool :=
  let B := s.berth b
  if !(s.launchOf b).follows then true else
  match s.logNext B.ctx B.lsl (fun q => q.sameParty ⟨0x15, 0, 0, 0, B.handle.toNat, 0, B.pixc⟩ && decide (4 ≤ q.typ)) with
  | .found _ q => q.typ == 0x15
  | .missing => false
  | _ => true

/-- Whether ordered contributions of berth b have still to be performed. -/
def State.batchOut (s : State) (b : Nat) : Bool := s.atoms.any (fun a => a.berth == b && a.ordB.isSome)

/-- A release at scope sc by C (R76, R190): the ordered buffer is flushed first and its batches are performed (R314), every atomic before it in program
order has its place in T (R82), and the stores are published, which waits for a home that cannot acknowledge (R74). A store that a fence has cut off from
its home faults here (R424 step 5); DESIGN CHOICE (safe; log entry 119): `taddr` is a free value. -/
def State.release (s : State) (sc : Nat) (k : State → State) : State :=
  if s.me.obuf ≠ [] then (s.sendBatch s.cur).waitFor .reply
  else if s.busyReq s.cur || s.batchOut s.cur then s.waitFor .reply
  else if s.storesLost s.cur then (s.dropLost s.cur).trapC 8 (BitVec.ofNat 64 (Config.unstated s.ev 5)) 5
  else if !(s.mayPublish s.cur sc) then s.waitFor (.home sc)
  else k (s.publish s.cur sc)

/-- What a `pub` at scope sc leaves for the atomics after it (R77 row 2). -/
def State.pubMark (s : State) (sc : Nat) : State := s.upd (fun b => { b with pubs := AMap.put b.pubs sc (s.released s.cur) })

/-- The releases that a `ref` at scope sc takes: those of a `pub` that an atomic of the strand has read, both scopes covering both parties (R77). -/
def State.refTakes (s : State) (sc : Nat) : List Rel := s.me.acqs.filter (fun r => covers r.sc r.src s.cur && covers sc r.src s.cur)

/-- `ref` at scope sc (R76, R77), which completes at once (R190): what an atomic still in flight reads it takes when that is performed
(`State.acqPart`). -/
def State.refresh (s : State) (sc : Nat) : State :=
  (s.acquire s.cur ((s.refTakes sc).foldl (fun k r => k.both r.clk) [])).upd (fun b => { b with refs := AMap.put b.refs sc (s.ev + 1) })

/-- `pub` (R189). -/
def execPub (sc : BitVec 2) (s : State) : Out :=
  .next ((s.writeback s.cur).release sc.toNat (fun s => (s.pubMark sc.toNat).done 4))

/-- `ref` (R189). -/
def execRef (sc : BitVec 2) (s : State) : Out := .next (((s.writeback s.cur).refresh sc.toNat).done 4)

/-- `phase` (R189): `pub` then `ref`. -/
def execPhase (sc : BitVec 2) (s : State) : Out :=
  .next ((s.writeback s.cur).release sc.toNat (fun s => ((s.pubMark sc.toNat).refresh sc.toNat).done 4))

/-- `fence.sc` (R82, R189): after every earlier atomic of the strand, a release and an acquire at .sys. It is the side of no pair of R77
(R347). -/
def execFenceSc (s : State) : Out :=
  .next ((s.writeback s.cur).release 3 (fun s => (s.acquire s.cur []).done 4))

/-- What happened before the launches of a context that have completed (R54, R77). -/
def State.pastOf (s : State) (ctx : Nat) : Clock := (s.ctx ctx).past

/-- Whether berth b has a raw packet in flight (R191). -/
def State.rawBusy (s : State) (b : Nat) : Bool := (s.core (coreOf b)).raw.any (fun r => r.2.busy && r.2.berth == b)

/-- `fence.io` (R191, R469): it waits for a host port that does not answer, and for the berth's raw packets. -/
def execFenceIo (s : State) : Out :=
  let s := s.writeback s.cur
  .next (if !(s.hostAnswers s.cur) then s.waitFor .rawio
  else
    let s := s.flushHost s.cur
    if s.rawBusy s.cur then s.waitFor .rawio else s.done 4)

/-- Whether an earlier launch of the queue has not ended (R39, R54). -/
def State.predRuns (s : State) (ctx lsl : Nat) : Bool :=
  ((s.ctx ctx).launches.takeWhile (fun l => !(l.resident && l.seq % 2 == lsl))).any (fun l => l.resident)

/-- `waitpv` (R54). -/
def execWaitpv (s : State) : Out :=
  let s := s.writeback s.cur
  .next (if s.predRuns s.myCtx s.me.lsl then s.waitFor .waitpv else (s.acquire s.cur (s.pastOf s.myCtx)).done 4)

/-- `sms` (R52): the first marks the launch; a later one changes nothing. -/
def execSms (s : State) : Out := .next ((s.updLaunch s.myCtx s.me.lsl (fun l => { l with sms := true })).done 4)

/-! ## Token FIFOs (R192, R193, R195, R236) -/

def Berth.fifo (b : Berth) (f : Nat) : Fifo := b.fifos.getD f Fifo.zero
def Berth.setFifo (b : Berth) (f : Nat) (v : Fifo) : Berth := { b with fifos := b.fifos.set f v }
/-- Tokens held (R192). -/
def Fifo.count (f : Fifo) : Nat := f.done.length
/-- The token that pop number n takes: in deterministic mode the one of push number n (R236), outside it the oldest (log entry 120). -/
def Fifo.take (f : Fifo) (det : Bool) (n : Nat) : Option (Nat × Tok) :=
  if det then f.done.find? (fun p => p.1 == n) else f.done.head?
def Fifo.drop (f : Fifo) (n : Nat) : Fifo := { f with done := f.done.filter (fun p => p.1 != n) }
/-- Numbers a pop in program order: its number, the FIFO after it, and what the paired push orders before it (R236). -/
def Fifo.numberPop (f : Fifo) : Nat × Fifo × List Nat :=
  (f.npop, { f with npop := f.npop + 1, fronts := f.fronts.filter (fun p => p.1 != f.npop) },
    ((f.fronts.find? (fun p => p.1 == f.npop)).map (·.2)).getD [0, 0, 0])
/-- Numbers a push in program order, before which `front` is ordered. -/
def Fifo.numberPush (f : Fifo) (front : List Nat) : Nat × Fifo :=
  (f.npush, { f with npush := f.npush + 1, fronts := if f.npop ≤ f.npush then f.fronts ++ [(f.npush, front)] else f.fronts })

/-- The tokens that a record pops, each with its number in the FIFO; none while one is missing (R231 step 1, R236). -/
def Berth.tokensFor (B : Berth) (det : Bool) (r : QRec) : Option (List (Nat × Nat × Tok)) :=
  let ts := r.pops.map (fun p => ((B.fifo p.1).take det p.2).map (fun t => (p.1, t.1, t.2)))
  if ts.all Option.isSome then some (ts.filterMap id) else none

/-- Whether a record of the strand now pops from FIFO f (R195). -/
def Berth.recordPops (B : Berth) (det : Bool) (f : Nat) : Bool :=
  !B.cut && !B.dbg.stp && [0, 1, 2].any (fun q => match (B.queue q).head? with
    | some r => r.st == .waitTok && !r.toks && r.pops.any (fun p => p.1 == f) && (B.tokensFor det r).isSome
    | none => false)

/-- The token that `tokw` takes, if it takes one now: a record that contends for the last token gets it (R195); in deterministic mode tokens are paired
(R236). -/
def Berth.tokwTakes (B : Berth) (det : Bool) (f : Nat) : Option (Nat × Tok) :=
  let q := B.fifo f
  if !det && q.count == 1 && B.recordPops det f then none else q.take det q.npop

/-- Uses that are illegal inside a handler (R369). -/
def State.notInHandler (s : State) (k : State → State) : State := if s.me.inHandler then s.illegal 0 0 else k s

/-- `tokp` (R193): the release side at .core. -/
def execTokp (f : BitVec 3) (s : State) : Out :=
  .next ((s.writeback s.cur).notInHandler (fun s =>
    if 15 ≤ (s.me.fifo f.toNat).count then s.waitFor (.tokp f.toNat)
    else s.release 0 (fun s => (s.upd (fun b =>
      let (n, q) := (b.fifo f.toNat).numberPush [0, 0, 0]
      b.setFifo f.toNat { q with done := q.done ++ [(n, ⟨[], 0, s.released s.cur⟩)] })).done 4)))

/-- `tokw` (R193): the acquire side at .core; it joins what the token names. DESIGN CHOICE (unsafe; log entry 120): outside deterministic mode it takes the
oldest token, where R193 lets a pop take any one. -/
def execTokw (f : BitVec 3) (s : State) : Out :=
  .next ((s.writeback s.cur).notInHandler (fun s =>
    let q := s.me.fifo f.toNat
    match s.me.tokwTakes s.myLaunch.det f.toNat with
    | none => s.waitFor (.tokw f.toNat)
    | some (n, t) =>
      ((s.upd (fun b => (b.setFifo f.toNat (q.numberPop.2.1.drop n)).joinTok t)).acquire s.cur t.clk).done 4))

/-- The test of `qwait` (R193). -/
def qReached (qsn : Half) (target : Nat) : Bool := decide ((2 ^ 32 + qsn.toNat - target % 2 ^ 32) % 2 ^ 32 < 2 ^ 31)

/-- Joins every record of queue k whose position is below a `qwait` target (R194). -/
def Berth.joinBelow (b : Berth) (k target : Nat) : Berth :=
  let b := { b with hist := b.hist.filter (fun h => !(h.1 == k && !(qReached (BitVec.ofNat 32 h.2.1) target))) }
  (b.recs.filter (fun r => r.q == k && !(qReached (BitVec.ofNat 32 r.idx) target))).foldl (fun b r => b.join r.q r.idx) b

/-- `qwait` (R193, R194). -/
def execQwait (a : GReg) (k : BitVec 2) (s : State) : Out :=
  .next ((s.writeback s.cur).notInHandler (fun s =>
    let t := (s.G a).toNat % 2 ^ 32
    if qReached (s.me.qsn.getD k.toNat 0) t then (s.upd (·.joinBelow k.toNat t)).done 4
    else s.waitFor (.qwait k.toNat t)))

/-- `qseq` (R193). -/
def execQseq (d : GReg) (k : BitVec 2) (s : State) : Out :=
  s.unit4 (fun b => b.setG d (BitVec.ofNat 64 ((b.app.getD k.toNat 0).toNat + 2 ^ 32 * (b.qsn.getD k.toNat 0).toNat)))

/-- `qdrain` (R193, R194). -/
def execQdrain (s : State) : Out :=
  .next ((s.writeback s.cur).notInHandler (fun s =>
    if s.me.drained then (s.upd (fun b => { b.joinAll with hist := [] })).done 4 else s.waitFor .qdrain))

/-! ## Rings (R72, R196–R199) -/

def Core.ring (c : Core) (d : Nat) : Ring := AMap.get Ring.zero c.rings d
def Core.setRing (c : Core) (d : Nat) (r : Ring) : Core := { c with rings := AMap.set Ring.zero c.rings d r }
def Ring.nfull (r : Ring) : Nat := r.full.length
/-- `Used` of R198. -/
def Ring.used (r : Ring) : Nat := r.claimed + r.nfull
def Ring.isFull (r : Ring) (k : Nat) : Bool := AMap.get false r.full k
/-- Claims the `tail` slot for an owner code. -/
def Ring.claim (r : Ring) (owner : Nat) : Nat × Ring :=
  (r.tail, { r with tail := (r.tail + 1) % ringN r.desc, claimed := r.claimed + 1, owner := AMap.set 0 r.owner r.tail owner, grants := r.grants + 1 })
/-- Releases slot k as filled. -/
def Ring.fill (r : Ring) (k : Nat) (t : Tok) : Ring :=
  { r with full := AMap.set false r.full k true, claimed := r.claimed - 1, pay := AMap.put r.pay k t }
/-- Frees the `head` slot, after what K tells. -/
def Ring.pop (r : Ring) (K : Clock) : Ring :=
  { r with full := AMap.erase r.full r.head, head := (r.head + 1) % ringN r.desc, pay := AMap.erase r.pay r.head, freed := AMap.put r.freed r.head K }
/-- What happened before slot k was freed (R77). -/
def Ring.freedBefore (r : Ring) (k : Nat) : Clock := AMap.get [] r.freed k

/-- The issuing core's enabled ring that a handle names (R197, R400). -/
def State.myRing (s : State) (h : Word) : Option (Nat × Ring) :=
  match handleOf h with
  | some (c, d) => if c = coreOf s.cur ∧ ringEn ((s.core c).ring d).desc then some (d, (s.core c).ring d) else none
  | none => none

/-- Runs a ring instruction on the ring its handle names, or traps (R400). -/
def State.onRing (s : State) (q : SReg) (k : Nat → Ring → State) : State :=
  match s.myRing (s.me.getQ q.toNat) with
  | none => s.illegal 0 (s.me.getQ q.toNat)
  | some (d, r) => k d r

def State.setRing (s : State) (c d : Nat) (r : Ring) : State := s.updCore c (·.setRing d r)

/-- Object code of ring d of core c in the log (R308). -/
def State.ringObj (s : State) (c d : Nat) : Nat := d + 32 * s.logCore c

/-- Argument of a RING record (R308). -/
def ringArg (slot owner grant : Nat) : Nat := slot + 2 ^ 8 * owner + 2 ^ 32 * (grant % 2 ^ 32)

/-- Ring named by slot k of a record (R234). -/
def QRec.ringOf (r : QRec) (k : Nat) : Nat := fld (r.slots.getD k ⟨0, 0, false, none⟩).handle.toNat 0 5
/-- Whether slot k is a used ring slot. -/
def QRec.onRing (r : QRec) (k : Nat) : Bool :=
  let u := r.slots.getD k ⟨0, 0, false, none⟩
  r.live && u.used && fld u.stream.toNat 0 2 == 3
/-- The ring slot bound through slot k. -/
def QRec.boundAt (r : QRec) (k : Nat) : Option Nat := (r.slots.getD k ⟨0, 0, false, none⟩).bound

/-- Whether an earlier record of the strand that binds the same ring has not retired (R234). -/
def Berth.ringTaken (B : Berth) (r : QRec) (d : Nat) : Bool :=
  (B.recs.takeWhile (fun e => !(e.q == r.q && e.idx == r.idx))).any (fun e =>
    e.st != .retired && [0, 1, 2, 3].any (fun k => e.onRing k && e.ringOf k == d))

/-- Whether the head record of queue q waits for a slot of ring d as its destination (R234). -/
def Berth.recordAsks (B : Berth) (q d : Nat) : Bool :=
  !B.cut && !B.dbg.stp && match (B.queue q).head? with
    | some r => r.st == .waitTok && r.toks && r.onRing 0 && (r.boundAt 0).isNone && r.ringOf 0 == d && !(B.ringTaken r d) && !(B.rangeHeld r)
    | none => false

/-- Whether C waits in `racq` for a slot of ring d of core c, or has been woken and has not tried again (R199). -/
def Berth.cAsks (B : Berth) (c d : Nat) : Bool := (B.st == .wait || B.st == .run) && B.waiting == .racq c d && !B.dbg.stp && !B.haltF && !B.sw.asked

/-- Place in the order of R199 of C (q = 0) and of queue q − 1 of berth b; deliveries come after them all. -/
def ringPlace (b q : Nat) : Nat := 4 * (b % 2) + q

/-- How many that wait for a slot of ring d of core c come before place n (R199). -/
def State.asksAhead (s : State) (c d n : Nat) : Nat :=
  ([2 * c, 2 * c + 1].flatMap (fun b => [(ringPlace b 0, (s.berth b).cAsks c d), (ringPlace b 1, (s.berth b).recordAsks 0 d),
    (ringPlace b 2, (s.berth b).recordAsks 1 d), (ringPlace b 3, (s.berth b).recordAsks 2 d)])).countP (fun x => decide (x.1 < n) && x.2)

/-- Whether the party at place n may claim a slot of ring d of core c now (R198, R199); a replay takes the order from its log. -/
def State.mayClaim (s : State) (follows : Bool) (c d n : Nat) : Bool :=
  let r := (s.core c).ring d
  decide (r.used + (if follows then 0 else s.asksAhead c d n) < ringN r.desc)

/-- `racq` (R198): the acquire side of the `rpop`–`racq` pair. -/
def execRacq (d : GReg) (q : SReg) (s : State) : Out :=
  let s := s.writeback s.cur
  .next (s.onRing q (fun n r =>
    if !(s.mayClaim s.myLaunch.follows (coreOf s.cur) n (ringPlace s.cur 0)) then s.waitFor (.racq (coreOf s.cur) n)
    else
      let c := coreOf s.cur
      let own := s.cur % 2 * 8
      s.gateC (s.logC s.cur 0x10 (s.ringObj c n) (ringArg r.tail own r.grants)) (fun s =>
        let (k, r) := r.claim own
        (((s.setRing c n r).setG d (BitVec.ofNat 64 (ringSlot r.desc k))).acquire s.cur (r.freedBefore k)).done 4)))

/-- The slot of a ring that starts at scratchpad offset v and is claimed by C of berth b (R198, R400). -/
def Ring.claimedSlot (r : Ring) (v b : Nat) : Option Nat :=
  if v < ringBase r.desc then none else
  let k := (v - ringBase r.desc) / ringSz r.desc
  if (v - ringBase r.desc) % ringSz r.desc = 0 ∧ k < ringN r.desc ∧ !(r.isFull k) ∧ AMap.get 0 r.owner k = b % 2 * 8
      ∧ (k + ringN r.desc - r.head) % ringN r.desc < r.used ∧ 0 < r.claimed then some k else none

/-- `rrel` (R198): a release at .core that fills the slot. -/
def execRrel (q : SReg) (b : GReg) (s : State) : Out :=
  let s := s.writeback s.cur
  .next (s.onRing q (fun n r =>
    match r.claimedSlot (s.G b).toNat s.cur with
    | none => s.illegal 0 (s.G b)
    | some k => s.release 0 (fun s => (s.setRing (coreOf s.cur) n (r.fill k ⟨[], 0, s.released s.cur⟩)).done 4)))

/-- `rwait` (R198): the acquire side of the slot-release pair; the slot is not consumed. The record that filled the slot joins (R57). -/
def execRwait (d : GReg) (q : SReg) (s : State) : Out :=
  let s := s.writeback s.cur
  .next (s.onRing q (fun n r =>
    if r.isFull r.head then
      let t := AMap.get Tok.empty r.pay r.head
      (((s.joinElse (coreOf s.cur) s.cur t).upd (fun b => (b.setG d (BitVec.ofNat 64 (ringSlot r.desc r.head))).joinTok t)).acquire s.cur t.clk).done 4
    else s.waitFor (.rwait (coreOf s.cur) n)))

/-- `rpop` (R198): a release at .core that frees the `head` slot. -/
def execRpop (q : SReg) (s : State) : Out :=
  let s := s.writeback s.cur
  .next (s.onRing q (fun n r =>
    if r.isFull r.head then s.release 0 (fun s => (s.setRing (coreOf s.cur) n (r.pop (s.released s.cur))).done 4)
    else s.illegal 0 (BitVec.ofNat 64 n)))

/-- `rtest` (R198), its outcome logged (R226). A replay that is to read true waits until it can. -/
def execRtest (d : PReg) (q : SReg) (k : BitVec 1) (s : State) : Out :=
  .next (s.onRing q (fun n r =>
    let v := if k = 0 then decide (r.used < ringN r.desc) else r.isFull r.head
    s.testC (s.ringObj (coreOf s.cur) n) 0x17 4 (BitVec.ofNat 64 (b2n v)) (fun a => v || a == 0) (fun w s => (s.setP d (w != 0)).done 4)))

/-- The value of `rstat` (R198). -/
def Ring.stat (r : Ring) : Word := BitVec.ofNat 64 (r.head + 2 ^ 8 * r.tail + 2 ^ 16 * r.claimed + 2 ^ 32 * r.nfull)
/-- Slots in use by the low half of an `rstat` value: where `head` meets `tail`, all or none, which the count of claimed slots tells, and else what the
ring shows (DESIGN CHOICE, unsafe; log entry 121: R308 logs the low half only, and there a full ring and an empty one look alike). -/
def Ring.statUsed (r : Ring) (a : Nat) : Nat :=
  let u := (fld a 8 8 + ringN r.desc - fld a 0 8) % ringN r.desc
  if u ≠ 0 then u else if fld a 16 16 ≠ 0 then ringN r.desc else if r.used = ringN r.desc then ringN r.desc else 0
/-- Whether a replayed `rstat` may read: as many slots have been filled and freed as the log shows. -/
def Ring.statReady (r : Ring) (a : Nat) : Bool := decide (r.claimed ≤ fld a 16 16) && decide (r.used ≤ r.statUsed a)

/-- `rstat` (R198), its outcome logged. A replay waits until as many slots have been filled and freed as the log shows, and writes their counts. -/
def execRstat (d : GReg) (q : SReg) (s : State) : Out :=
  .next (s.onRing q (fun n r =>
    s.testC (s.ringObj (coreOf s.cur) n) 0x17 5 r.stat r.statReady (fun w s =>
      (s.setG d (if w = r.stat then w else BitVec.ofNat 64 (fld w.toNat 0 32 + 2 ^ 32 * (r.statUsed (fld w.toNat 0 32) - fld w.toNat 16 16)))).done 4)))

end Sys2Proof.Machine
end

