-- ==== Sys2Proof/Machine/Barrier.lean ====
section
/-! DEFINITION. Phase barriers, error phases and gangs (R55, R56, R200–R205, R396–R400, R402). -/

namespace Sys2Proof.Machine

/-! ## Where a barrier is (R188, R200) -/

def State.gang (s : State) (ctx g : Nat) : Gang := AMap.get Gang.zero (s.ctx ctx).gangs g
def State.setGang (s : State) (ctx g : Nat) (v : Gang) : State := s.updCtx ctx (fun c => { c with gangs := AMap.set Gang.zero c.gangs g v })
def State.gangExists (s : State) (ctx g : Nat) : Bool := (s.gang ctx g).members != []

def State.bar (s : State) (ctx : Nat) : BarId → Bar
  | .gang g => (s.gang ctx g).bar
  | .core c n => AMap.get Bar.zero (s.core c).bars n
  | .bad => Bar.zero

def State.setBar (s : State) (ctx : Nat) (i : BarId) (v : Bar) : State :=
  match i with
  | .gang g => s.setGang ctx g { s.gang ctx g with bar := v }
  | .core c n => s.updCore c (fun k => { k with bars := AMap.set Bar.zero k.bars n v })
  | .bad => s

/-- Object code of a barrier in the log (R308). -/
def State.barObj (s : State) : BarId → Nat
  | .gang g => g
  | .core c n => 0x100 + n + 2 ^ 12 * s.logCore c
  | .bad => 0

/-- Scope code of a barrier (R200). -/
def BarId.scope : BarId → Nat
  | .core _ _ => 0
  | _ => 2

/-- A berth with a resident strand of the context (R280). -/
def Berth.residentOf (B : Berth) (ctx : Nat) : Bool := B.ctx == ctx && (B.st == .idle || B.st == .run || B.st == .wait)

/-- Every member of the gang is resident (R60, R201). -/
def State.allResident (s : State) (ctx : Nat) : BarId → Bool
  | .gang g => (s.gang ctx g).members.all (fun b => (s.berth b).residentOf ctx)
  | _ => true

/-! ## Completion and arrival (R201, R397, R398) -/

/-- Whether the phase completes. -/
def Bar.ready (v : Bar) : Bool := decide (1 ≤ v.a) && decide (v.e + (v.x : Int) ≤ (v.a : Int))

/-- The barrier after its phase completes. -/
def Bar.complete (v : Bar) : Bar :=
  let v' := { v with phase := (v.phase + 1) % 2 ^ 32, e := v.e - v.d + v.j, a := 0, x := 0, d := 0, j := 0, err := none, clk := [],
                     past := AMap.put v.past v.phase v.clk }
  match v.err with
  | some c => { v' with ev := true, ecode := c, ephase := v.phase }
  | none => v'

/-- Tests for completion, logs it and marks an error phase in `ctx_cki` (R201, R398): once all that reaches the barrier in the cycle has been
applied. The record goes to the log of the launch whose arrival was counted last, where the ARRIVE before it stands (R305, R308). -/
def State.testPhase (s : State) (ctx : Nat) (i : BarId) : Gate :=
  let v := s.bar ctx i
  if !s.cont && v.ready && s.allResident ctx i then
    let w := v.complete
    match s.logGate ctx v.lsl ⟨0x12, s.barObj i, v.phase + 2 ^ 32 * (v.a % 2 ^ 16) + 2 ^ 48 * lowI w.e 16, 6, 0xFFFFFFFF, 0xFF, v.phase⟩ with
    | .go s =>
      let s := s.setBar ctx i w
      let s := match i with
        | .gang g => (s.gang ctx g).members.foldl (fun s b => s.updBerth b (fun B => { B with arrivedPh := none })) s
        | _ => s
      .go (if v.err.isSome then s.cki ctx 3 (v.err.getD 0) 0xFF false else s)
    | x => x
  else .go s

/-- One arrival (R201, R202), after what K tells (R77): A grows, with D for a drop; it carries an error code, or earns one when it takes A
beyond E + X (R397); the phase is then tested. An arrival whose phase must wait for its log record counts all the same. -/
def State.arrive (s : State) (ctx lsl : Nat) (i : BarId) (drop : Bool) (err : Option Nat) (site : Nat) (K : Clock) : Gate :=
  let v := s.bar ctx i
  let extra := if v.e + (v.x : Int) < (v.a : Int) + 1 then some (0xE0 + site) else none
  let e := match err with
    | some c => some c
    | none => extra
  let v := { v with a := v.a + 1, d := v.d + b2n drop, lsl := lsl, clk := v.clk.both K, err := match v.err with
                                                             | some c => some c
                                                             | none => e }
  let s := s.setBar ctx i v
  match s.testPhase ctx i with
  | .hold => .go s
  | x => x

/-- The barriers of a context whose phase is due: its arrivals are in, and it awaits its members (R60) or its log record (R309, R311). -/
def State.dueBars (s : State) (ctx : Nat) : List BarId :=
  ((s.ctx ctx).gangs.filter (fun g => g.2.bar.ready)).map (fun g => BarId.gang g.1)
    ++ (s.cores.filter (fun c => c.2.held == some ctx)).flatMap (fun c =>
      (c.2.bars.filter (fun b => b.2.ready)).map (fun b => BarId.core c.1 b.1))

/-- Completes what is due and can be. -/
def State.settleBars (s : State) (ctx : Nat) : State :=
  (s.dueBars ctx).foldl (fun s i => match s.testPhase ctx i with
    | .go s => s
    | .hold => s
    | .bad s => s) s

/-- Argument of an ARRIVE record (R308). -/
def arriveArg (v : Bar) (drop : Bool) : Nat := v.phase + 2 ^ 32 * (v.a % 2 ^ 16) + 2 ^ 48 * b2n drop

/-- One logged arrival of C of berth b. -/
def State.arriveC (s : State) (b : Nat) (i : BarId) (drop : Bool) : Gate :=
  let B := s.berth b
  match s.logC b 0x11 (s.barObj i) (arriveArg (s.bar B.ctx i) drop) with
  | .go s => s.arrive B.ctx B.lsl i drop none 0 (s.released b)
  | x => x

/-- Runs an arrival once the phase it would follow, if one is due, has completed; arrivals of one cycle count in one phase (R201). -/
def State.afterDue (s : State) (ctx : Nat) (i : BarId) (k : State → Gate) : Gate :=
  if s.joined then k s else
  match s.testPhase ctx i with
  | .go s => k s
  | x => x

/-- Runs k on the barrier that G(a) names, or traps (R200, R381). -/
def State.onBar (s : State) (a : GReg) (k : BarId → State) : State :=
  let v := s.G a
  if fld v.toNat 12 52 ≠ 0 then s.illegal 0 v
  else match barId v.toNat (coreOf s.cur) with
    | .bad => s.illegal 0 v
    | i => k i

/-- A gang barrier takes arrivals of C only from a member that has not arrived in this phase (R400). -/
def State.mayArrive (s : State) (b : Nat) : BarId → Bool
  | .gang g => (s.berth b).gang == some g && (s.berth b).arrivedPh.isNone
  | _ => true

/-- A member stops being one (R56, R202, R205): M falls; a gang without members dissolves. -/
def State.dropMember (s : State) (ctx g b : Nat) : State :=
  let G := s.gang ctx g
  let ms := G.members.filter (· != b)
  let s := s.updBerth b (fun B => { B with gang := none, arrivedPh := none })
  s.setGang ctx g (if ms = [] then Gang.zero else { G with members := ms })

/-- `bara` and `barad` (R202): a release at the barrier's scope, the phase arrived in goes to `gd`. -/
def State.barArrive (s : State) (d a : GReg) (drop : Bool) : State :=
  s.onBar a (fun i => s.gateC (s.afterDue s.myCtx i .go) (fun s =>
    if !(s.mayArrive s.cur i) then s.illegal 0 (s.G a)
    else s.release i.scope (fun s =>
      let ph := (s.bar s.myCtx i).phase
      let s0 := match i with
        | .gang _ => s.upd (fun b => { b with arrivedPh := some ph })
        | _ => s
      s.gateC (s0.arriveC s.cur i drop) (fun s =>
        let s := match i with
          | .gang g => if drop then s.dropMember s.myCtx g s.cur else s
          | _ => s
        (s.setG d (BitVec.ofNat 64 ph)).done 4))))

/-- `bara` (R202). -/
def execBara (d a : GReg) (s : State) : Out := .next ((s.writeback s.cur).barArrive d a false)
/-- `barad` (R202). -/
def execBarad (d a : GReg) (s : State) : Out := .next ((s.writeback s.cur).barArrive d a true)

/-- An observation of phase x of barrier `id` as passed by C joins the records whose arrivals it counted (R57, R236). -/
def Berth.joinBar (b : Berth) (id x : Nat) : Berth :=
  let seen := fun (a : Nat × Nat × Nat × Nat) => a.2.2.1 == id && upTo a.2.2.2 x
  (b.arrs.filter seen).foldl (fun b a => (b.join a.1 a.2.1).settle a.1 a.2.1) { b with arrs := b.arrs.filter (fun a => !(seen a)) }

/-- The same observation for the records of the other strands that reach that barrier: they have joined (R57, R58). -/
def State.joinArrs (s : State) (id x : Nat) : State :=
  (s.berths.filter (fun b => b.1 != s.cur && b.2.ctx == s.myCtx && (decide (id < 0x100) || coreOf b.1 == coreOf s.cur) && b.2.arrs != [])).foldl (fun s b =>
    s.updBerth b.1 (fun B => B.joinAside ((B.arrs.filter (fun a => a.2.2.1 == id && upTo a.2.2.2 x)).map (fun a => (a.1, a.2.1))))) s

/-- What happened before the arrivals of the phases that an observation of x has seen complete (R77). -/
def Bar.pastTo (v : Bar) (x : Nat) : Clock := (v.past.filter (fun p => upTo p.1 x)).foldl (fun k p => k.both p.2) []

/-- Whether a passed observation of x meets the barrier's error state (R399). -/
def Bar.errSeen (v : Bar) (x : Word) : Bool := v.ev && upTo x.toNat v.ephase

/-- Ends an observation of a passed phase: an acquire, and a trap after the unit on an error phase (R202, R399). -/
def State.observed (s : State) (a : GReg) (i : BarId) (x : Word) : State :=
  let v := s.bar s.myCtx i
  let id := (s.G a).toNat
  let w := s.unitWords
  let s := (((s.joinArrs id x.toNat).upd (·.joinBar id x.toNat)).acquire s.cur (v.pastTo x.toNat)).done 4
  if v.errSeen x then
    s.trapAt s.cur 0xC0 false s.me.pc (BitVec.ofNat 64 id) (BitVec.ofNat 64 (v.ecode + 2 ^ 8 * v.ephase)) w 0
  else s

/-- `barw` (R202). -/
def execBarw (a b : GReg) (s : State) : Out :=
  let s := s.writeback s.cur
  .next (s.onBar a (fun i =>
    if passed (s.bar s.myCtx i).phase (s.G b) then s.observed a i (s.G b)
    else s.waitFor (.barw (s.G a).toNat ((s.G b).toNat % 2 ^ 32))))

/-- `bart` (R202), its outcome logged; writing true is the acquire side. -/
def execBart (d : PReg) (a b : GReg) (s : State) : Out :=
  let s := s.writeback s.cur
  .next (s.onBar a (fun i =>
    let t := passed (s.bar s.myCtx i).phase (s.G b)
    s.testC (s.barObj i) 0x18 3 (BitVec.ofNat 64 (b2n t)) (fun a => t || a == 0) (fun w s =>
      if w != 0 then (s.setP d true).observed a i (s.G b) else (s.setP d false).done 4)))

/-- `barq` (R202), its outcome logged. -/
def execBarq (d a : GReg) (s : State) : Out :=
  .next (s.onBar a (fun i =>
    let v := s.bar s.myCtx i
    let w := BitVec.ofInt 64 ((v.phase : Int) + 2 ^ 32 * v.a + 2 ^ 48 * (v.e + v.x))
    s.testC (s.barObj i) 0x18 5 w (fun _ => true) (fun w s => (s.setG d w).done 4)))

/-- Copy entry k of a launch. -/
def Launch.copy (l : Launch) (k : Nat) : CopyEnt := AMap.get CopyEnt.zero l.copies k
def Launch.setCopy (l : Launch) (k : Nat) (v : CopyEnt) : Launch := { l with copies := AMap.set CopyEnt.zero l.copies k v }

/-- `barx` (R203, R381). -/
def execBarx (a b : GReg) (s : State) : Out :=
  .next (s.onBar a (fun i =>
    let y := s.G b
    let m := fld y.toNat 62 2
    let v := s.bar s.myCtx i
    let noGang := match i with
      | .gang g => !(s.gangExists s.myCtx g)
      | _ => false
    let isGang := match i with
      | .gang _ => true
      | _ => false
    let k := fld y.toNat 0 12
    let e := s.myLaunch.copy k
    if noGang || m == 3 then s.illegal 0 y
    else if m = 0 then
      if fld y.toNat 12 50 ≠ 0 ∨ s.myLaunch.ncpy ≤ k ∨ e.done ∨ e.bound.isSome then s.illegal 0 y
      else (((s.setBar s.myCtx i { v with x := v.x + 1 }).updLaunch s.myCtx s.me.lsl (fun l =>
        l.setCopy k { e with bound := some (s.G a).toNat, boundCore := coreOf s.cur })).done 4)
    else if fld y.toNat 16 46 ≠ 0 then s.illegal 0 y
    else if m = 1 then (s.setBar s.myCtx i { v with x := v.x + fld y.toNat 0 16 }).done 4
    else if isGang || v.a != 0 || v.x != 0 then s.illegal 0 y
    else (s.setBar s.myCtx i { v with e := fld y.toNat 0 16 }).done 4))

/-! ## Gangs (R204, R205) -/

/-- GANG record argument (R308). -/
def gangArg (leave deferred : Bool) (phase : Nat) : Nat := b2n leave + b2n deferred * 2 + 2 ^ 32 * phase

/-- `gjoin` (R204, R205). -/
def execGjoin (d a : GReg) (s : State) : Out :=
  let v := s.G a
  .next (if fld v.toNat 8 56 ≠ 0 ∨ s.me.gang.isSome then s.illegal 0 v
  else
    let g := v.toNat
    let G := s.gang s.myCtx g
    let deferred := G.bar.a != 0
    s.gateC (s.logC s.cur 0x13 g (gangArg false deferred G.bar.phase)) (fun s =>
      let bar := if deferred then { G.bar with j := G.bar.j + 1 } else { G.bar with e := G.bar.e + 1 }
      let s := s.setGang s.myCtx g ⟨bar, G.members ++ [s.cur]⟩
      let n := (s.ctx s.myCtx).joins
      let s := s.updCtx s.myCtx (fun c => { c with joins := n + 1 })
      let s := s.upd (fun b => { b with gang := some g, arrivedPh := none, joinNo := n })
      (s.setG d (BitVec.ofNat 64 ((G.bar.phase + b2n deferred) % 2 ^ 32))).done 4))

/-- Leaves the gang (R205): after arriving, the member is dropped from the next phase; else E falls and the phase is tested. -/
def State.leave (s : State) (b g : Nat) : Gate :=
  let B := s.berth b
  let G := s.gang B.ctx g
  let bar := if B.arrivedPh.isSome then { G.bar with d := G.bar.d + 1 } else { G.bar with e := G.bar.e - 1 }
  let s := (s.setGang B.ctx g { G with bar := bar }).dropMember B.ctx g b
  if B.arrivedPh.isSome || (s.gang B.ctx g).members == [] then .go s
  else match s.testPhase B.ctx (.gang g) with
    | .hold => .go s
    | x => x

/-- `gleave` (R204, R205). -/
def execGleave (s : State) : Out :=
  .next (match s.me.gang with
  | none => s.illegal 0 0
  | some g =>
    let g' := match s.logC s.cur 0x13 g (gangArg true false (s.gang s.myCtx g).bar.phase) with
      | .go s => s.leave s.cur g
      | x => x
    s.gateC g' (fun s => s.done 4))

/-- `gsize` (R204), its outcome logged. -/
def execGsize (d a : GReg) (s : State) : Out :=
  let v := s.G a
  .next (if fld v.toNat 8 56 ≠ 0 then s.illegal 0 v
  else
    let m := BitVec.ofNat 64 (s.gang s.myCtx v.toNat).members.length
    s.testC v.toNat 0x19 2 m (fun _ => true) (fun w s => (s.setG d w).done 4))

/-- `grank` (R204), its outcome logged. DESIGN CHOICE (safe; log entry 123): R308 names a gang for a TEST of `grank`; a strand that is in none names
gang 0. -/
def execGrank (d : GReg) (s : State) : Out :=
  .next (match s.me.gang with
  | none => s.testC 0 0x19 3 (BitVec.allOnes 64) (fun _ => true) (fun w s => (s.setG d w).done 4)
  | some g =>
    let r := BitVec.ofNat 64 (((s.gang s.myCtx g).members.takeWhile (· != s.cur)).length)
    s.testC g 0x19 3 r (fun _ => true) (fun w s => (s.setG d w).done 4))

end Sys2Proof.Machine
end

