-- ==== Sys2Proof/Machine/Sysreg.lean ====
section
/-! DEFINITION. System registers (R22–R29, R65, R177, R196, R197, R319, R378), the check-interval register and the log instructions
(R221, R224), segments (R222, R435, R436). -/

namespace Sys2Proof.Machine

/-! ## The topology and service blocks (R22–R29, R319, R421) -/

/-- Fields of equal width, one per stack. -/
def perStack (w : Nat) (f : Nat → Nat) : Nat := (List.range 4).foldl (fun v k => v + 2 ^ (w * k) * (f k % 2 ^ w)) 0

/-- A register of the topology block by its index from 0x100, as things stand. -/
def State.topoNow (s : State) (i : Nat) : Nat :=
  match i with
  | 0 => 1 + 2 ^ 4 * s.shape.pkg + 2 ^ 8 * s.nlive + 2 ^ 12 * (s.live % 16) + 16 * 2 ^ 16 + 2 * 2 ^ 24 + 2 ^ 32 * (s.gen % 256)
  | 1 => perStack 16 s.coreMask
  | 2 => perStack 8 s.capOf
  | 3 => 0x24900
  | 4 => 0x49200
  | 5 => 0x92400
  | 6 => (List.range 12).foldl (fun v k =>
      let st := s.linkState (k / 3) (k % 3)
      v + 2 ^ (4 * k) * ((st * 4 + (if st = 0 then 0 else (s.shape.peer (k / 3) (k % 3)).getD 0)))) 0
  | 7 => s.act + 2 ^ 4 * s.alt + 2 ^ 7 * b2n s.altv
  | 8 => (s.shapeHash s.live).toNat
  | 15 => perStack 16 s.clkOf
  | _ => 0

/-- The registers whose contents change only when the instances agree on a new healthy set or link state (R24). -/
def agreedRegs : List Nat := [1, 2, 6, 15]

/-- A register of the topology block as agreed. -/
def State.topo (s : State) (i : Nat) : Nat := if agreedRegs.contains i then AMap.get 0 s.shown i else s.topoNow i

/-- The agreed registers show the topology as it stands; `gen` is left to the caller. -/
def State.showTopo (s : State) : State := { s with shown := agreedRegs.foldl (fun m i => AMap.set 0 m i (s.topoNow i)) [] }

/-- The instances agree on the topology as it stands; `gen` counts a change (R23). -/
def State.agreeTopo (s : State) : State :=
  let t := s.showTopo
  if agreedRegs.all (fun i => t.topo i == s.topo i) then t else { t with gen := (s.gen + 1) % 256 }

/-- The slice of its home stack that serves a physical address (R26). -/
def State.slice (s : State) (pa : Nat) : Nat :=
  (List.range 3).foldl (fun v i => v + 2 ^ i * b2n (parity64 (pa &&& s.topo (3 + i)))) 0

/-- `topo_ord0`–`topo_ord5` (R29): class, largest payload, credits; every class is in order. -/
def topoOrd (c : Nat) : Nat :=
  let p := [(4, 64), (4, 64), (4, 32), (64, 16), (1, 8), (64, 16)].getD c (0, 0)
  c + 8 + 2 ^ 8 * p.2 + 2 ^ 16 * p.1

/-- Device level (R319). -/
def State.dlv (s : State) : Nat := if s.nlive ≤ 1 then 3 else 4 - s.nlive

/-- `svc_state` (R319). -/
def State.svcState (s : State) : Nat :=
  let tst := (List.range 4).foldl (fun v k => v + 2 ^ k * b2n (k < s.shape.pkg && (s.stack k).tst && s.unfenced k)) 0
  b2n s.drn + 2 ^ 8 * b2n (s.nlive == 1) + 2 ^ 16 * s.dlv + 2 ^ 24 * tst + 2 ^ 28 * (s.shed % 16) + 2 ^ 32 * (s.vnum % 65536)

/-- Index of `svc_state` from 0x100. -/
def svcIndex : Nat := 0x40

/-- What the instance of stack k shows: a stack that a commit has not reached yet still shows the view before (R320). -/
def State.shownAt (s : State) (k i : Nat) : Nat :=
  match AMap.find s.behind k with
  | some m => AMap.get 0 m i
  | none => if i = svcIndex then s.svcState else s.topo i

/-- All that an instance shows of the topology block and `svc_state`. -/
def State.shownAll (s : State) (k : Nat) : AMap Nat :=
  (List.range 16 ++ [svcIndex]).foldl (fun m i => AMap.set 0 m i (s.shownAt k i)) []

/-- `svc_sus` (R421): what is held is the union over the live instances' reports. -/
def State.svcSusVal (s : State) : Nat :=
  let held := (maskList s.live).flatMap (fun k => (s.stack k).sus)
  let field := fun (a : Nat) => (List.range 4).foldl (fun v r => v + 2 ^ r * b2n (held.any (fun x => x.1 == r && x.2.1 == a))) 0
  perStack 4 field + 2 ^ 16 * (fld s.svcSus.toNat 16 16)

/-- Whether some register of the context is parked on a core (R294). -/
def Ctx.pkd (c : Ctx) : Bool := c.savedState.any (fun x => x.2.spill.any (fun e => bitN e.2.toNat 63 && fld e.2.toNat 61 2 != 0))

/-- `ctx_preq` as read (R288). -/
def Ctx.preq (c : Ctx) : Nat := 2 ^ 8 * b2n c.pnd + 2 ^ 9 * b2n c.svd + 2 ^ 10 * b2n c.rsd + 2 ^ 11 * b2n c.pkd

/-- A context register by its index from 0x150. -/
def Ctx.reg (c : Ctx) (i : Nat) : Word :=
  match i with
  | 0 => c.ptroot
  | 1 => c.bhk
  | 2 => c.migf
  | 3 => c.migt
  | 4 => c.raw
  | 5 => c.ckpt
  | 6 => c.save
  | 7 => c.pbnd
  | 8 => BitVec.ofNat 64 c.preq
  | 9 => c.logc0
  | 10 => c.logc1
  | 11 => c.lvls
  | 12 => c.rdn
  | 13 => c.trap
  | 14 => c.flt
  | 15 => c.fltm
  | 16 => c.cki
  | 17 => c.movf
  | 18 => c.morph
  | 19 => c.ldiv
  | _ => c.rcv

/-- Trap register k from 0x010 (R362). -/
def TrapRegs.reg (t : TrapRegs) (k : Nat) : Word :=
  [t.tcause, t.tpc, t.taddr, t.tval, t.tword, t.tprd, t.tscr, t.tact, t.tcql, t.tcqx, t.tcqs, t.tcil, t.tcix, t.tcis, t.tlane].getD k 0

/-- Tags of core c that are not free, and those among them that berth b issued (R177, R184). -/
def State.rpst (s : State) (b : Nat) : Nat :=
  let busy := (s.core (coreOf b)).raw.filter (fun t => t.2.busy)
  busy.length + 2 ^ 8 * (busy.filter (fun t => t.2.berth == b)).length

/-- The value of system register n for berth b; none when no chapter assigns n (R177). -/
def State.readSys (s : State) (b n : Nat) : Option Word :=
  let B := s.berth b
  let c := s.core (coreOf b)
  if n ≤ 6 then some (match n with
    | 0 => BitVec.ofNat 64 (b + 2 ^ 8 * coreOf b + 2 ^ 14 * stackOf b)
    | 1 => BitVec.ofNat 64 B.ctx
    | 2 => s.cyclesNow (stackOf b)
    | 3 => B.preds
    | 4 => B.rngk
    | 5 => B.rngc
    | _ => BitVec.ofNat 64 (s.rpst b))
  else if 0x10 ≤ n ∧ n ≤ 0x1E then some (B.trap.reg (n - 0x10))
  else if 0x109 ≤ n ∧ n ≤ 0x10E then some (BitVec.ofNat 64 (topoOrd (n - 0x109)))
  else if 0x100 ≤ n ∧ n ≤ 0x13F then some (BitVec.ofNat 64 (s.shownAt (stackOf b) (n - 0x100)))
  else if n = 0x140 then some (BitVec.ofNat 64 (s.shownAt (stackOf b) svcIndex))
  else if n = 0x141 then some 0
  else if n = 0x142 then some s.svcTim
  else if n = 0x143 then some (BitVec.ofNat 64 s.svcSusVal)
  else if 0x150 ≤ n ∧ n ≤ 0x164 then some ((s.ctx B.ctx).reg (n - 0x150))
  else if 0x180 ≤ n ∧ n ≤ 0x19F then some (c.ring (n - 0x180)).desc
  else if 0x1A0 ≤ n ∧ n ≤ 0x1AF then some (B.getQ (n - 0x1A0))
  else if n = 0x1B0 then some c.mcb
  else none

/-- Whether a write of v to a register with the given writable bits sets a reserved one. -/
def reserved (v : Word) (lo n : Nat) : Bool := fld v.toNat lo n != 0

/-- A write of v to system register n by berth b: the state after it, or the operand that makes it an illegal use (R177, R196, R243,
R368, R378). DESIGN CHOICE (unsafe; log entry 130): a ring with claimed or full slots refuses the all-zero descriptor too, although R196 says that it
always passes. -/
def State.writeSys (s : State) (b n : Nat) (v : Word) : Except Word State :=
  let setB := fun (f : Berth → Berth) => Except.ok (s.updBerth b f)
  if n = 3 then (if reserved v 8 56 then .error v else setB (·.setPreds v))
  else if n = 4 then setB (fun B => { B with rngk := v })
  else if n = 5 then setB (fun B => { B with rngc := v })
  else if n = 0x11 then setB (fun B => { B with trap := { B.trap with tpc := v } })
  else if n = 0x15 then (if reserved v 8 56 then .error v else setB (fun B => { B with trap := { B.trap with tprd := v } }))
  else if n = 0x16 then setB (fun B => { B with trap := { B.trap with tscr := v } })
  else if n = 0x17 then (if reserved v 2 62 || v == 3 then .error v else setB (fun B => { B with trap := { B.trap with tact := v } }))
  else if 0x180 ≤ n ∧ n ≤ 0x19F then
    let r := (s.core (coreOf b)).ring (n - 0x180)
    if r.claimed ≠ 0 ∨ r.nfull ≠ 0 ∨ !(ringDescOk v) then .error v
    else .ok (s.setRing (coreOf b) (n - 0x180) { Ring.zero with desc := v, grants := r.grants })
  else if 0x1A0 ≤ n ∧ n ≤ 0x1AF then
    (if reserved v 16 48 || reserved v 11 4 then .error v else setB (fun B => B.setQ (n - 0x1A0) v))
  else if n = 0x1B0 then
    (if reserved v 22 42 || reserved v 0 6 then .error v else .ok (s.updCore (coreOf b) (fun c => { c with mcb := v })))
  else if (s.readSys b n).isSome then .ok s
  else .error (BitVec.ofNat 64 n)

/-- `mfs` (R177): an unassigned number is an illegal use. A read of `cycles` moves the stack's count on to what it returns. -/
def execMfs (d : GReg) (n : BitVec 12) (s : State) : Out :=
  let s := s.writeback s.cur
  .next (match s.readSys s.cur n.toNat with
  | none => s.illegal 0 (BitVec.ofNat 64 n.toNat)
  | some v =>
    let s := if n = 2 then s.updStack (stackOf s.cur) (fun k => { k with cycles := v.toNat }) else s
    (s.setG d v).done 4)

/-- `mts` (R177, R378): a read-only register ignores the write. -/
def execMts (n : BitVec 12) (a : GReg) (s : State) : Out :=
  let s := s.writeback s.cur
  .next (match s.writeSys s.cur n.toNat (s.G a) with
  | .error v => s.illegal 0 v
  | .ok s => s.done 4)

/-! ## Checks and the log (R221, R224) -/

/-- `chkerr` (R221): joins every record, waits for the strand's accesses, reads the check-interval register. DEDUCED (unsafe; log entry 135): its ordered
buffer leaves too, for only then have its contributions completed. -/
def execChkerr (d : GReg) (s : State) : Out :=
  .next ((s.writeback s.cur).notInHandler (fun s =>
    if !s.me.drained then s.waitFor .qdrain
    else
      let s := s.upd (·.joinAll)
      if s.me.obuf ≠ [] then (s.sendBatch s.cur).waitFor .reply
      else if s.busyReq s.cur || s.batchOut s.cur then s.waitFor .reply
      else if s.rawBusy s.cur then s.waitFor .rawio
      else (s.setG d (s.ctx s.myCtx).cki).done 4))

/-- `logm` (R224). -/
def execLogm (a : GReg) (s : State) : Out :=
  let s := s.writeback s.cur
  .next (if s.myLaunch.det then s.gateC (s.logC s.cur 0x04 (s.G a).toNat 0) (fun s => s.done 4) else s.done 4)

/-- `logq` (R224). -/
def execLogq (d : GReg) (k : BitVec 1) (s : State) : Out :=
  let l := s.myLaunch
  let v := if k = 0 then (if l.det then l.log.k else 0) else b2n l.det + 2 * b2n l.rpl + 4 * b2n l.log.brk
  s.unit4 (·.setG d (BitVec.ofNat 64 v))

/-! ## Segments (R222, R435, R436) -/

/-- `segb` (R222): the words after it enter the signature. DESIGN CHOICE (unsafe; log entry 131): the model counts no cycles of a segment; the count that a
save writes is 0, and SEGMENT_CYCLE_BOUND says when a bound is passed. -/
def execSegb (s : State) : Out :=
  .next (s.notInHandler (fun s =>
    if s.me.seg.isOpen then s.illegal 0 0
    else
      let a := s.me.pc
      let bound := s.imm32
      (s.done 8).upd (fun b => { b with seg := ⟨true, false, 0xFFFFFFFF, a, 0, 0, 0, bound, 0, b.seg.acc⟩ })))

/-- The signature of the open segment at its `sege` (R222). -/
def Seg.value (g : Seg) : Half := [g.il, g.ix, g.is].foldl crcWord g.crc ^^^ 0xFFFFFFFF

/-- `sege` (R222, R435): waits for and joins the segment's records, closes it and compares. -/
def execSege (s : State) : Out :=
  .next ((s.writeback s.cur).notInHandler (fun s =>
    if !s.me.seg.isOpen then s.illegal 0 0
    else if s.me.recs.any (fun r => r.inSeg && r.st != .retired) then s.waitFor .sege
    else
      let sig := s.imm32
      let v := s.me.seg.value
      let w := s.unitWords
      let s := s.trace s.cur 7 0 0 s.me.unitPc 0 0
      let s := s.upd (fun b =>
        let b := (b.recs.filter (fun r => r.inSeg)).foldl (fun b r => b.join r.q r.idx) b
        { b with seg := { b.seg with isOpen := false, acc := v } })
      let s := s.done 8
      if v = sig then s
      else (s.cki s.myCtx 7 0xD0 s.cur false).trapAt s.cur 0xD0 false s.me.pc (BitVec.ofNat 64 sig.toNat)
        (BitVec.ofNat 64 (2 ^ 62 + v.toNat)) w 0))

/-- SEGMENT_CYCLE_BOUND (R436): the open segment of berth `arg.b` has reached its bound: it is disarmed and C traps at its next unit, after one that
can no longer restart. DEDUCED (safe; log entry 111): C has found the trap, so `asy` is 0, and no word of the unit is fetched, so `tword` is 0. -/
def execSegmentCycleBound (s : State) : Out :=
  let b := s.arg.b
  let B := s.berth b
  .next (if !B.seg.isOpen || B.seg.disarmed || B.seg.bound == 0 || B.pfx.isSome || B.haltF || B.cut || !(B.st == .run || B.st == .wait) || B.dbg.stp || s.cBusy b then s
  else
    let s := ((s.writeback b).dropWait b).updBerth b (fun B => { B with seg := { B.seg with disarmed := true } })
    (s.cki B.ctx 7 0xD0 b false).trapAt b 0xD0 false B.pc B.seg.addr (BitVec.ofNat 64 (2 ^ 63 + B.seg.bound.toNat)) 0 0)

end Sys2Proof.Machine
end

