-- ==== Sys2Proof/Machine/Fabric.lean ====
section
/-! DEFINITION. The fabric message (R417): its header's fields, its CRC, what its receiver finds wrong in it (R419), and a message without
payload. -/

namespace Sys2Proof

open Machine

/-- A whole CRC-32 (R417). -/
def Machine.crc32 (bs : List Byte) : Nat := (bs.foldl (fun c v => crcByte polyE c v.toNat) 0xFFFFFFFF) ^^^ 0xFFFFFFFF

/-- The header, and its fields (R417). -/
def FabMsg.header (m : FabMsg) : Nat := leNat (m.bytes.take 32)
def FabMsg.cls (m : FabMsg) : Nat := fld m.header 0 3
def FabMsg.src (m : FabMsg) : Nat := fld m.header 32 2
def FabMsg.dst (m : FabMsg) : Nat := fld m.header 34 2
def FabMsg.seq (m : FabMsg) : Nat := fld m.header 48 16
def FabMsg.ack (m : FabMsg) : Bool := bitN m.header 73
def FabMsg.rtx (m : FabMsg) : Bool := bitN m.header 74
def FabMsg.len (m : FabMsg) : Nat := fld m.header 80 8

/-- Whether the last four bytes are the CRC of the header and of the payload that the header gives. -/
def FabMsg.crcOk (m : FabMsg) : Bool :=
  let n := 32 + 64 * m.len
  m.bytes.length == n + 4 && crc32 (m.bytes.take n) == leNat (m.bytes.drop n)

/-- Largest payload of a class (R29); the numbers 6 and 7 name no class. -/
def Machine.maxPayload (c : Nat) : Nat := fld (topoOrd c) 16 16

/-- Whether the header is one that stack `src` may send to stack `dst` (R419): reserved bits zero, the stacks as they are, `len` within its class. -/
def FabMsg.fits (m : FabMsg) (src dst : Nat) : Bool :=
  let h := m.header
  fld h 3 29 == 0 && fld h 36 12 == 0 && fld h 64 8 == 0 && fld h 88 8 == 0 && fld h 112 16 == 0
    && m.src == src && m.dst == dst && decide (m.cls < 6) && decide (m.len ≤ maxPayload m.cls)

/-- A message of class `cls` without payload or arguments, made by no strand, as a heartbeat is (R417, R420; log entry 62 for its `kind`). -/
def FabMsg.plain (src dst cls seq : Nat) (rtx : Bool) : FabMsg :=
  let h := leBytes (cls + 2 ^ 32 * src + 2 ^ 34 * dst + 2 ^ 48 * seq + 2 ^ 74 * b2n rtx + 2 ^ 104 * 0xFF) 32
  ⟨h ++ leBytes (crc32 h) 4⟩

end Sys2Proof
end

