-- ==== Sys2Proof/WellFormed.lean ====
section
/-! DEFINITION. Which instruction terms the manual assigns an encoding (R122, R126, R132, R136, R138, R374–R376): the fields
that are wider than the codes they hold. -/

namespace Sys2Proof

/-- A rounding code (R104). -/
def roundOk (r : BitVec 3) : Bool := decide (r.toNat ≤ 5)

/-- A record: an assigned rounding mode, and no trips beyond its nest (R138, R376). -/
def Rec.wf (r : Rec) : Bool :=
  roundOk r.round && (decide (1 ≤ r.nest.toNat) || r.t1 == 0) && (decide (2 ≤ r.nest.toNat) || r.t2 == 0)
    && (decide (3 ≤ r.nest.toNat) || r.t3 == 0)

/-- An ordering code (R132). -/
def orderOk (o : BitVec 3) : Bool := decide (o.toNat ≤ 4)

/-- Every field of the instruction holds an assigned value. -/
def Instr.wf (i : Instr) : Bool :=
  match i with
  | .tokp f => decide (f.toNat < 6)
  | .tokw f => decide (f.toNat < 6)
  | .qwait _ k => decide (k.toNat < 3)
  | .qseq _ k => decide (k.toNat < 3)
  | .tinfo _ k => decide (k.toNat < 5)
  | .atomAdd _ _ _ _ o _ _ => orderOk o
  | .atomSub _ _ _ _ o _ _ => orderOk o
  | .atomAnd _ _ _ _ o _ _ => orderOk o
  | .atomOr _ _ _ _ o _ _ => orderOk o
  | .atomXor _ _ _ _ o _ _ => orderOk o
  | .atomMin _ _ _ _ o _ _ => orderOk o
  | .atomMax _ _ _ _ o _ _ => orderOk o
  | .atomMinn _ _ _ _ o _ _ => orderOk o
  | .atomMaxn _ _ _ _ o _ _ => orderOk o
  | .atomXchg _ _ _ _ o _ _ => orderOk o
  | .atomCas _ _ _ _ o _ _ => orderOk o
  | .atomFaddS _ _ _ o _ _ => orderOk o
  | .atomFaddD _ _ _ o _ _ => orderOk o
  | .atomFmaxS _ _ _ o _ _ => orderOk o
  | .atomFminS _ _ _ o _ _ => orderOk o
  | .lTile r => r.wf
  | .lGth r => r.wf
  | .lMc r => r.wf
  | .lSc r => r.wf
  | .lAcc r => r.wf
  | .lZero r => r.wf
  | .lPf r => r.wf
  | .lCv r => r.wf
  | .mma r => r.wf
  | .mmaSp r => r.wf
  | .accZero r => r.wf
  | .accCopy r => r.wf
  | .vAdd r => r.wf
  | .vSub r => r.wf
  | .vMul r => r.wf
  | .vFma r => r.wf
  | .vMin r => r.wf
  | .vMax r => r.wf
  | .vAbs r => r.wf
  | .vNeg r => r.wf
  | .vSel r => r.wf
  | .vCmp r => r.wf
  | .vCvt r => r.wf
  | .vMov r => r.wf
  | .vBcast r => r.wf
  | .vAnd r => r.wf
  | .vOr r => r.wf
  | .vXor r => r.wf
  | .vShl r => r.wf
  | .vShr r => r.wf
  | .vExp2 r => r.wf
  | .vLog2 r => r.wf
  | .vRcp r => r.wf
  | .vRsqrt r => r.wf
  | .vTanh r => r.wf
  | .vClamp r => r.wf
  | .rSum r => r.wf
  | .rMax r => r.wf
  | .rMin r => r.wf
  | .rAmax r => r.wf
  | .rArgmax r => r.wf
  | .rTopk r => r.wf
  | .xTr r => r.wf
  | .xGth r => r.wf
  | .sdfSmp r => r.wf
  | .sweep r => r.wf
  | .sTile r => r.wf
  | .sQuant r => r.wf
  | .sScat r => r.wf
  | .sRed r => r.wf
  | .sMeet r => r.wf
  | .sCkpt r => r.wf
  | .sRing r => r.wf
  | _ => true

end Sys2Proof
end

