-- ==== Sys2Proof/Decode.lean ====
section
/-! DEFINITION. The decoder (R121–R140, R374–R376), total on any words and rejecting by name, and after it the encoder,
written from the same tables. Words are natural numbers below 2^32 here; fields are cut with `fld`. -/

namespace Sys2Proof

open Sys2Proof.Machine

/-- Why an item is no instruction (R122, R374–R376). -/
inductive DecodeError where
  | major
  | fn
  | field
  | queue
  | operation
  | round
  | trips
  | kind
  | truncated
  deriving DecidableEq, Repr

/-- An encoding that is not assigned: the reason and the offending word k of the item (R359). -/
structure Bad where
  err : DecodeError
  k : Nat
  w : Half
  deriving DecidableEq, Repr

/-- The instruction when every field is assigned. -/
def need (c : Bool) (i : Instr) : Except DecodeError Instr := if c then .ok i else .error .field

/-! ## 32-bit majors, by the fields `fn`, `b`, `a` and `d` of R123 -/

/-- Major 0x00 (R133, R375). -/
def decSystem (fn b a d : Nat) : Except DecodeError Instr :=
  match fn with
  | 0 => need (b = 0 ∧ a = 0 ∧ d = 0) (.nop)
  | 1 => need (b = 0 ∧ a = 0) (.brk (BitVec.ofNat 6 d))
  | 2 => need (b = 0 ∧ a = 0 ∧ d = 0) (.tgt)
  | 3 => need (b = 0 ∧ a = 0) (.sysc (BitVec.ofNat 6 d))
  | 4 => need (b = 0 ∧ a = 0 ∧ d = 0) (.eret)
  | 5 => need (b = 0 ∧ a = 0 ∧ d = 0) (.yield)
  | _ => .error .fn

/-- Major 0x01 (R133, R375). -/
def decInt (fn b a d : Nat) : Except DecodeError Instr :=
  match fn with
  | 0 => .ok (.add (BitVec.ofNat 6 d) (BitVec.ofNat 6 a) (BitVec.ofNat 6 b))
  | 1 => .ok (.sub (BitVec.ofNat 6 d) (BitVec.ofNat 6 a) (BitVec.ofNat 6 b))
  | 2 => .ok (.mul (BitVec.ofNat 6 d) (BitVec.ofNat 6 a) (BitVec.ofNat 6 b))
  | 3 => .ok (.mulh (BitVec.ofNat 6 d) (BitVec.ofNat 6 a) (BitVec.ofNat 6 b))
  | 4 => .ok (.mulhn (BitVec.ofNat 6 d) (BitVec.ofNat 6 a) (BitVec.ofNat 6 b))
  | 5 => .ok (.div (BitVec.ofNat 6 d) (BitVec.ofNat 6 a) (BitVec.ofNat 6 b))
  | 6 => .ok (.divn (BitVec.ofNat 6 d) (BitVec.ofNat 6 a) (BitVec.ofNat 6 b))
  | 7 => .ok (.rem (BitVec.ofNat 6 d) (BitVec.ofNat 6 a) (BitVec.ofNat 6 b))
  | 8 => .ok (.remn (BitVec.ofNat 6 d) (BitVec.ofNat 6 a) (BitVec.ofNat 6 b))
  | 9 => .ok (.and (BitVec.ofNat 6 d) (BitVec.ofNat 6 a) (BitVec.ofNat 6 b))
  | 10 => .ok (.or (BitVec.ofNat 6 d) (BitVec.ofNat 6 a) (BitVec.ofNat 6 b))
  | 11 => .ok (.xor (BitVec.ofNat 6 d) (BitVec.ofNat 6 a) (BitVec.ofNat 6 b))
  | 12 => .ok (.andn (BitVec.ofNat 6 d) (BitVec.ofNat 6 a) (BitVec.ofNat 6 b))
  | 13 => .ok (.orn (BitVec.ofNat 6 d) (BitVec.ofNat 6 a) (BitVec.ofNat 6 b))
  | 14 => .ok (.shl (BitVec.ofNat 6 d) (BitVec.ofNat 6 a) (BitVec.ofNat 6 b))
  | 15 => .ok (.shr (BitVec.ofNat 6 d) (BitVec.ofNat 6 a) (BitVec.ofNat 6 b))
  | 16 => .ok (.sra (BitVec.ofNat 6 d) (BitVec.ofNat 6 a) (BitVec.ofNat 6 b))
  | 17 => .ok (.rol (BitVec.ofNat 6 d) (BitVec.ofNat 6 a) (BitVec.ofNat 6 b))
  | 18 => .ok (.min (BitVec.ofNat 6 d) (BitVec.ofNat 6 a) (BitVec.ofNat 6 b))
  | 19 => .ok (.max (BitVec.ofNat 6 d) (BitVec.ofNat 6 a) (BitVec.ofNat 6 b))
  | 20 => .ok (.minn (BitVec.ofNat 6 d) (BitVec.ofNat 6 a) (BitVec.ofNat 6 b))
  | 21 => .ok (.maxn (BitVec.ofNat 6 d) (BitVec.ofNat 6 a) (BitVec.ofNat 6 b))
  | 22 => need (b = 0) (.clz (BitVec.ofNat 6 d) (BitVec.ofNat 6 a))
  | 23 => need (b = 0) (.ctz (BitVec.ofNat 6 d) (BitVec.ofNat 6 a))
  | 24 => need (b = 0) (.pop (BitVec.ofNat 6 d) (BitVec.ofNat 6 a))
  | 25 => need (b = 0) (.bswap (BitVec.ofNat 6 d) (BitVec.ofNat 6 a))
  | 26 => .ok (.adds (BitVec.ofNat 6 d) (BitVec.ofNat 6 a) (BitVec.ofNat 6 b))
  | 27 => .ok (.subs (BitVec.ofNat 6 d) (BitVec.ofNat 6 a) (BitVec.ofNat 6 b))
  | _ => .error .fn

/-- Major 0x07 (R133, R375). -/
def decCmp (fn b a d : Nat) : Except DecodeError Instr :=
  match fn with
  | 0 => need (d < 8) (.cmpEq (BitVec.ofNat 3 d) (BitVec.ofNat 6 a) (BitVec.ofNat 6 b))
  | 1 => need (d < 8) (.cmpNe (BitVec.ofNat 3 d) (BitVec.ofNat 6 a) (BitVec.ofNat 6 b))
  | 2 => need (d < 8) (.cmpLt (BitVec.ofNat 3 d) (BitVec.ofNat 6 a) (BitVec.ofNat 6 b))
  | 3 => need (d < 8) (.cmpLe (BitVec.ofNat 3 d) (BitVec.ofNat 6 a) (BitVec.ofNat 6 b))
  | 4 => need (d < 8) (.cmpLtn (BitVec.ofNat 3 d) (BitVec.ofNat 6 a) (BitVec.ofNat 6 b))
  | 5 => need (d < 8) (.cmpLen (BitVec.ofNat 3 d) (BitVec.ofNat 6 a) (BitVec.ofNat 6 b))
  | _ => .error .fn

/-- Major 0x09 (R133, R375). -/
def decPred (fn b a d : Nat) : Except DecodeError Instr :=
  match fn with
  | 0 => need (b < 8 ∧ a < 8 ∧ d < 8) (.pand (BitVec.ofNat 3 d) (BitVec.ofNat 3 a) (BitVec.ofNat 3 b))
  | 1 => need (b < 8 ∧ a < 8 ∧ d < 8) (.por (BitVec.ofNat 3 d) (BitVec.ofNat 3 a) (BitVec.ofNat 3 b))
  | 2 => need (b < 8 ∧ a < 8 ∧ d < 8) (.pxor (BitVec.ofNat 3 d) (BitVec.ofNat 3 a) (BitVec.ofNat 3 b))
  | 3 => need (b < 8 ∧ a < 8 ∧ d < 8) (.pandn (BitVec.ofNat 3 d) (BitVec.ofNat 3 a) (BitVec.ofNat 3 b))
  | _ => .error .fn

/-- Major 0x0B (R133, R375). -/
def decFloatD (fn b a d : Nat) : Except DecodeError Instr :=
  match fn with
  | 0 => .ok (.faddD (BitVec.ofNat 6 d) (BitVec.ofNat 6 a) (BitVec.ofNat 6 b))
  | 1 => .ok (.fsubD (BitVec.ofNat 6 d) (BitVec.ofNat 6 a) (BitVec.ofNat 6 b))
  | 2 => .ok (.fmulD (BitVec.ofNat 6 d) (BitVec.ofNat 6 a) (BitVec.ofNat 6 b))
  | 3 => .ok (.fdivD (BitVec.ofNat 6 d) (BitVec.ofNat 6 a) (BitVec.ofNat 6 b))
  | 4 => need (b = 0) (.fsqrtD (BitVec.ofNat 6 d) (BitVec.ofNat 6 a))
  | 5 => .ok (.fminD (BitVec.ofNat 6 d) (BitVec.ofNat 6 a) (BitVec.ofNat 6 b))
  | 6 => .ok (.fmaxD (BitVec.ofNat 6 d) (BitVec.ofNat 6 a) (BitVec.ofNat 6 b))
  | 7 => .ok (.fmacD (BitVec.ofNat 6 d) (BitVec.ofNat 6 a) (BitVec.ofNat 6 b))
  | 8 => need (b = 0) (.fabsD (BitVec.ofNat 6 d) (BitVec.ofNat 6 a))
  | 9 => need (b = 0) (.fnegD (BitVec.ofNat 6 d) (BitVec.ofNat 6 a))
  | _ => .error .fn

/-- Major 0x0C (R133, R375). -/
def decFloatS (fn b a d : Nat) : Except DecodeError Instr :=
  match fn with
  | 0 => .ok (.faddS (BitVec.ofNat 6 d) (BitVec.ofNat 6 a) (BitVec.ofNat 6 b))
  | 1 => .ok (.fsubS (BitVec.ofNat 6 d) (BitVec.ofNat 6 a) (BitVec.ofNat 6 b))
  | 2 => .ok (.fmulS (BitVec.ofNat 6 d) (BitVec.ofNat 6 a) (BitVec.ofNat 6 b))
  | 3 => .ok (.fdivS (BitVec.ofNat 6 d) (BitVec.ofNat 6 a) (BitVec.ofNat 6 b))
  | 4 => need (b = 0) (.fsqrtS (BitVec.ofNat 6 d) (BitVec.ofNat 6 a))
  | 5 => .ok (.fminS (BitVec.ofNat 6 d) (BitVec.ofNat 6 a) (BitVec.ofNat 6 b))
  | 6 => .ok (.fmaxS (BitVec.ofNat 6 d) (BitVec.ofNat 6 a) (BitVec.ofNat 6 b))
  | 7 => .ok (.fmacS (BitVec.ofNat 6 d) (BitVec.ofNat 6 a) (BitVec.ofNat 6 b))
  | 8 => need (b = 0) (.fabsS (BitVec.ofNat 6 d) (BitVec.ofNat 6 a))
  | 9 => need (b = 0) (.fnegS (BitVec.ofNat 6 d) (BitVec.ofNat 6 a))
  | _ => .error .fn

/-- Major 0x0D (R133, R375). -/
def decFcmp (fn b a d : Nat) : Except DecodeError Instr :=
  match fn with
  | 0 => need (d < 8) (.fcmpEqS (BitVec.ofNat 3 d) (BitVec.ofNat 6 a) (BitVec.ofNat 6 b))
  | 1 => need (d < 8) (.fcmpLtS (BitVec.ofNat 3 d) (BitVec.ofNat 6 a) (BitVec.ofNat 6 b))
  | 2 => need (d < 8) (.fcmpLeS (BitVec.ofNat 3 d) (BitVec.ofNat 6 a) (BitVec.ofNat 6 b))
  | 3 => need (d < 8) (.fcmpUnS (BitVec.ofNat 3 d) (BitVec.ofNat 6 a) (BitVec.ofNat 6 b))
  | 4 => need (d < 8) (.fcmpEqD (BitVec.ofNat 3 d) (BitVec.ofNat 6 a) (BitVec.ofNat 6 b))
  | 5 => need (d < 8) (.fcmpLtD (BitVec.ofNat 3 d) (BitVec.ofNat 6 a) (BitVec.ofNat 6 b))
  | 6 => need (d < 8) (.fcmpLeD (BitVec.ofNat 3 d) (BitVec.ofNat 6 a) (BitVec.ofNat 6 b))
  | 7 => need (d < 8) (.fcmpUnD (BitVec.ofNat 3 d) (BitVec.ofNat 6 a) (BitVec.ofNat 6 b))
  | _ => .error .fn

/-- Major 0x0E (R133, R375). -/
def decCvt (fn b a d : Nat) : Except DecodeError Instr :=
  match fn with
  | 0 => need (b = 0) (.cvtDI (BitVec.ofNat 6 d) (BitVec.ofNat 6 a))
  | 1 => need (b = 0) (.cvtDN (BitVec.ofNat 6 d) (BitVec.ofNat 6 a))
  | 2 => need (b = 0) (.cvtID (BitVec.ofNat 6 d) (BitVec.ofNat 6 a))
  | 3 => need (b = 0) (.cvtND (BitVec.ofNat 6 d) (BitVec.ofNat 6 a))
  | 4 => need (b = 0) (.cvtSD (BitVec.ofNat 6 d) (BitVec.ofNat 6 a))
  | 5 => need (b = 0) (.cvtDS (BitVec.ofNat 6 d) (BitVec.ofNat 6 a))
  | 6 => need (b = 0) (.cvtSI (BitVec.ofNat 6 d) (BitVec.ofNat 6 a))
  | 7 => need (b = 0) (.cvtIS (BitVec.ofNat 6 d) (BitVec.ofNat 6 a))
  | 8 => need (b = 0) (.cvtHS (BitVec.ofNat 6 d) (BitVec.ofNat 6 a))
  | 9 => need (b = 0) (.cvtSH (BitVec.ofNat 6 d) (BitVec.ofNat 6 a))
  | 10 => need (b = 0) (.cvtBfS (BitVec.ofNat 6 d) (BitVec.ofNat 6 a))
  | 11 => need (b = 0) (.cvtSBf (BitVec.ofNat 6 d) (BitVec.ofNat 6 a))
  | _ => .error .fn

/-- Major 0x12 (R133, R375). -/
def decJump (fn b a d : Nat) : Except DecodeError Instr :=
  match fn with
  | 0 => need (b = 0 ∧ d = 0) (.jr (BitVec.ofNat 6 a))
  | 1 => need (b = 0 ∧ d = 0) (.callr (BitVec.ofNat 6 a))
  | 2 => need (b = 0 ∧ a = 0 ∧ d = 0) (.ret)
  | _ => .error .fn

/-- Major 0x15 (R133, R375). -/
def decFence (fn b a d : Nat) : Except DecodeError Instr :=
  match fn with
  | 0 => need (b < 4 ∧ a = 0 ∧ d = 0) (.pub (BitVec.ofNat 2 b))
  | 1 => need (b < 4 ∧ a = 0 ∧ d = 0) (.ref (BitVec.ofNat 2 b))
  | 2 => need (b < 4 ∧ a = 0 ∧ d = 0) (.phase (BitVec.ofNat 2 b))
  | 3 => need (b = 0 ∧ a = 0 ∧ d = 0) (.fenceSc)
  | 4 => need (b = 0 ∧ a = 0 ∧ d = 0) (.fenceIo)
  | 5 => need (b = 0 ∧ a = 0 ∧ d = 0) (.waitpv)
  | 6 => need (b = 0 ∧ a = 0 ∧ d = 0) (.sms)
  | _ => .error .fn

/-- Major 0x16 (R133, R375). -/
def decToken (fn b a d : Nat) : Except DecodeError Instr :=
  match fn with
  | 0 => need (b < 6 ∧ a = 0 ∧ d = 0) (.tokp (BitVec.ofNat 3 b))
  | 1 => need (b < 6 ∧ a = 0 ∧ d = 0) (.tokw (BitVec.ofNat 3 b))
  | 2 => need (b < 3 ∧ d = 0) (.qwait (BitVec.ofNat 6 a) (BitVec.ofNat 2 b))
  | 3 => need (b < 3 ∧ a = 0) (.qseq (BitVec.ofNat 6 d) (BitVec.ofNat 2 b))
  | 4 => need (b = 0 ∧ a = 0 ∧ d = 0) (.qdrain)
  | _ => .error .fn

/-- Major 0x17 (R133, R375). -/
def decRing (fn b a d : Nat) : Except DecodeError Instr :=
  match fn with
  | 0 => need (b = 0 ∧ a < 16) (.racq (BitVec.ofNat 6 d) (BitVec.ofNat 4 a))
  | 1 => need (a < 16 ∧ d = 0) (.rrel (BitVec.ofNat 4 a) (BitVec.ofNat 6 b))
  | 2 => need (b = 0 ∧ a < 16) (.rwait (BitVec.ofNat 6 d) (BitVec.ofNat 4 a))
  | 3 => need (b = 0 ∧ a < 16 ∧ d = 0) (.rpop (BitVec.ofNat 4 a))
  | 4 => need (b < 2 ∧ a < 16 ∧ d < 8) (.rtest (BitVec.ofNat 3 d) (BitVec.ofNat 4 a) (BitVec.ofNat 1 b))
  | 5 => need (b = 0 ∧ a < 16) (.rstat (BitVec.ofNat 6 d) (BitVec.ofNat 4 a))
  | _ => .error .fn

/-- Major 0x18 (R133, R375). -/
def decBar (fn b a d : Nat) : Except DecodeError Instr :=
  match fn with
  | 0 => need (b = 0) (.bara (BitVec.ofNat 6 d) (BitVec.ofNat 6 a))
  | 1 => need (b = 0) (.barad (BitVec.ofNat 6 d) (BitVec.ofNat 6 a))
  | 2 => need (d = 0) (.barw (BitVec.ofNat 6 a) (BitVec.ofNat 6 b))
  | 3 => need (d < 8) (.bart (BitVec.ofNat 3 d) (BitVec.ofNat 6 a) (BitVec.ofNat 6 b))
  | 4 => need (d = 0) (.barx (BitVec.ofNat 6 a) (BitVec.ofNat 6 b))
  | 5 => need (b = 0) (.barq (BitVec.ofNat 6 d) (BitVec.ofNat 6 a))
  | _ => .error .fn

/-- Major 0x19 (R133, R375). -/
def decGang (fn b a d : Nat) : Except DecodeError Instr :=
  match fn with
  | 0 => need (b = 0) (.gjoin (BitVec.ofNat 6 d) (BitVec.ofNat 6 a))
  | 1 => need (b = 0 ∧ a = 0 ∧ d = 0) (.gleave)
  | 2 => need (b = 0) (.gsize (BitVec.ofNat 6 d) (BitVec.ofNat 6 a))
  | 3 => need (b = 0 ∧ a = 0) (.grank (BitVec.ofNat 6 d))
  | _ => .error .fn

/-- Major 0x1A (R133, R375). -/
def decTag (fn b a d : Nat) : Except DecodeError Instr :=
  match fn with
  | 0 => .ok (.tagal (BitVec.ofNat 6 d) (BitVec.ofNat 6 a) (BitVec.ofNat 6 b))
  | 1 => need (b = 0 ∧ d = 0) (.tagfr (BitVec.ofNat 6 a))
  | 2 => need (b = 0) (.tagq (BitVec.ofNat 6 d) (BitVec.ofNat 6 a))
  | _ => .error .fn

/-- Major 0x1B (R133, R375). -/
def decTask (fn b a d : Nat) : Except DecodeError Instr :=
  match fn with
  | 0 => .ok (.tsub (BitVec.ofNat 6 d) (BitVec.ofNat 6 a) (BitVec.ofNat 6 b))
  | 1 => need (b = 0 ∧ a = 0 ∧ d = 0) (.tdone)
  | 2 => need (b = 0 ∧ d = 0) (.tdep (BitVec.ofNat 6 a))
  | 3 => need (b = 0 ∧ a = 0 ∧ d = 0) (.tstage)
  | 4 => need (b < 5 ∧ a = 0) (.tinfo (BitVec.ofNat 6 d) (BitVec.ofNat 3 b))
  | _ => .error .fn

/-- Major 0x1C (R133, R375). -/
def decPq (fn b a d : Nat) : Except DecodeError Instr :=
  match fn with
  | 0 => .ok (.pqins (BitVec.ofNat 6 d) (BitVec.ofNat 6 a) (BitVec.ofNat 6 b))
  | 1 => need (a < 64) (.pqpop (BitVec.ofNat 6 d) (BitVec.ofNat 3 (a % 8)) (BitVec.ofNat 3 (a / 8)) (BitVec.ofNat 6 b))
  | 2 => need (a < 64) (.pqpeek (BitVec.ofNat 6 d) (BitVec.ofNat 3 (a % 8)) (BitVec.ofNat 3 (a / 8)) (BitVec.ofNat 6 b))
  | 3 => need (d = 0) (.pqinv (BitVec.ofNat 6 a) (BitVec.ofNat 6 b))
  | 4 => need (a = 0 ∧ d = 0) (.pqclr (BitVec.ofNat 6 b))
  | 5 => need (a = 0) (.pqcnt (BitVec.ofNat 6 d) (BitVec.ofNat 6 b))
  | _ => .error .fn

/-- Major 0x1F (R133, R375). -/
def decRnd (fn b a d : Nat) : Except DecodeError Instr :=
  match fn with
  | 0 => need (b = 0 ∧ a = 0) (.rnd (BitVec.ofNat 6 d))
  | 1 => need (d = 0) (.rndk (BitVec.ofNat 6 a) (BitVec.ofNat 6 b))
  | _ => .error .fn

/-- Major 0x20 (R133, R375). -/
def decCheck (fn b a d : Nat) : Except DecodeError Instr :=
  match fn with
  | 0 => need (b = 0 ∧ a = 0) (.chkerr (BitVec.ofNat 6 d))
  | 1 => need (b = 0 ∧ a = 0) (.sigr (BitVec.ofNat 6 d))
  | _ => .error .fn

/-- Major 0x21 (R133, R375). -/
def decLog (fn b a d : Nat) : Except DecodeError Instr :=
  match fn with
  | 0 => need (b = 0 ∧ d = 0) (.logm (BitVec.ofNat 6 a))
  | 1 => need (b < 2 ∧ a = 0) (.logq (BitVec.ofNat 6 d) (BitVec.ofNat 1 b))
  | _ => .error .fn

/-- Major 0x22 (R133, R375). -/
def decAcc (fn b a d : Nat) : Except DecodeError Instr :=
  match fn with
  | 0 => need (b = 0) (.accrd (BitVec.ofNat 6 d) (BitVec.ofNat 6 a))
  | 1 => need (b = 0) (.accwr (BitVec.ofNat 6 d) (BitVec.ofNat 6 a))
  | _ => .error .fn

/-- Major 0x23 (R133, R375). -/
def decRaw (fn b a d : Nat) : Except DecodeError Instr :=
  match fn with
  | 0 => .ok (.rpw (BitVec.ofNat 6 d) (BitVec.ofNat 6 a) (BitVec.ofNat 6 b))
  | 1 => .ok (.rpr (BitVec.ofNat 6 d) (BitVec.ofNat 6 a) (BitVec.ofNat 6 b))
  | 2 => need (b = 0) (.rpt (BitVec.ofNat 6 d) (BitVec.ofNat 6 a))
  | _ => .error .fn

/-- Major 0x24 (R133, R375). -/
def decStream (fn b a d : Nat) : Except DecodeError Instr :=
  match fn with
  | 0 => need (b = 0 ∧ a < 16 ∧ d < 16) (.smov (BitVec.ofNat 4 d) (BitVec.ofNat 4 a))
  | 1 => need (b = 0 ∧ d < 16) (.sld (BitVec.ofNat 4 d) (BitVec.ofNat 6 a))
  | 2 => need (b = 0 ∧ d < 16) (.sst (BitVec.ofNat 4 d) (BitVec.ofNat 6 a))
  | _ => .error .fn

/-- Major 0x25 (R133, R375). -/
def decWin (fn b a d : Nat) : Except DecodeError Instr :=
  match fn with
  | 0 => .ok (.rwopen (BitVec.ofNat 6 d) (BitVec.ofNat 6 a) (BitVec.ofNat 6 b))
  | 1 => need (b = 0 ∧ d = 0) (.rwclose (BitVec.ofNat 6 a))
  | _ => .error .fn

/-- Majors 0x02–0x06 and 0x08: `imm12` is `fn` over `b`. -/
def decImm (maj fn b a d : Nat) : Except DecodeError Instr :=
  let imm := BitVec.ofNat 12 (64 * fn + b)
  let gd := BitVec.ofNat 6 d
  let ga := BitVec.ofNat 6 a
  match maj with
  | 2 => .ok (.addi gd ga imm)
  | 3 => .ok (.andi gd ga imm)
  | 4 => .ok (.ori gd ga imm)
  | 5 => .ok (.xori gd ga imm)
  | 8 => .ok (.cmpi (BitVec.ofNat 3 (d / 8)) (BitVec.ofNat 3 (d % 8)) ga imm)
  | _ => match fn with
    | 0 => .ok (.shli gd ga (BitVec.ofNat 6 b))
    | 1 => .ok (.shri gd ga (BitVec.ofNat 6 b))
    | 2 => .ok (.srai gd ga (BitVec.ofNat 6 b))
    | 3 => .ok (.roli gd ga (BitVec.ofNat 6 b))
    | _ => .error .field

/-- Major 0x0A (R160). -/
def decSel (fn b a d : Nat) : Except DecodeError Instr :=
  need (fn < 16) (.sel (BitVec.ofNat 6 d) (BitVec.ofNat 6 a) (BitVec.ofNat 6 b) (BitVec.ofNat 3 (fn % 8)) (fn / 8 == 1))

/-- Majors 0x0F–0x11: `off20` over `neg` and `p`. -/
def decBranch (maj fn b a d : Nat) : Except DecodeError Instr :=
  let off := BitVec.ofNat 20 (16384 * fn + 256 * b + 4 * a + d / 16)
  match maj with
  | 15 => need (d % 16 = 0) (.bra off)
  | 16 => .ok (.bp (BitVec.ofNat 3 (d % 8)) (d / 8 % 2 == 1) off)
  | _ => need (d % 16 = 0) (.call off)

/-- Major 0x13 by `sz` (R125). -/
def decLoad (sz : Nat) (d a : GReg) (sp : Bool) (off : BitVec 8) : Except DecodeError Instr :=
  match sz with
  | 0 => .ok (.ldB d a sp off)
  | 1 => .ok (.ldBn d a sp off)
  | 2 => .ok (.ldH d a sp off)
  | 3 => .ok (.ldHn d a sp off)
  | 4 => .ok (.ldW d a sp off)
  | 5 => .ok (.ldWn d a sp off)
  | 6 => .ok (.ldD d a sp off)
  | _ => .error .fn

/-- Major 0x14 by `sz` (R125). -/
def decStore (sz : Nat) (d a : GReg) (sp : Bool) (off : BitVec 8) : Except DecodeError Instr :=
  match sz with
  | 0 => .ok (.stB d a sp off)
  | 1 => .ok (.stH d a sp off)
  | 2 => .ok (.stW d a sp off)
  | 3 => .ok (.stD d a sp off)
  | _ => .error .fn

/-- M format: `off8` over `sp` and `sz`. -/
def decMem (maj fn b a d : Nat) : Except DecodeError Instr :=
  (if maj = 19 then decLoad else decStore) (b % 8) (BitVec.ofNat 6 d) (BitVec.ofNat 6 a) (b / 8 % 2 == 1)
    (BitVec.ofNat 8 (4 * fn + b / 16))

/-- Majors 0x1D and 0x1E: `imm12` is the system register number. -/
def decSys (maj fn b a d : Nat) : Except DecodeError Instr :=
  if maj = 29 then need (a = 0) (.mfs (BitVec.ofNat 6 d) (BitVec.ofNat 12 (64 * fn + b)))
  else need (d = 0) (.mts (BitVec.ofNat 12 (64 * fn + b)) (BitVec.ofNat 6 a))

/-- The 32-bit major map (R133). -/
def decFields (maj fn b a d : Nat) : Except DecodeError Instr :=
  match maj with
  | 0 => decSystem fn b a d
  | 1 => decInt fn b a d
  | 2 => decImm 2 fn b a d
  | 3 => decImm 3 fn b a d
  | 4 => decImm 4 fn b a d
  | 5 => decImm 5 fn b a d
  | 6 => decImm 6 fn b a d
  | 7 => decCmp fn b a d
  | 8 => decImm 8 fn b a d
  | 9 => decPred fn b a d
  | 10 => decSel fn b a d
  | 11 => decFloatD fn b a d
  | 12 => decFloatS fn b a d
  | 13 => decFcmp fn b a d
  | 14 => decCvt fn b a d
  | 15 => decBranch 15 fn b a d
  | 16 => decBranch 16 fn b a d
  | 17 => decBranch 17 fn b a d
  | 18 => decJump fn b a d
  | 19 => decMem 19 fn b a d
  | 20 => decMem 20 fn b a d
  | 21 => decFence fn b a d
  | 22 => decToken fn b a d
  | 23 => decRing fn b a d
  | 24 => decBar fn b a d
  | 25 => decGang fn b a d
  | 26 => decTag fn b a d
  | 27 => decTask fn b a d
  | 28 => decPq fn b a d
  | 29 => decSys 29 fn b a d
  | 30 => decSys 30 fn b a d
  | 31 => decRnd fn b a d
  | 32 => decCheck fn b a d
  | 33 => decLog fn b a d
  | 34 => decAcc fn b a d
  | 35 => decRaw fn b a d
  | 36 => decStream fn b a d
  | 37 => decWin fn b a d
  | _ => .error .major

/-- A 32-bit instruction word. -/
def dec32 (w : Nat) : Except DecodeError Instr := decFields (fld w 2 6) (fld w 26 6) (fld w 20 6) (fld w 14 6) (fld w 8 6)

/-- A `mod` prefix word (R126). `pen` 0 with a predicate is a misuse of it, not an unassigned word (R380). -/
def decMod (w : Nat) : Except DecodeError Instr :=
  if fld w 2 6 ≠ 0 then .error .kind
  else if fld w 18 14 ≠ 0 then .error .field
  else if 5 < fld w 8 3 then .error .round
  else .ok .mod

/-- The fields of a prefix word (R126). -/
def pfxOf (w : Nat) : Pfx := ⟨bitN w 17, bitN w 16, BitVec.ofNat 3 (fld w 13 3), bitN w 12, bitN w 11, BitVec.ofNat 3 (fld w 8 3)⟩

/-- The prefix word of given fields (R126). -/
def pfxWord (p : Pfx) : Half :=
  BitVec.ofNat 32 (1 + 256 * p.round.toNat + 2048 * b2n p.sat + 4096 * b2n p.ftz + 8192 * p.pred.toNat + 65536 * b2n p.pneg
    + 131072 * b2n p.pen)

/-! ## 64-bit majors (R130, R134) -/

/-- `ldl` by `fn`. -/
def decLdl (fn : Nat) (d a : GReg) (i : Half) : Except DecodeError Instr :=
  match fn with
  | 0 => .ok (.ldlB d a i)
  | 1 => .ok (.ldlBn d a i)
  | 2 => .ok (.ldlH d a i)
  | 3 => .ok (.ldlHn d a i)
  | 4 => .ok (.ldlW d a i)
  | 5 => .ok (.ldlWn d a i)
  | 6 => .ok (.ldlD d a i)
  | _ => .error .fn

/-- `stl` by `fn`. -/
def decStl (fn : Nat) (d a : GReg) (i : Half) : Except DecodeError Instr :=
  match fn with
  | 0 => .ok (.stlB d a i)
  | 1 => .ok (.stlH d a i)
  | 2 => .ok (.stlW d a i)
  | 3 => .ok (.stlD d a i)
  | _ => .error .fn

/-- `atom` by the second word's `fn` (R210). -/
def decAtomFn (fn c : Nat) (d a b : GReg) (o : BitVec 3) (sc : BitVec 2) (ord : Bool) : Except DecodeError Instr :=
  match fn with
  | 0 => need (c < 2) (.atomAdd d a b (c == 1) o sc ord)
  | 1 => need (c < 2) (.atomSub d a b (c == 1) o sc ord)
  | 2 => need (c < 2) (.atomAnd d a b (c == 1) o sc ord)
  | 3 => need (c < 2) (.atomOr d a b (c == 1) o sc ord)
  | 4 => need (c < 2) (.atomXor d a b (c == 1) o sc ord)
  | 5 => need (c < 2) (.atomMin d a b (c == 1) o sc ord)
  | 6 => need (c < 2) (.atomMax d a b (c == 1) o sc ord)
  | 7 => need (c < 2) (.atomMinn d a b (c == 1) o sc ord)
  | 8 => need (c < 2) (.atomMaxn d a b (c == 1) o sc ord)
  | 9 => need (c < 2) (.atomXchg d a b (c == 1) o sc ord)
  | 10 => .ok (.atomCas d a b (BitVec.ofNat 6 c) o sc ord)
  | 11 => need (c = 0) (.atomFaddS d a b o sc ord)
  | 12 => need (c = 0) (.atomFaddD d a b o sc ord)
  | 13 => need (c = 0) (.atomFmaxS d a b o sc ord)
  | 14 => need (c = 0) (.atomFminS d a b o sc ord)
  | _ => .error .fn

/-- What the first word of a 64-bit instruction must keep: unassigned majors, and unused fields of the W format. -/
def firstOk (maj c b a d : Nat) : Except DecodeError Unit :=
  let ok := fun (x : Bool) => if x then Except.ok () else .error .field
  match maj with
  | 0 => ok (c == 0 && b == 0 && a == 0)
  | 1 => ok (c == 0 && b == 0 && a == 0)
  | 2 => ok (c == 0 && b == 0)
  | 3 => ok (c == 0 && b == 0)
  | 4 => ok (c == 0 && b == 0 && a == 0 && decide (d < 16))
  | 5 => ok (c == 0 && b == 0 && a == 0 && d == 0)
  | 6 => .ok ()
  | 7 => ok (decide (d < 16))
  | 8 => ok (c == 0 && b == 0 && a == 0 && d == 0)
  | 9 => if c ≤ 6 then ok (b == 0) else .error .fn
  | 10 => if c ≤ 3 then ok (b == 0) else .error .fn
  | 11 => ok (c == 0 && b == 0)
  | 12 => ok (c == 0 && b == 0 && a == 0 && d == 0)
  | 13 => ok (c == 0 && b == 0 && a == 0 && d == 0)
  | _ => .error .major

/-- A 64-bit instruction whose first word is in order, by its fields and second word v. -/
def decSecond (maj c b a d v : Nat) : Except DecodeError Instr :=
  let gd := BitVec.ofNat 6 d
  let ga := BitVec.ofNat 6 a
  let i := BitVec.ofNat 32 v
  match maj with
  | 0 => .ok (.movi gd i)
  | 1 => .ok (.movhi gd i)
  | 2 => .ok (.addwi gd ga i)
  | 3 => .ok (.cmpwi (BitVec.ofNat 3 (d / 8)) (BitVec.ofNat 3 (d % 8)) ga i)
  | 4 => .ok (.braw (BitVec.ofNat 3 (d % 8)) (d / 8 == 1) i)
  | 5 => .ok .callw
  | 6 =>
    if fld v 0 6 > 14 then .error .fn
    else if fld v 6 3 > 4 ∨ fld v 12 20 ≠ 0 then .error .field
    else decAtomFn (fld v 0 6) c gd ga (BitVec.ofNat 6 b) (BitVec.ofNat 3 (fld v 6 3)) (BitVec.ofNat 2 (fld v 9 2)) (bitN v 11)
  | 7 =>
    need (fld v 0 6 = 0 ∧ fld v 26 6 = 0) (.sdef (BitVec.ofNat 4 d) ga (BitVec.ofNat 6 b) (BitVec.ofNat 6 c)
      (BitVec.ofNat 16 (fld v 6 16)) (BitVec.ofNat 2 (fld v 22 2)) (BitVec.ofNat 2 (fld v 24 2)))
  | 8 => .ok .plive
  | 9 => decLdl c gd ga i
  | 10 => decStl c gd ga i
  | 11 => .ok (.lea gd ga i)
  | 12 => .ok .segb
  | 13 => .ok .sege
  | _ => .error .major

/-- Which word a refused second-word check names: the width code of an `atom` stands in the first word (R210, R374). -/
def badWord (maj c v : Nat) : Nat :=
  if maj = 6 ∧ fld v 0 6 ≤ 14 ∧ ((fld v 0 6 ≤ 9 ∧ 2 ≤ c) ∨ (11 ≤ fld v 0 6 ∧ c ≠ 0)) then 0 else 1

/-- A 64-bit instruction from its two words. -/
def dec64 (w v : Nat) : Except Bad Instr :=
  match firstOk (fld w 2 6) (fld w 26 6) (fld w 20 6) (fld w 14 6) (fld w 8 6) with
  | .error e => .error ⟨e, 0, BitVec.ofNat 32 w⟩
  | .ok _ => match decSecond (fld w 2 6) (fld w 26 6) (fld w 20 6) (fld w 14 6) (fld w 8 6) v with
    | .ok i => .ok i
    | .error e =>
      let k := badWord (fld w 2 6) (fld w 26 6) v
      .error ⟨e, k, BitVec.ofNat 32 (if k = 0 then w else v)⟩

/-! ## Engine records (R136–R140, R376) -/

/-- Queue L (R140). -/
def decRecL (opn : Nat) (r : Rec) : Except DecodeError Instr :=
  match opn with
  | 0 => .ok (.lTile r)
  | 1 => .ok (.lGth r)
  | 2 => .ok (.lMc r)
  | 3 => .ok (.lSc r)
  | 4 => .ok (.lAcc r)
  | 5 => .ok (.lZero r)
  | 6 => .ok (.lPf r)
  | 7 => .ok (.lCv r)
  | _ => .error .operation

/-- Queue X (R140). -/
def decRecX (opn : Nat) (r : Rec) : Except DecodeError Instr :=
  match opn with
  | 0 => .ok (.mma r)
  | 1 => .ok (.mmaSp r)
  | 2 => .ok (.accZero r)
  | 3 => .ok (.accCopy r)
  | 16 => .ok (.vAdd r)
  | 17 => .ok (.vSub r)
  | 18 => .ok (.vMul r)
  | 19 => .ok (.vFma r)
  | 20 => .ok (.vMin r)
  | 21 => .ok (.vMax r)
  | 22 => .ok (.vAbs r)
  | 23 => .ok (.vNeg r)
  | 24 => .ok (.vSel r)
  | 25 => .ok (.vCmp r)
  | 26 => .ok (.vCvt r)
  | 27 => .ok (.vMov r)
  | 28 => .ok (.vBcast r)
  | 29 => .ok (.vAnd r)
  | 30 => .ok (.vOr r)
  | 31 => .ok (.vXor r)
  | 32 => .ok (.vShl r)
  | 33 => .ok (.vShr r)
  | 34 => .ok (.vExp2 r)
  | 35 => .ok (.vLog2 r)
  | 36 => .ok (.vRcp r)
  | 37 => .ok (.vRsqrt r)
  | 38 => .ok (.vTanh r)
  | 39 => .ok (.vClamp r)
  | 48 => .ok (.rSum r)
  | 49 => .ok (.rMax r)
  | 50 => .ok (.rMin r)
  | 51 => .ok (.rAmax r)
  | 52 => .ok (.rArgmax r)
  | 53 => .ok (.rTopk r)
  | 64 => .ok (.xTr r)
  | 65 => .ok (.xGth r)
  | 80 => .ok (.sdfSmp r)
  | 81 => .ok (.sweep r)
  | _ => .error .operation

/-- Queue S (R140). -/
def decRecS (opn : Nat) (r : Rec) : Except DecodeError Instr :=
  match opn with
  | 0 => .ok (.sTile r)
  | 1 => .ok (.sQuant r)
  | 2 => .ok (.sScat r)
  | 3 => .ok (.sRed r)
  | 4 => .ok (.sMeet r)
  | 5 => .ok (.sCkpt r)
  | 6 => .ok (.sRing r)
  | _ => .error .operation

/-- The operation of a queue (R140). -/
def decRec (q opn : Nat) (r : Rec) : Except DecodeError Instr :=
  match q with
  | 0 => decRecL opn r
  | 1 => decRecX opn r
  | 2 => decRecS opn r
  | _ => .error .queue

/-- Half-word j of words 4–13 (R137). -/
def half (w : Nat → Nat) (j : Nat) : Nat := fld (w (4 + j / 2)) (16 * (j % 2)) 16

/-- Slot k of D, A, B, C: five half-words (R137). -/
def slotOf (w : Nat → Nat) (k : Nat) : Slot :=
  ⟨BitVec.ofNat 4 (half w (5 * k) % 16), BitVec.ofNat 12 (half w (5 * k) / 16), BitVec.ofNat 16 (half w (5 * k + 1)),
   BitVec.ofNat 16 (half w (5 * k + 2)), BitVec.ofNat 16 (half w (5 * k + 3)), BitVec.ofNat 16 (half w (5 * k + 4))⟩

/-- The fields of a record's sixteen words (R136, R137). -/
def recOf (w : Nat → Nat) : Rec :=
  { sat := bitN (w 0) 27, round := BitVec.ofNat 3 (fld (w 0) 24 3), pen := bitN (w 0) 22, pneg := bitN (w 0) 21,
    pred := BitVec.ofNat 3 (fld (w 0) 18 3), nest := BitVec.ofNat 2 (fld (w 0) 16 2), hr := bitN (w 0) 15, hl := bitN (w 0) 14,
    pr := bitN (w 0) 13, pl := bitN (w 0) 12, ctl := BitVec.ofNat 32 (w 1), t0 := BitVec.ofNat 16 (fld (w 2) 0 16),
    t1 := BitVec.ofNat 16 (fld (w 2) 16 16), t2 := BitVec.ofNat 16 (fld (w 3) 0 16), t3 := BitVec.ofNat 16 (fld (w 3) 16 16),
    sD := slotOf w 0, sA := slotOf w 1, sB := slotOf w 2, sC := slotOf w 3, imm := BitVec.ofNat 64 (w 14 + 2 ^ 32 * w 15) }

/-- Queue and operation number of word 0. -/
def recQ (w0 : Nat) : Nat := fld w0 10 2
def recOpn (w0 : Nat) : Nat := fld w0 2 8

/-- A record from its sixteen words. -/
def dec512 (w : Nat → Nat) : Except Bad Instr :=
  let bad := fun (e : DecodeError) (k : Nat) => Except.error (Bad.mk e k (BitVec.ofNat 32 (w k)))
  if fld (w 0) 28 4 ≠ 0 ∨ bitN (w 0) 23 then bad .field 0
  else if 5 < fld (w 0) 24 3 then bad .round 0
  else match decRec (recQ (w 0)) (recOpn (w 0)) (recOf w) with
    | .error e => bad e 0
    | .ok i =>
      if fld (w 0) 16 2 < 1 ∧ fld (w 2) 16 16 ≠ 0 then bad .trips 2
      else if (fld (w 0) 16 2 < 2 ∧ fld (w 3) 0 16 ≠ 0) ∨ (fld (w 0) 16 2 < 3 ∧ fld (w 3) 16 16 ≠ 0) then bad .trips 3
      else .ok i

/-! ## Items -/

/-- Words of the item whose first word is w (R121). -/
def itemWords (w : Half) : Nat :=
  match w.toNat % 4 with
  | 2 => 2
  | 3 => 16
  | _ => 1

/-- THE DECODER: the item at the head of a list of words, with its length in words; total. -/
def decode (ws : List Half) : Except Bad (Instr × Nat) :=
  match ws with
  | [] => .error ⟨.truncated, 0, 0⟩
  | h :: t =>
    if (h :: t).length < itemWords h then .error ⟨.truncated, 0, h⟩ else
    let nat := fun (k : Nat) => ((h :: t).getD k 0).toNat
    let named := fun (r : Except DecodeError Instr) => match r with
      | .ok i => Except.ok (i, 1)
      | .error e => .error (Bad.mk e 0 h)
    match h.toNat % 4 with
    | 0 => named (dec32 h.toNat)
    | 1 => named (decMod h.toNat)
    | 2 => match dec64 h.toNat (nat 1) with
      | .ok i => .ok (i, 2)
      | .error e => .error e
    | _ => match dec512 nat with
      | .ok i => .ok (i, 16)
      | .error e => .error e

/-- Little-endian words of a byte list (R5, R121); bytes beyond the last whole word are dropped. -/
def wordsOf : List Byte → List Half
  | a :: b :: c :: d :: r => BitVec.ofNat 32 (leNat [a, b, c, d]) :: wordsOf r
  | _ => []

/-- The decoder on bytes: the instruction and the bytes that follow it. -/
def decodeBytes (bs : List Byte) : Except Bad (Instr × List Byte) :=
  match decode (wordsOf bs) with
  | .ok (i, n) => .ok (i, bs.drop (4 * n))
  | .error e => .error e

/-- The item whose bits, numbered as the opcode table numbers them, are w: `nbits` bits given, the rest zero. -/
def tableWords (nbits w : Nat) : List Half := (List.range 16).map (fun k => BitVec.ofNat 32 (fld (w % 2 ^ nbits) (32 * k) 32))

/-- The instruction that the decoder reads from a row's word. -/
def decodeTableWord (nbits w : Nat) : Option Instr :=
  match decode (tableWords nbits w) with
  | .ok (i, _) => some i
  | .error _ => none

/-! ## The encoder -/

/-- A 32-bit word from its fields (R123). -/
def w32 (maj fn b a d : Nat) : List Half := [BitVec.ofNat 32 (4 * maj + 256 * d + 16384 * a + 1048576 * b + 67108864 * fn)]

/-- A B-format word (R123). -/
def wB (maj off p : Nat) : List Half := w32 maj (off / 16384) (off / 256 % 64) (off / 4 % 64) (off % 4 * 16 + p)

/-- A 64-bit instruction from its first word's fields and its second word (R130). -/
def w64 (maj c b a d v : Nat) : List Half :=
  [BitVec.ofNat 32 (2 + 4 * maj + 256 * d + 16384 * a + 1048576 * b + 67108864 * c), BitVec.ofNat 32 v]

/-- The five half-words of a slot (R137). -/
def Slot.halves (s : Slot) : List Nat := [s.str.toNat + 16 * s.off.toNat, s.st0.toNat, s.st1.toNat, s.st2.toNat, s.st3.toNat]

/-- Two half-words a word, low half first. -/
def pairHalves : List Nat → List Half
  | a :: b :: r => BitVec.ofNat 32 (a + 65536 * b) :: pairHalves r
  | _ => []

/-- The sixteen words of a record (R136, R137). -/
def recWords (q opn : Nat) (r : Rec) : List Half :=
  [BitVec.ofNat 32 (3 + 4 * opn + 1024 * q + 4096 * b2n r.pl + 8192 * b2n r.pr + 16384 * b2n r.hl + 32768 * b2n r.hr
      + 65536 * r.nest.toNat + 262144 * r.pred.toNat + 2097152 * b2n r.pneg + 4194304 * b2n r.pen + 16777216 * r.round.toNat
      + 134217728 * b2n r.sat), r.ctl, BitVec.ofNat 32 (r.t0.toNat + 65536 * r.t1.toNat), BitVec.ofNat 32 (r.t2.toNat + 65536 * r.t3.toNat)]
    ++ pairHalves (r.sD.halves ++ r.sA.halves ++ r.sB.halves ++ r.sC.halves)
    ++ [BitVec.ofNat 32 (r.imm.toNat % 2 ^ 32), BitVec.ofNat 32 (r.imm.toNat / 2 ^ 32)]

/-- The words of an instruction (R123–R140), written from the encoding tables; an event has none. `v` is the second word of
`callw`, `plive`, `segb` and `sege`, the whole word of `mod`, and not read for any other. -/
def encode (i : Instr) (v : Half) : List Half :=
  match i with
  | .nop => w32 0 0 0 0 0
  | .brk n => w32 0 1 0 0 n.toNat
  | .tgt => w32 0 2 0 0 0
  | .sysc n => w32 0 3 0 0 n.toNat
  | .eret => w32 0 4 0 0 0
  | .yield => w32 0 5 0 0 0
  | .mod => [v]
  | .unassignedEncoding => []
  | .misalignedItem => []
  | .add d a b => w32 1 0 b.toNat a.toNat d.toNat
  | .sub d a b => w32 1 1 b.toNat a.toNat d.toNat
  | .mul d a b => w32 1 2 b.toNat a.toNat d.toNat
  | .mulh d a b => w32 1 3 b.toNat a.toNat d.toNat
  | .mulhn d a b => w32 1 4 b.toNat a.toNat d.toNat
  | .div d a b => w32 1 5 b.toNat a.toNat d.toNat
  | .divn d a b => w32 1 6 b.toNat a.toNat d.toNat
  | .rem d a b => w32 1 7 b.toNat a.toNat d.toNat
  | .remn d a b => w32 1 8 b.toNat a.toNat d.toNat
  | .and d a b => w32 1 9 b.toNat a.toNat d.toNat
  | .or d a b => w32 1 10 b.toNat a.toNat d.toNat
  | .xor d a b => w32 1 11 b.toNat a.toNat d.toNat
  | .andn d a b => w32 1 12 b.toNat a.toNat d.toNat
  | .orn d a b => w32 1 13 b.toNat a.toNat d.toNat
  | .shl d a b => w32 1 14 b.toNat a.toNat d.toNat
  | .shr d a b => w32 1 15 b.toNat a.toNat d.toNat
  | .sra d a b => w32 1 16 b.toNat a.toNat d.toNat
  | .rol d a b => w32 1 17 b.toNat a.toNat d.toNat
  | .min d a b => w32 1 18 b.toNat a.toNat d.toNat
  | .max d a b => w32 1 19 b.toNat a.toNat d.toNat
  | .minn d a b => w32 1 20 b.toNat a.toNat d.toNat
  | .maxn d a b => w32 1 21 b.toNat a.toNat d.toNat
  | .clz d a => w32 1 22 0 a.toNat d.toNat
  | .ctz d a => w32 1 23 0 a.toNat d.toNat
  | .pop d a => w32 1 24 0 a.toNat d.toNat
  | .bswap d a => w32 1 25 0 a.toNat d.toNat
  | .adds d a b => w32 1 26 b.toNat a.toNat d.toNat
  | .subs d a b => w32 1 27 b.toNat a.toNat d.toNat
  | .addi d a imm => w32 2 (imm.toNat / 64) (imm.toNat % 64) a.toNat d.toNat
  | .andi d a imm => w32 3 (imm.toNat / 64) (imm.toNat % 64) a.toNat d.toNat
  | .ori d a imm => w32 4 (imm.toNat / 64) (imm.toNat % 64) a.toNat d.toNat
  | .xori d a imm => w32 5 (imm.toNat / 64) (imm.toNat % 64) a.toNat d.toNat
  | .shli d a sh => w32 6 0 sh.toNat a.toNat d.toNat
  | .shri d a sh => w32 6 1 sh.toNat a.toNat d.toNat
  | .srai d a sh => w32 6 2 sh.toNat a.toNat d.toNat
  | .roli d a sh => w32 6 3 sh.toNat a.toNat d.toNat
  | .cmpEq d a b => w32 7 0 b.toNat a.toNat d.toNat
  | .cmpNe d a b => w32 7 1 b.toNat a.toNat d.toNat
  | .cmpLt d a b => w32 7 2 b.toNat a.toNat d.toNat
  | .cmpLe d a b => w32 7 3 b.toNat a.toNat d.toNat
  | .cmpLtn d a b => w32 7 4 b.toNat a.toNat d.toNat
  | .cmpLen d a b => w32 7 5 b.toNat a.toNat d.toNat
  | .cmpi cc d a imm => w32 8 (imm.toNat / 64) (imm.toNat % 64) a.toNat (d.toNat + 8 * cc.toNat)
  | .pand d a b => w32 9 0 b.toNat a.toNat d.toNat
  | .por d a b => w32 9 1 b.toNat a.toNat d.toNat
  | .pxor d a b => w32 9 2 b.toNat a.toNat d.toNat
  | .pandn d a b => w32 9 3 b.toNat a.toNat d.toNat
  | .sel d a b pn inv => w32 10 (pn.toNat + 8 * b2n inv) b.toNat a.toNat d.toNat
  | .faddD d a b => w32 11 0 b.toNat a.toNat d.toNat
  | .fsubD d a b => w32 11 1 b.toNat a.toNat d.toNat
  | .fmulD d a b => w32 11 2 b.toNat a.toNat d.toNat
  | .fdivD d a b => w32 11 3 b.toNat a.toNat d.toNat
  | .fsqrtD d a => w32 11 4 0 a.toNat d.toNat
  | .fminD d a b => w32 11 5 b.toNat a.toNat d.toNat
  | .fmaxD d a b => w32 11 6 b.toNat a.toNat d.toNat
  | .fmacD d a b => w32 11 7 b.toNat a.toNat d.toNat
  | .fabsD d a => w32 11 8 0 a.toNat d.toNat
  | .fnegD d a => w32 11 9 0 a.toNat d.toNat
  | .faddS d a b => w32 12 0 b.toNat a.toNat d.toNat
  | .fsubS d a b => w32 12 1 b.toNat a.toNat d.toNat
  | .fmulS d a b => w32 12 2 b.toNat a.toNat d.toNat
  | .fdivS d a b => w32 12 3 b.toNat a.toNat d.toNat
  | .fsqrtS d a => w32 12 4 0 a.toNat d.toNat
  | .fminS d a b => w32 12 5 b.toNat a.toNat d.toNat
  | .fmaxS d a b => w32 12 6 b.toNat a.toNat d.toNat
  | .fmacS d a b => w32 12 7 b.toNat a.toNat d.toNat
  | .fabsS d a => w32 12 8 0 a.toNat d.toNat
  | .fnegS d a => w32 12 9 0 a.toNat d.toNat
  | .fcmpEqS d a b => w32 13 0 b.toNat a.toNat d.toNat
  | .fcmpLtS d a b => w32 13 1 b.toNat a.toNat d.toNat
  | .fcmpLeS d a b => w32 13 2 b.toNat a.toNat d.toNat
  | .fcmpUnS d a b => w32 13 3 b.toNat a.toNat d.toNat
  | .fcmpEqD d a b => w32 13 4 b.toNat a.toNat d.toNat
  | .fcmpLtD d a b => w32 13 5 b.toNat a.toNat d.toNat
  | .fcmpLeD d a b => w32 13 6 b.toNat a.toNat d.toNat
  | .fcmpUnD d a b => w32 13 7 b.toNat a.toNat d.toNat
  | .cvtDI d a => w32 14 0 0 a.toNat d.toNat
  | .cvtDN d a => w32 14 1 0 a.toNat d.toNat
  | .cvtID d a => w32 14 2 0 a.toNat d.toNat
  | .cvtND d a => w32 14 3 0 a.toNat d.toNat
  | .cvtSD d a => w32 14 4 0 a.toNat d.toNat
  | .cvtDS d a => w32 14 5 0 a.toNat d.toNat
  | .cvtSI d a => w32 14 6 0 a.toNat d.toNat
  | .cvtIS d a => w32 14 7 0 a.toNat d.toNat
  | .cvtHS d a => w32 14 8 0 a.toNat d.toNat
  | .cvtSH d a => w32 14 9 0 a.toNat d.toNat
  | .cvtBfS d a => w32 14 10 0 a.toNat d.toNat
  | .cvtSBf d a => w32 14 11 0 a.toNat d.toNat
  | .bra off => wB 15 off.toNat 0
  | .bp p neg off => wB 16 off.toNat (p.toNat + 8 * b2n neg)
  | .call off => wB 17 off.toNat 0
  | .jr a => w32 18 0 0 a.toNat 0
  | .callr a => w32 18 1 0 a.toNat 0
  | .ret => w32 18 2 0 0 0
  | .ldB d a sp off => w32 19 (off.toNat / 4) (off.toNat % 4 * 16 + b2n sp * 8 + 0) a.toNat d.toNat
  | .ldBn d a sp off => w32 19 (off.toNat / 4) (off.toNat % 4 * 16 + b2n sp * 8 + 1) a.toNat d.toNat
  | .ldH d a sp off => w32 19 (off.toNat / 4) (off.toNat % 4 * 16 + b2n sp * 8 + 2) a.toNat d.toNat
  | .ldHn d a sp off => w32 19 (off.toNat / 4) (off.toNat % 4 * 16 + b2n sp * 8 + 3) a.toNat d.toNat
  | .ldW d a sp off => w32 19 (off.toNat / 4) (off.toNat % 4 * 16 + b2n sp * 8 + 4) a.toNat d.toNat
  | .ldWn d a sp off => w32 19 (off.toNat / 4) (off.toNat % 4 * 16 + b2n sp * 8 + 5) a.toNat d.toNat
  | .ldD d a sp off => w32 19 (off.toNat / 4) (off.toNat % 4 * 16 + b2n sp * 8 + 6) a.toNat d.toNat
  | .stB d a sp off => w32 20 (off.toNat / 4) (off.toNat % 4 * 16 + b2n sp * 8 + 0) a.toNat d.toNat
  | .stH d a sp off => w32 20 (off.toNat / 4) (off.toNat % 4 * 16 + b2n sp * 8 + 1) a.toNat d.toNat
  | .stW d a sp off => w32 20 (off.toNat / 4) (off.toNat % 4 * 16 + b2n sp * 8 + 2) a.toNat d.toNat
  | .stD d a sp off => w32 20 (off.toNat / 4) (off.toNat % 4 * 16 + b2n sp * 8 + 3) a.toNat d.toNat
  | .loadWriteback => []
  | .pub sc => w32 21 0 sc.toNat 0 0
  | .ref sc => w32 21 1 sc.toNat 0 0
  | .phase sc => w32 21 2 sc.toNat 0 0
  | .fenceSc => w32 21 3 0 0 0
  | .fenceIo => w32 21 4 0 0 0
  | .waitpv => w32 21 5 0 0 0
  | .sms => w32 21 6 0 0 0
  | .tokp f => w32 22 0 f.toNat 0 0
  | .tokw f => w32 22 1 f.toNat 0 0
  | .qwait a k => w32 22 2 k.toNat a.toNat 0
  | .qseq d k => w32 22 3 k.toNat 0 d.toNat
  | .qdrain => w32 22 4 0 0 0
  | .racq d q => w32 23 0 0 q.toNat d.toNat
  | .rrel q b => w32 23 1 b.toNat q.toNat 0
  | .rwait d q => w32 23 2 0 q.toNat d.toNat
  | .rpop q => w32 23 3 0 q.toNat 0
  | .rtest d q k => w32 23 4 k.toNat q.toNat d.toNat
  | .rstat d q => w32 23 5 0 q.toNat d.toNat
  | .bara d a => w32 24 0 0 a.toNat d.toNat
  | .barad d a => w32 24 1 0 a.toNat d.toNat
  | .barw a b => w32 24 2 b.toNat a.toNat 0
  | .bart d a b => w32 24 3 b.toNat a.toNat d.toNat
  | .barx a b => w32 24 4 b.toNat a.toNat 0
  | .barq d a => w32 24 5 0 a.toNat d.toNat
  | .gjoin d a => w32 25 0 0 a.toNat d.toNat
  | .gleave => w32 25 1 0 0 0
  | .gsize d a => w32 25 2 0 a.toNat d.toNat
  | .grank d => w32 25 3 0 0 d.toNat
  | .tagal d a b => w32 26 0 b.toNat a.toNat d.toNat
  | .tagfr a => w32 26 1 0 a.toNat 0
  | .tagq d a => w32 26 2 0 a.toNat d.toNat
  | .tsub d a b => w32 27 0 b.toNat a.toNat d.toNat
  | .tdone => w32 27 1 0 0 0
  | .tdep a => w32 27 2 0 a.toNat 0
  | .tstage => w32 27 3 0 0 0
  | .tinfo d k => w32 27 4 k.toNat 0 d.toNat
  | .pqins d a b => w32 28 0 b.toNat a.toNat d.toNat
  | .pqpop d f s b => w32 28 1 b.toNat (f.toNat + 8 * s.toNat) d.toNat
  | .pqpeek d f s b => w32 28 2 b.toNat (f.toNat + 8 * s.toNat) d.toNat
  | .pqinv a b => w32 28 3 b.toNat a.toNat 0
  | .pqclr b => w32 28 4 b.toNat 0 0
  | .pqcnt d b => w32 28 5 b.toNat 0 d.toNat
  | .mfs d n => w32 29 (n.toNat / 64) (n.toNat % 64) 0 d.toNat
  | .mts n a => w32 30 (n.toNat / 64) (n.toNat % 64) a.toNat 0
  | .rnd d => w32 31 0 0 0 d.toNat
  | .rndk a b => w32 31 1 b.toNat a.toNat 0
  | .chkerr d => w32 32 0 0 0 d.toNat
  | .sigr d => w32 32 1 0 0 d.toNat
  | .logm a => w32 33 0 0 a.toNat 0
  | .logq d k => w32 33 1 k.toNat 0 d.toNat
  | .accrd d a => w32 34 0 0 a.toNat d.toNat
  | .accwr d a => w32 34 1 0 a.toNat d.toNat
  | .rpw d a b => w32 35 0 b.toNat a.toNat d.toNat
  | .rpr d a b => w32 35 1 b.toNat a.toNat d.toNat
  | .rpt d a => w32 35 2 0 a.toNat d.toNat
  | .rawPacketComplete => []
  | .smov d a => w32 36 0 0 a.toNat d.toNat
  | .sld d a => w32 36 1 0 a.toNat d.toNat
  | .sst d a => w32 36 2 0 a.toNat d.toNat
  | .rwopen d a b => w32 37 0 b.toNat a.toNat d.toNat
  | .rwclose a => w32 37 1 0 a.toNat 0
  | .movi d imm => w64 0 0 0 0 d.toNat imm.toNat
  | .movhi d imm => w64 1 0 0 0 d.toNat imm.toNat
  | .addwi d a imm => w64 2 0 0 a.toNat d.toNat imm.toNat
  | .cmpwi cc d a imm => w64 3 0 0 a.toNat (d.toNat + 8 * cc.toNat) imm.toNat
  | .braw p neg imm => w64 4 0 0 0 (p.toNat + 8 * b2n neg) imm.toNat
  | .callw => w64 5 0 0 0 0 v.toNat
  | .lea d a imm => w64 11 0 0 a.toNat d.toNat imm.toNat
  | .ldlB d a imm => w64 9 0 0 a.toNat d.toNat imm.toNat
  | .ldlBn d a imm => w64 9 1 0 a.toNat d.toNat imm.toNat
  | .ldlH d a imm => w64 9 2 0 a.toNat d.toNat imm.toNat
  | .ldlHn d a imm => w64 9 3 0 a.toNat d.toNat imm.toNat
  | .ldlW d a imm => w64 9 4 0 a.toNat d.toNat imm.toNat
  | .ldlWn d a imm => w64 9 5 0 a.toNat d.toNat imm.toNat
  | .ldlD d a imm => w64 9 6 0 a.toNat d.toNat imm.toNat
  | .stlB d a imm => w64 10 0 0 a.toNat d.toNat imm.toNat
  | .stlH d a imm => w64 10 1 0 a.toNat d.toNat imm.toNat
  | .stlW d a imm => w64 10 2 0 a.toNat d.toNat imm.toNat
  | .stlD d a imm => w64 10 3 0 a.toNat d.toNat imm.toNat
  | .atomAdd d a b w o sc ord => w64 6 (b2n w) b.toNat a.toNat d.toNat (0 + 64 * (o.toNat + 8 * sc.toNat + 32 * b2n ord))
  | .atomSub d a b w o sc ord => w64 6 (b2n w) b.toNat a.toNat d.toNat (1 + 64 * (o.toNat + 8 * sc.toNat + 32 * b2n ord))
  | .atomAnd d a b w o sc ord => w64 6 (b2n w) b.toNat a.toNat d.toNat (2 + 64 * (o.toNat + 8 * sc.toNat + 32 * b2n ord))
  | .atomOr d a b w o sc ord => w64 6 (b2n w) b.toNat a.toNat d.toNat (3 + 64 * (o.toNat + 8 * sc.toNat + 32 * b2n ord))
  | .atomXor d a b w o sc ord => w64 6 (b2n w) b.toNat a.toNat d.toNat (4 + 64 * (o.toNat + 8 * sc.toNat + 32 * b2n ord))
  | .atomMin d a b w o sc ord => w64 6 (b2n w) b.toNat a.toNat d.toNat (5 + 64 * (o.toNat + 8 * sc.toNat + 32 * b2n ord))
  | .atomMax d a b w o sc ord => w64 6 (b2n w) b.toNat a.toNat d.toNat (6 + 64 * (o.toNat + 8 * sc.toNat + 32 * b2n ord))
  | .atomMinn d a b w o sc ord => w64 6 (b2n w) b.toNat a.toNat d.toNat (7 + 64 * (o.toNat + 8 * sc.toNat + 32 * b2n ord))
  | .atomMaxn d a b w o sc ord => w64 6 (b2n w) b.toNat a.toNat d.toNat (8 + 64 * (o.toNat + 8 * sc.toNat + 32 * b2n ord))
  | .atomXchg d a b w o sc ord => w64 6 (b2n w) b.toNat a.toNat d.toNat (9 + 64 * (o.toNat + 8 * sc.toNat + 32 * b2n ord))
  | .atomCas d a b c o sc ord => w64 6 c.toNat b.toNat a.toNat d.toNat (10 + 64 * (o.toNat + 8 * sc.toNat + 32 * b2n ord))
  | .atomFaddS d a b o sc ord => w64 6 0 b.toNat a.toNat d.toNat (11 + 64 * (o.toNat + 8 * sc.toNat + 32 * b2n ord))
  | .atomFaddD d a b o sc ord => w64 6 0 b.toNat a.toNat d.toNat (12 + 64 * (o.toNat + 8 * sc.toNat + 32 * b2n ord))
  | .atomFmaxS d a b o sc ord => w64 6 0 b.toNat a.toNat d.toNat (13 + 64 * (o.toNat + 8 * sc.toNat + 32 * b2n ord))
  | .atomFminS d a b o sc ord => w64 6 0 b.toNat a.toNat d.toNat (14 + 64 * (o.toNat + 8 * sc.toNat + 32 * b2n ord))
  | .sdef d a b c fmt spc sb => w64 7 c.toNat b.toNat a.toNat d.toNat (64 * (fmt.toNat + 65536 * spc.toNat + 262144 * sb.toNat))
  | .plive => w64 8 0 0 0 0 v.toNat
  | .segb => w64 12 0 0 0 0 v.toNat
  | .sege => w64 13 0 0 0 0 v.toNat
  | .lTile r => recWords 0 0 r
  | .lGth r => recWords 0 1 r
  | .lMc r => recWords 0 2 r
  | .lSc r => recWords 0 3 r
  | .lAcc r => recWords 0 4 r
  | .lZero r => recWords 0 5 r
  | .lPf r => recWords 0 6 r
  | .lCv r => recWords 0 7 r
  | .mma r => recWords 1 0 r
  | .mmaSp r => recWords 1 1 r
  | .accZero r => recWords 1 2 r
  | .accCopy r => recWords 1 3 r
  | .vAdd r => recWords 1 16 r
  | .vSub r => recWords 1 17 r
  | .vMul r => recWords 1 18 r
  | .vFma r => recWords 1 19 r
  | .vMin r => recWords 1 20 r
  | .vMax r => recWords 1 21 r
  | .vAbs r => recWords 1 22 r
  | .vNeg r => recWords 1 23 r
  | .vSel r => recWords 1 24 r
  | .vCmp r => recWords 1 25 r
  | .vCvt r => recWords 1 26 r
  | .vMov r => recWords 1 27 r
  | .vBcast r => recWords 1 28 r
  | .vAnd r => recWords 1 29 r
  | .vOr r => recWords 1 30 r
  | .vXor r => recWords 1 31 r
  | .vShl r => recWords 1 32 r
  | .vShr r => recWords 1 33 r
  | .vExp2 r => recWords 1 34 r
  | .vLog2 r => recWords 1 35 r
  | .vRcp r => recWords 1 36 r
  | .vRsqrt r => recWords 1 37 r
  | .vTanh r => recWords 1 38 r
  | .vClamp r => recWords 1 39 r
  | .rSum r => recWords 1 48 r
  | .rMax r => recWords 1 49 r
  | .rMin r => recWords 1 50 r
  | .rAmax r => recWords 1 51 r
  | .rArgmax r => recWords 1 52 r
  | .rTopk r => recWords 1 53 r
  | .xTr r => recWords 1 64 r
  | .xGth r => recWords 1 65 r
  | .sdfSmp r => recWords 1 80 r
  | .sweep r => recWords 1 81 r
  | .sTile r => recWords 2 0 r
  | .sQuant r => recWords 2 1 r
  | .sScat r => recWords 2 2 r
  | .sRed r => recWords 2 3 r
  | .sMeet r => recWords 2 4 r
  | .sCkpt r => recWords 2 5 r
  | .sRing r => recWords 2 6 r
  | .recordStart => []
  | .recordIssue => []
  | .recordRetire => []
  | .waitSatisfied => []
  | .strandPlacement => []
  | .placeZeroingDone => []
  | .taskDispatch => []
  | .stageAgeTick => []
  | .taskRequest => []
  | .tsubAtOwner => []
  | .depDecrement => []
  | .completionReport => []
  | .copyEntryComplete => []
  | .launchStart => []
  | .launchComplete => []
  | .lqKick => []
  | .launchFetchRetry => []
  | .lqCfgWrite => []
  | .preemptPre => []
  | .preemptRequestArrive => []
  | .preemptHintBoundExpiry => []
  | .contextSaveComplete => []
  | .preemptRes => []
  | .resumeComplete => []
  | .preemptFls => []
  | .ctxFltDsc => []
  | .ctxLogcWrite => []
  | .ctxCkiClear => []
  | .svcCtlShed => []
  | .svcCtlReturn => []
  | .svcTimWrite => []
  | .quiescentPoint => []
  | .stackPowerUp => []
  | .selfTestComplete => []
  | .stackPowerLoss => []
  | .lockstepMismatch => []
  | .fabricMessageReceive => []
  | .fabricAckReceive => []
  | .ackTimeout => []
  | .linkRecoveryExpiry => []
  | .heartbeatTimer => []
  | .suspectReportReceive => []
  | .suspectReportExpiry => []
  | .viewProposalReceive => []
  | .viewAckReceive => []
  | .viewCommit => []
  | .fencedStackPowerDown => []
  | .atomicPerform => []
  | .migrationCopyComplete => []
  | .orderedBatchPerform => []
  | .reductionContributionArrive => []
  | .windowMerge => []
  | .meetOperandArrive => []
  | .meetResultDelivery => []
  | .spillHoldExpiry => []
  | .orphanTimeout => []
  | .multicastDelivery => []
  | .ringDelivery => []
  | .segmentCycleBound => []
  | .patrolScrub => []
  | .onDieUncorrectableError => []
  | .powerCapExceeded => []
  | .dvPcapWrite => []
  | .attestationRequest => []
  | .attestationReportReady => []
  | .debugTokenSubmit => []
  | .dvQscrWrite => []
  | .quarantineScrubDone => []
  | .dvEccClear => []
  | .dvUccClear => []
  | .dbgCtlStop => []
  | .dbgCtlRun => []
  | .dbgCtlStep => []
  | .dbgCctlSall => []
  | .dbgCctlRall => []
  | .dbgCctlPclr => []
  | .dbgDatRead => []
  | .dbgDatWrite => []
  | .dbgPcWrite => []
  | .traceConfigWrite => []
  | .registerWrite => []
  | .pqSelectionWriteback => []
  | .powerFallsBelowCap => []
  | .lifeCycleAdvance => []
  | .dbgStClear => []

/-- An event of the device or the host: a step of the machine that no word encodes. -/
def Instr.isEvent (i : Instr) : Bool := (encode i 0).isEmpty

end Sys2Proof
end

