-- ==== Sys2Proof/Machine/Branch.lean ====
section
/-! DEFINITION. Branches, calls, the system instructions that take or leave an exception, `mod`, and the steps of encodings
that are not instructions (R126–R129, R153, R165–R167, R368, R374–R380). -/

namespace Sys2Proof.Machine

/-! ## Direct branches (R165, R167): A is the branch's own address, which is the pc behind a prefix -/

/-- `bra` (R165). -/
def execBra (off : BitVec 20) (s : State) : Out := .next (s.goto (s.me.pc + off20 off))

/-- `bp` (R165). -/
def execBp (p : PReg) (neg : Bool) (off : BitVec 20) (s : State) : Out :=
  .next (if s.P p ^^ neg then s.goto (s.me.pc + off20 off) else s.done 4)

/-- `call` (R165). -/
def execCall (off : BitVec 20) (s : State) : Out :=
  .next ((s.setG 63 (s.me.pc + 4)).goto (s.me.pc + off20 off))

/-- `braw` (R167). -/
def execBraw (p : PReg) (neg : Bool) (imm : Half) (s : State) : Out :=
  .next (if s.P p ^^ neg then s.goto (s.me.pc + off32 imm) else s.done 8)

/-- `callw` (R167). -/
def execCallw (s : State) : Out :=
  .next ((s.setG 63 (s.me.pc + 8)).goto (s.me.pc + off32 s.imm32))

/-! ## Indirect branches (R135, R166) -/

/-- The check of an indirect target once the branch has completed (R152, R166): bits [63:50] and [1:0] zero and a `tgt` word
there; a fetch fault at the target is met by the next unit. -/
def State.landing (s : State) (t : Word) : State :=
  if fld t.toNat 50 14 ≠ 0 ∨ t.toNat % 4 ≠ 0 then s.trapAt s.cur 0x30 false t t 0 0 0
  else match s.fetchWord s.myCtx t with
    | .error _ => s
    | .ok w => if w = 0x08000000 then s
        else s.trapAt s.cur 0x60 false t t (BitVec.ofNat 64 w.toNat) (BitVec.ofNat 64 w.toNat) 0

/-- `jr` (R166). -/
def execJr (a : GReg) (s : State) : Out := .next ((s.goto (s.G a)).landing (s.G a))

/-- `callr` (R166): reads `ga` before it writes `g63`. -/
def execCallr (a : GReg) (s : State) : Out :=
  .next (((s.setG 63 (s.me.pc + 4)).goto (s.G a)).landing (s.G a))

/-- `ret` (R166). -/
def execRet (s : State) : Out := .next ((s.goto (s.G 63)).landing (s.G 63))

/-! ## System instructions (R153) -/

/-- Whether debug feature STOP is open (R444). -/
def State.stopOpen (s : State) : Bool := s.feature 0
/-- Whether a debugger has armed the context's breakpoints (R153, R445, R447). -/
def State.armed (s : State) (ctx : Nat) : Bool := s.stopOpen && (s.ctx ctx).dbgc.getLsbD 0

/-- `brk n` (R153, R447): stops the strand at the next unit when breakpoints are armed, else the breakpoint trap; inside a
handler without a debugger it is an illegal use (R369). -/
def execBrk (n : BitVec 6) (s : State) : Out :=
  if s.armed s.myCtx then
    let s := s.done 4
    let s := s.trace s.cur 5 0 0 s.me.pc 0 2
    .next (s.upd (fun b => { b with cut := true, dbg := { b.dbg with stp := true, why := 2, bcode := n.toNat, due := 0 } }))
  else if s.me.inHandler then .next (s.illegal 0 0)
  else .next (s.trapC 0 0 (BitVec.ofNat 64 n.toNat))

/-- `sysc n` (R153): the system-call trap, whose saved address is A + 4; an illegal use in a handler (R369). -/
def execSysc (n : BitVec 6) (s : State) : Out :=
  if s.me.inHandler then .next (s.illegal 0 0)
  else .next (s.trapNext 0x10 (s.me.pc + 4) 0 (BitVec.ofNat 64 n.toNat))

/-- `eret` (R153, R368): legal only in a handler; `tact` 2 escalates to a context fault with the saved code. -/
def execEret (s : State) : Out :=
  let B := s.me
  if !B.inHandler then .next (s.illegal 0 0)
  else if B.trap.tact = 2 then
    let c := B.trap.tcause
    .next ((s.upd (fun b => { b with pc := b.trap.tpc, pfx := none, haltF := true, cut := true,
                                      trap := { b.trap with tcause := BitVec.ofNat 64 (setBitN c.toNat 11 false) } })).ctxFault B.ctx (c.toNat % 256) s.cur
          s.myLaunch.seq false)
  else .next (s.upd (fun b => (b.eretWith (B.trap.tact = 1)).stepStop))

/-! ## `mod` (R126–R129, R379, R380) and encodings that are not instructions (R121, R122, R374, R377) -/

/-- UNASSIGNED_ENCODING (R374): the unit whose item's word `arg.k`, of value `arg.w`, is unassigned traps. -/
def execUnassignedEncoding (s : State) : Out :=
  .next (s.trapC 2 0 (BitVec.ofNat 64 (2 ^ 32 * s.arg.k + s.arg.w.toNat)))

/-- MISALIGNED_ITEM (R121, R377): an item of 64 bits or more at an address ≡ 4 mod 8. -/
def execMisalignedItem (s : State) : Out := .next (s.trapC 3 s.me.pc 0)

end Sys2Proof.Machine
end

