-- ==== Sys2Proof/Machine/Prefix.lean ====
section
/-! DEFINITION. Fetching a unit (R61, R121, R361, R377) and the `mod` prefix (R126–R129, R379, R380). -/

namespace Sys2Proof.Machine

/-- n words from address pc. -/
def State.fetchWords (s : State) (ctx : Nat) (pc : Word) : Nat → Except MFault (List Half)
  | 0 => .ok []
  | n + 1 => match s.fetchWord ctx pc with
    | .error f => .error f
    | .ok w => match s.fetchWords ctx (pc + 4) n with
      | .error f => .error f
      | .ok ws => .ok (w :: ws)

/-- The words of the item at pc, as many as its selector asks for (R121). -/
def State.fetchItem (s : State) (ctx : Nat) (pc : Word) : Except MFault (List Half) :=
  match s.fetchWord ctx pc with
  | .error f => .error f
  | .ok w => match s.fetchWords ctx (pc + 4) (itemWords w - 1) with
    | .error f => .error f
    | .ok ws => .ok (w :: ws)

/-- The word at pc, zero where it cannot be fetched. -/
def State.wordAt (s : State) (pc : Word) : Nat :=
  match s.fetchWord s.myCtx pc with
  | .ok w => w.toNat
  | .error _ => 0

/-- A fetch fault, reported at the unit (R377, R379) with the words of it that could be fetched (R362). -/
def State.fetchTrap (s : State) (f : MFault) (tword : Nat) : State :=
  if f.ctxf || f.cls == 0 then s.accessFault f
  else s.trapAt s.cur (f.code 0) false s.me.unitPc s.me.unitPc f.val (BitVec.ofNat 64 tword) 0

/-- What C does at its pc: an instruction to run on a state that holds its words, or a state that a fault has left. -/
inductive Unit1 where
  | run (i : Instr) (s : State)
  | stop (s : State)
  deriving DecidableEq, Repr

/-- The breakpoint register that names the unit at berth b's pc: its prefix or its first instruction word (R445, R447). -/
def State.breakAt (s : State) (b : Nat) : Option Nat :=
  let B := s.berth b
  if B.pfx.isSome || B.dbg.skipBp || !(s.armed B.ctx) then none else
  let hit := fun (k : Nat) (a : Word) =>
    let r := (AMap.get 0 (s.ctx B.ctx).bpa k).toNat
    bitN r 63 && fld r 2 48 * 4 == fld a.toNat 0 50
  let two := match s.fetchWord B.ctx B.pc with
    | .ok w => w.toNat % 4 == 1
    | .error _ => false
  (List.range 4).find? (fun k => hit k B.pc || (two && hit k (B.pc + 4)))

/-- A debug stop before berth b's unit (R447). -/
def State.stopAt (s : State) (b why bcode : Nat) : State :=
  let B := s.berth b
  (s.trace b 5 0 0 B.unitPc 0 why).setBerth b { B with cut := true, dbg := { B.dbg with stp := true, why := why, bcode := bcode, due := 0, skipBp := false } }

/-- The stop that followed a unit enters the trace (R452). -/
def State.stopRecord (s : State) (b : Nat) : State :=
  let B := s.berth b
  if B.dbg.stp && B.dbg.due != 0 then (s.trace b 5 0 0 B.pc 0 B.dbg.why).updBerth b (fun B => { B with dbg := { B.dbg with due := 0 } }) else s

/-- Fetches and decodes the item at berth b's pc (R121, R361, R447): a breakpoint, a failed fetch, then misalignment, then an unassigned encoding. -/
def State.unitAt (s : State) (b : Nat) : Unit1 :=
  let s := { s with cur := b, ir := [] }
  let pc := s.me.pc
  match s.breakAt b with
  | some k => .stop (s.stopAt b 3 k)
  | none =>
  if pc.toNat % 4 ≠ 0 then
    match s.fetchWord s.me.ctx pc with
    | .error f => .stop (s.fetchTrap f 0)
    | .ok _ => .run .misalignedItem s
  else match s.fetchItem s.me.ctx pc with
  | .error f => .stop (s.fetchTrap f (s.wordAt pc))
  | .ok ws =>
    let s := { s with ir := ws }
    if 2 ≤ ws.length ∧ pc.toNat % 8 ≠ 0 then .run .misalignedItem s
    else match decode ws with
      | .ok (i, _) => .run i s
      | .error e => .run .unassignedEncoding { s with arg := { k := e.k, w := e.w } }

/-- Whether the instruction whose first word is w uses `round`, `ftz` and `sat` (R128). -/
def usesRound (w : Nat) : Bool := w % 4 == 0 && (fld w 2 6 == 11 || fld w 2 6 == 12 || fld w 2 6 == 14)
def usesFtz (w : Nat) : Bool := w % 4 == 0 && decide (11 ≤ fld w 2 6) && decide (fld w 2 6 ≤ 14)
def usesSat (w : Nat) : Bool :=
  if w % 4 = 2 then fld w 2 6 == 2
  else match fld w 2 6 with
    | 1 => fld w 26 6 == 0 || fld w 26 6 == 1 || fld w 26 6 == 2 || fld w 26 6 == 26 || fld w 26 6 == 27
    | 2 => true
    | 11 => true
    | 12 => true
    | 14 => true
    | _ => false

/-- A prefix misuse before first word w (R128, R380). -/
def pfxMisuse (p : Pfx) (w : Nat) : Bool :=
  (!p.pen && (p.pneg || p.pred != 0)) || (p.round != 0 && !usesRound w) || (p.ftz && !usesFtz w) || (p.sat && !usesSat w)

/-- An orphan: the word after the prefix is a prefix, a record, `tgt`, or the start of a misaligned item at address A (R127). -/
def orphan (w : Nat) (A : Nat) : Bool := w % 4 == 1 || w % 4 == 3 || w == 0x08000000 || (w % 4 == 2 && A % 8 != 0)

/-- `mod` (R126–R129, R379, R380): the unit is checked as a whole. With a false predicate the instruction is passed over; else
the prefix is latched and the instruction issues next, before anything else. `tword` of an orphan holds the prefix in
[63:32] and the word after it in [31:0] (R362, R456). DEDUCED (unsafe; log entry 31): after a fetch fault it holds the words that could be fetched. -/
def execMod (s : State) : Out :=
  let w0 := s.ir.getD 0 0
  let p := Sys2Proof.pfxOf w0.toNat
  let A := s.me.pc + 4
  let trap := fun (code w1 tval : Nat) =>
    s.trapAt s.cur code false s.me.pc 0 (BitVec.ofNat 64 tval) (BitVec.ofNat 64 (2 ^ 32 * w0.toNat + w1)) 0
  match s.fetchWord s.myCtx A with
  | .error f => .next (s.fetchTrap f (2 ^ 32 * w0.toNat + s.wordAt A))
  | .ok w1 =>
    if orphan w1.toNat A.toNat then .next (trap 0x40 w1.toNat 1) else
    match s.fetchItem s.myCtx A with
    | .error f => .next (s.fetchTrap f (2 ^ 32 * w0.toNat + s.wordAt A))
    | .ok ws => match decode ws with
      | .error e => .next (trap 0x20 w1.toNat (2 ^ 32 * e.k + e.w.toNat))
      | .ok (_, n) =>
        if p.pen && !(s.P p.pred ^^ p.pneg) then
          .next (({ s with ir := w0 :: ws } : State).goto (A + BitVec.ofNat 64 (4 * n)))
        else if pfxMisuse p w1.toNat then .next (trap 0x40 w1.toNat 2)
        else .next (s.upd (fun b => { b with pfx := some p, pfxWord := w0, pc := A }))

end Sys2Proof.Machine
end

