-- ==== Sys2Proof/Machine/Meet.lean ====
section
/-! DEFINITION. Meet tags, meet locks, the overflow region and orphans, and fabric deliveries into rings and receivers
(R120, R199, R216–R220, R244, R263, R400, R406–R410). -/

namespace Sys2Proof.Machine

def Ctx.tag (c : Ctx) (t : Nat) : Tag := AMap.get Tag.zero c.tags t
def State.tag (s : State) (ctx t : Nat) : Tag := (s.ctx ctx).tag t
def State.setTag (s : State) (ctx t : Nat) (v : Tag) : State := s.updCtx ctx (fun c => { c with tags := AMap.set Tag.zero c.tags t v })

/-! ## The control word (R216) -/

def Tag.op (t : Tag) : Nat := fld t.ctl.toNat 0 2
def Tag.dring (t : Tag) : Bool := bitN t.ctl.toNat 2
def Tag.fmt (t : Tag) : Nat := fld t.ctl.toNat 16 16
/-- Bytes of one operand. -/
def Tag.bytes (t : Tag) : Nat := fld t.ctl.toNat 32 8 * 64
def Tag.ben (t : Tag) : Bool := bitN t.ctl.toNat 51
def Tag.bar (t : Tag) : Nat := fld t.ctl.toNat 52 12
/-- Bytes of a result: doubled for join. -/
def Tag.resBytes (t : Tag) : Nat := if t.op = 3 then 2 * t.bytes else t.bytes

/-- Whether a control word is one that `tagal` registers (R216, R381). -/
def ctlOk (v : Nat) : Bool :=
  let op := fld v 0 2
  let n := fld v 32 8
  let f := match fmtOf (fld v 16 16) with
    | some (.sparse _ _) => false
    | some _ => true
    | none => false
  fld v 3 13 == 0 && fld v 40 11 == 0 && decide (1 ≤ n) && decide (n ≤ 64)
    && (if op = 3 then fld v 16 16 == 0 else f) && (!(bitN v 51) || decide (fld v 52 12 < 0x100))

/-- Launch slot whose log takes the context's fabric events: that of its oldest resident launch. DESIGN CHOICE (unsafe; log entry 128): with two launches of a
context resident, no rule says whose log has the RING or ARRIVE of a meet result or an orphan. -/
def State.ctxLsl (s : State) (ctx : Nat) : Nat := (((s.ctx ctx).launches.find? (fun l => l.resident)).map (fun l => l.seq % 2)).getD 0

/-- `tagal` (R216). A replay takes the logged tag or refusal (R311). -/
def execTagal (d a b : GReg) (s : State) : Out :=
  let s := s.writeback s.cur
  let p := s.G a
  let v := (s.G b).toNat
  let n := fld v 32 8 * 64 * (if fld v 0 2 = 3 then 2 else 1)
  let go := fun (s : State) =>
    if !(ctlOk v) then s.illegal 0 (s.G b)
    else
      let take := fun (t : Nat) => s.gateC (s.logC s.cur 0x17 t 0) (fun s =>
        ((s.setTag s.myCtx t { Tag.zero with alloc := true, ctl := s.G b, dest := p }).setG d (BitVec.ofNat 64 t)).done 4)
      let refuse := s.gateC (s.logC s.cur 0x17 0xFFF 1) (fun s => (s.setG d (BitVec.allOnes 64)).done 4)
      match s.logMine s.cur 0x17 (fun q => !(bitN q.arg 1)) with
      | some (t, r) => if bitN r 0 then refuse else if (s.tag s.myCtx t).alloc then s.waitFor .log else take t
      | none => match (List.range 4096).find? (fun t => !(s.tag s.myCtx t).alloc) with
        | some t => take t
        | none => refuse
  .next (if bitN v 2 then (if (handleOf p).isNone then s.illegal 0 p else go s)
  else if fld p.toNat 0 50 % 64 ≠ 0 then s.trapC 3 p 64
  else match s.rangeCheck s.myCtx s.myLaunch.bndb p n .wr with
    | .error f => s.accessFault f
    | .ok _ => go s)

/-- The sending record's operand has been accepted (R260). -/
def State.accepted (s : State) (b : Nat) : State := s.updBerth b (·.sendAck 2)

/-- Whether an operand has been accepted: it has a slot of the matching store or of the region. -/
def MeetOp.kept (o : MeetOp) : Bool := o.stored || o.spilled.isSome

/-- Replaces the operand at position `pos` of a side. -/
def Tag.setOp (t : Tag) (side pos : Nat) (f : MeetOp → MeetOp) : Tag :=
  let g := fun (o : MeetOp) => if o.pos = pos then f o else o
  if side = 0 then { t with q0 := t.q0.map g } else { t with q1 := t.q1.map g }

/-- The operands held at the switch of stack k: context, tag, side, operand. -/
def State.heldAt (s : State) (k : Nat) : List (Nat × Nat × Nat × MeetOp) :=
  s.ctxs.flatMap (fun c => c.2.tags.flatMap (fun t =>
    let one : Nat → List MeetOp → List (Nat × Nat × Nat × MeetOp) := fun side q => (q.filter (fun o => o.lock == k && !o.kept)).map (fun o => (c.1, t.1, side, o))
    one 0 t.2.q0 ++ one 1 t.2.q1))

/-- The one that has been held longest. -/
def State.heldLongest (s : State) (k : Nat) : Option (Nat × Nat × Nat × MeetOp) :=
  (s.heldAt k).foldl (fun m x => match m with
    | none => some x
    | some y => if x.2.2.2.since < y.2.2.2.since then some x else some y) none

/-- A slot of the matching store of stack k becomes free: the operand held longest there takes it (R407). -/
def State.storeSlotFreed (s : State) (k : Nat) : State :=
  match s.heldLongest k with
  | some (ctx, t, side, o) => (s.accepted o.berth).setTag ctx t ((s.tag ctx t).setOp side o.pos (fun o => { o with stored := true }))
  | none => s.updStack k (fun x => { x with meetSlots := x.meetSlots - 1 })

/-- What an operand that leaves its queue held comes back (R407): a store slot of the lock's stack, or a slot of the region. -/
def State.freeSlot (s : State) (ctx : Nat) (o : MeetOp) : State :=
  let s := if o.stored then s.storeSlotFreed o.lock else s
  match o.spilled with
  | some n => s.updCtx ctx (fun c => { c with movUsed := AMap.set false c.movUsed n false })
  | none => s

/-- An orphan's header and operand (R409). -/
def orphanBytes (t : Tag) (tag pos berth why side : Nat) (data : List Byte) : List Byte :=
  leBytes (2 ^ 32 * (pos % 2 ^ 32) + 2 ^ 24 * fld t.ctl.toNat 32 8 + 2 ^ 16 * berth + 2 ^ 13 * why + 2 ^ 12 * side + tag) 64 ++ data

/-- The operand o, which has left its queue of tag T, becomes an orphan (R408–R410): it has been accepted, and its delivery to the orphan ring is on its
way. -/
def State.orphanOp (s : State) (ctx tag : Nat) (T : Tag) (side why : Nat) (o : MeetOp) : State :=
  let s := (if o.kept then s else s.accepted o.berth).freeSlot ctx o
  { s with mouts := s.mouts ++ [⟨ctx, tag, orphanBytes T tag o.pos o.berth why side o.data, o.pz, true, o.berth, o.lock, s.ev + 1⟩] }

/-- `tagfr` (R220, R410): waits for the deliveries of its tag, sends unmatched operands to the orphan ring in arrival order and
frees the tag. -/
def execTagfr (a : GReg) (s : State) : Out :=
  let s := s.writeback s.cur
  let v := s.G a
  let t := v.toNat
  .next (if 4095 < t ∨ !(s.tag s.myCtx t).alloc then s.illegal 0 v
  else if s.mouts.any (fun o => o.ctx == s.myCtx && o.tag == t && !o.orphan) then s.waitFor (.tagfr t)
  else
    s.gateC (s.logC s.cur 0x17 t 2) (fun s =>
      let T := s.tag s.myCtx t
      let ops := T.q0.map (fun o => (0, o)) ++ T.q1.map (fun o => (1, o))
      let ops := ops.mergeSort (fun x y => decide (x.2.since ≤ y.2.since))
      (ops.foldl (fun s x => s.orphanOp s.myCtx t T x.1 1 x.2) (s.setTag s.myCtx t Tag.zero)).done 4))

/-- `tagq` (R220), its outcome logged. DESIGN CHOICE (unsafe; log entry 127): R308 logs the low half of the value; in a replay the count of deliveries is
the one that stands. -/
def execTagq (d a : GReg) (s : State) : Out :=
  let v := s.G a
  .next (if 4095 < v.toNat then s.illegal 0 v
  else
    let T := s.tag s.myCtx v.toNat
    let w := BitVec.ofNat 64 (b2n T.alloc + 2 ^ 8 * min 255 T.q0.length + 2 ^ 16 * min 255 T.q1.length + 2 ^ 32 * (T.delivered % 2 ^ 32))
    s.testC v.toNat 0x1A 2 w (fun _ => true) (fun w s => (s.setG d w).done 4))

/-! ## The lock (R217, R218, R120, R407) -/

/-- The stack that a tag's operands go to (R217). -/
def State.lockOf (s : State) (ctx tag : Nat) : Nat :=
  let i := (mix64 (BitVec.ofNat 64 (4096 * ctx + tag))).toNat % max 1 s.nlive
  (maskList s.live).getD i 0

/-- Codes of width c bits packed into bytes, low bits first (R96), and back. -/
def unpackCodes (v c n : Nat) : List Nat := (List.range n).map (fun i => fld v (c * i) c)
def packCodes (xs : List Nat) (c : Nat) : Nat := xs.foldr (fun x acc => x % 2 ^ c + 2 ^ c * acc) 0

/-- One combined element (R115, R116, R120): a sum of integers wraps (R107). -/
def combine1 (f : NFmt) (op x y : Nat) : Nat :=
  let a := f.dec x; let b := f.dec y
  match f with
  | .int w _ => if op = 0 then (x + y) % 2 ^ w
    else f.enc (if op = 1 then (if xcmp a b == -1 then b else a) else if xcmp a b == 1 then b else a) 0 false false 0
  | _ => f.enc (if op = 0 then xadd false a b else if op = 1 then xmax a b else xmin a b) 0 false false 0

/-- The result of a meeting: by the sides, never by arrival (R218). -/
def Tag.combine (t : Tag) (x y : List Byte) : List Byte :=
  if t.op = 3 then x ++ y else
  match fmtOf t.fmt with
  | none => []
  | some f =>
    let c := f.container
    let n := 8 * t.bytes / c
    leBytes (packCodes (List.zipWith (combine1 f t.op) (unpackCodes (leNat x) c n) (unpackCodes (leNat y) c n)) c) t.bytes

/-- The entry of an engine fault (R366): the earliest-appended record in state 5 is reported, asynchronously. -/
def State.engineTrap (s : State) (b : Nat) : State :=
  let s := (s.writeback b).dropWait b
  match (s.berth b).recs.find? (fun r => r.st == .faulted) with
  | none => s
  | some r => s.trapAt b r.fcode true (s.berth b).unitPc r.faddr r.fval (BitVec.ofNat 64 r.word0.toNat) r.flane

/-- The strand of berth b enters the fault that a queue of it has stopped with (R366): at once, unless C is past a grant point, C has made its cut for a
trap of its own, or the cycle is not over. -/
def State.enterFault (s : State) (b : Nat) : State :=
  if s.cont || s.cBusy b || (s.berth b).cut then s else s.engineTrap b

/-- The sending record's issue has faulted (R366, R410): the message, which `gone` takes away, has no effect and the issue is repeated after the handler. -/
def State.sendFault (s : State) (b q code : Nat) (gone : State → State) : State :=
  let s := gone s
  let B := s.berth b
  match B.recs.find? (fun r => r.q == q && r.st == .started) with
  | none => s
  | some r =>
    let val := if r.opn = 4 then BitVec.ofNat 64 (r.r.imm.toNat % 4096) else r.r.imm
    let s := s.setBerth b { B with recs := B.recs.map (fun x => if x.q == q && x.st == .started then
      { x with st := .faulted, point := x.point - 1, sent := x.sent - 1, fcode := code, faddr := 0, fval := val, flane := 0x10000 } else x) }
    s.enterFault b

/-- An operand waits (R407): in a slot of the matching store when one is free, else held at the switch. -/
def State.parkOp (s : State) (m : MeetMsg) (pos : Nat) : State × MeetOp :=
  let free := (s.stack m.lock).meetSlots < 512
  let o : MeetOp := ⟨pos, m.data, m.pz, m.berth, none, free, m.lock, s.ev⟩
  if free then ((s.updStack m.lock (fun k => { k with meetSlots := k.meetSlots + 1 })).accepted m.berth, o) else (s, o)

/-- Takes the first operand waiting at this lock off a side's queue. -/
def takeAt (q : List MeetOp) (lock : Nat) : Option (MeetOp × List MeetOp) :=
  match q.find? (fun o => o.lock == lock) with
  | some o => some (o, q.erase o)
  | none => none

/-- The gate of an operand's pairing (R308). -/
def State.meetGate (s : State) (m : MeetMsg) : Gate :=
  let T := s.tag m.ctx m.tag
  let idx := (((s.berth m.berth).recs.find? (fun r => r.q == 2 && r.st == .started)).map (·.idx)).getD 0
  s.logR m.berth 2 idx 0x19 (m.tag + 2 ^ 12 * s.rank m.lock) ((if m.side = 0 then T.n0 else T.n1) % 2 ^ 32 + 2 ^ 32 * m.side)

/-- The stack that a result or an orphan goes to (R84): that of its ring, or the home of its place. -/
def State.goesTo (s : State) (o : MeetOut) : Nat :=
  let T := s.tag o.ctx o.tag
  let ring := fun (h : Word) => match handleOf h with
    | some (c, _) => c / 16
    | none => o.stk
  if o.orphan then ring (BitVec.ofNat 64 (fld (s.ctx o.ctx).morph.toNat 0 16))
  else if T.dring then ring T.dest
  else match s.xlate o.ctx (fld T.dest.toNat 0 50) 0 .wr with
    | .ok l => s.home l.pa
    | .error _ => o.stk

/-- Whether a ring has no room for a delivery that has reached it. -/
def State.ringFull (s : State) (c d : Nat) : Bool := let r := (s.core c).ring d; ringEn r.desc && decide (ringN r.desc ≤ r.used)

/-- Whether a result or an orphan has reached a ring that is full (R199). -/
def State.outWaits (s : State) (o : MeetOut) : Bool :=
  let T := s.tag o.ctx o.tag
  (o.orphan || T.dring) && match handleOf (if o.orphan then BitVec.ofNat 64 (fld (s.ctx o.ctx).morph.toNat 0 16) else T.dest) with
    | some (c, d) => s.ringFull c d
    | none => false

/-- Whether a message of the meet class that left stack `src` for another stack `dst` in event `iss` comes after one still on its way there (R29, R84). One
that has arrived and waits there for its ring or for its turn in the log is no longer on its way. -/
def State.meetClassAhead (s : State) (src dst iss : Nat) : Bool :=
  src != dst && (s.meets.any (fun m => m.stk == src && m.lock == dst && decide (m.iss < iss) && !(s.meetGate m).held)
    || s.mouts.any (fun o => o.stk == src && s.goesTo o == dst && decide (o.iss < iss) && !(s.outWaits o))
    || s.rmsgs.any (fun m => stackOf m.berth == src && m.core / 16 == dst && decide (m.iss < iss) && !(s.ringFull m.core m.desc)))

/-- MEET_OPERAND_ARRIVE (R217, R218, R407, R410): operand `arg.k` reaches its lock, in its stack's issue order. It pairs with the
other side's oldest operand, or waits. -/
def execMeetOperandArrive (s : State) : Out :=
  let k := s.arg.k
  match s.meets[k]? with
  | none => .next s
  | some m =>
    if (s.meets.take k).any (fun x => x.stk == m.stk && x.lock == m.lock && !(s.meetGate x).held) || s.meetClassAhead m.stk m.lock m.iss then .next s else
    let T := s.tag m.ctx m.tag
    let s1 := { s with meets := s.meets.eraseIdx k }
    if !T.alloc then .next (s.sendFault m.berth 2 0x53 (fun s => { s with meets := s.meets.eraseIdx k })) else
    let pos := if m.side = 0 then T.n0 else T.n1
    .next (match s1.meetGate m with
    | .hold => s
    | .bad s => s
    | .go s =>
      let T := if m.side = 0 then { T with n0 := T.n0 + 1 } else { T with n1 := T.n1 + 1 }
      let s := if m.pz then s.cki m.ctx 0 0xC5 m.berth false else s
      match takeAt (if m.side = 0 then T.q1 else T.q0) m.lock with
      | some (o, rest) =>
        let T := if m.side = 0 then { T with q1 := rest } else { T with q0 := rest }
        let (x, y) := if m.side = 0 then (m.data, o.data) else (o.data, m.data)
        let s := (s.accepted m.berth).setTag m.ctx m.tag T
        let s := (if o.kept then s else s.accepted o.berth).freeSlot m.ctx o
        let pos0 := if m.side = 0 then pos else o.pos
        { s with mouts := s.mouts ++ [⟨m.ctx, m.tag, T.combine x y, m.pz || o.pz, false, pos0, m.lock, s.ev + 1⟩] }
      | none =>
        let (s, o) := s.parkOp m pos
        s.setTag m.ctx m.tag (if m.side = 0 then { T with q0 := T.q0 ++ [o] } else { T with q1 := T.q1 ++ [o] }))

/-- The operand at position `pos` of a side. -/
def Tag.opAt (t : Tag) (side pos : Nat) : Option MeetOp := (if side = 0 then t.q0 else t.q1).find? (fun o => o.pos == pos)

/-- Overflow slots of a context (R406). -/
def Ctx.movSlots (c : Ctx) : Nat := if fld c.movf.toNat 58 6 < 16 ∨ 34 < fld c.movf.toNat 58 6 then 0 else 2 ^ (fld c.movf.toNat 58 6 - 12)
/-- Virtual address of overflow slot n. -/
def Ctx.movVa (c : Ctx) (n : Nat) : Nat := 4096 * fld c.movf.toNat 12 38 + 4096 * n

/-- Writes an operand to a free slot of the overflow region (R407); none without room. -/
def State.spillOp (s : State) (ctx tag side : Nat) (o : MeetOp) : Option State :=
  let c := s.ctx ctx
  match (List.range c.movSlots).find? (fun n => !(AMap.get false c.movUsed n)) with
  | none => none
  | some n => match s.writeVA2 ctx (c.movVa n) o.data with
    | .error _ => none
    | .ok s =>
      let s := s.updCtx ctx (fun c => { c with movUsed := AMap.set false c.movUsed n true })
      some (s.setTag ctx tag ((s.tag ctx tag).setOp side o.pos (fun o => { o with spilled := some n, stored := false })))

/-- SPILL_HOLD_EXPIRY (R407): the hold of the operand `arg.k` of side `arg.side` of tag `arg.tag` ends. A store slot that is free is
taken; else a free slot of the overflow region, and `spl` is set; else it stays at the switch. -/
def execSpillHoldExpiry (s : State) : Out :=
  let ctx := s.arg.ctx
  let t := s.arg.tag
  match (s.tag ctx t).opAt s.arg.side s.arg.k with
  | none => .next s
  | some o =>
    if o.kept then .next s
    else if (s.stack o.lock).meetSlots < 512 then
      .next ((((s.updStack o.lock (fun k => { k with meetSlots := k.meetSlots + 1 })).accepted o.berth).setTag ctx t
        ((s.tag ctx t).setOp s.arg.side s.arg.k (fun o => { o with stored := true }))))
    else match s.spillOp ctx t s.arg.side o with
      | none => .next s
      | some s => .next ((s.accepted o.berth).cki ctx 5 0xE5 o.berth false)

/-- ORPHAN_TIMEOUT (R408): the operand `arg.k` of side `arg.side` of tag `arg.tag` has waited `otmo`; never when `otmo` is 0 or a
deterministic launch of the context is resident. -/
def execOrphanTimeout (s : State) : Out :=
  let ctx := s.arg.ctx
  let t := s.arg.tag
  let T := s.tag ctx t
  if fld (s.ctx ctx).morph.toNat 48 16 = 0 ∨ (s.ctx ctx).launches.any (fun l => l.resident && l.det) then .next s else
  match T.opAt s.arg.side s.arg.k with
  | none => .next s
  | some o =>
    let T' := if s.arg.side = 0 then { T with q0 := T.q0.erase o } else { T with q1 := T.q1.erase o }
    .next ((s.setTag ctx t T').orphanOp ctx t T s.arg.side 0 o)

/-! ## Deliveries (R199, R219, R409) -/

/-- The enabled ring of a handle on a core that holds the context. DESIGN CHOICE (unsafe; log entry 91): a handle of a core that does not hold
the tag's context counts as a disabled ring (an orphan with why 2, or at the orphan ring the context fault); R219 and R400 name only the
disabled ring. -/
def State.ringFor (s : State) (ctx : Nat) (h : Word) : Option (Nat × Nat × Ring) :=
  match handleOf h with
  | some (c, d) =>
    let r := (s.core c).ring d
    if ringEn r.desc && (s.core c).held == some ctx then some (c, d, r) else none
  | none => none

/-- A fabric delivery of bytes into a ring that has room (R199, R219): a slot claimed, logged in launch slot `lsl` under its grant number (R307) and
released. -/
def State.ringPut (s : State) (ctx lsl c d : Nat) (owner : Nat) (data : List Byte) (pz : Bool) (t : Tok) : Gate :=
  let r := (s.core c).ring d
  match s.logGate ctx lsl ⟨0x10, s.ringObj c d, ringArg r.tail owner r.grants, 4, 0xFFFFFFFF, 0xFF, r.grants % 2 ^ 32⟩ with
  | .go s =>
    let (k, r') := r.claim owner
    let s := s.updCore c (fun x => x.spWrite (ringSlot r.desc k) data pz)
    .go (s.setRing c d (r'.fill k t))
  | x => x

/-- Whether two results or orphans go to one ring. -/
def State.sameRing (s : State) (x y : MeetOut) : Bool :=
  let dest := fun (o : MeetOut) => if o.orphan then fld (s.ctx o.ctx).morph.toNat 0 16 else (s.tag o.ctx o.tag).dest.toNat
  dest x == dest y

/-- Ends a delivery: the message leaves, the tag counts it. -/
def State.meetCounted (s : State) (k : Nat) (o : MeetOut) : State :=
  let s := { s with mouts := s.mouts.eraseIdx k }
  if o.orphan then s else s.setTag o.ctx o.tag { s.tag o.ctx o.tag with delivered := (s.tag o.ctx o.tag).delivered + 1 }

/-- A combined result goes to the orphan ring instead (R219, R400, R409). -/
def State.meetOrphaned (s : State) (k why : Nat) (o : MeetOut) : State :=
  let s := s.meetCounted k o
  { s with mouts := s.mouts ++ [⟨o.ctx, o.tag, orphanBytes (s.tag o.ctx o.tag) o.tag o.pos 0xFF why 0 o.data, o.pz, true, 0xFF, o.stk, s.ev + 1⟩] }

/-- An arrival by a delivery, after what K tells (R219, R397, R400): code 0xE5 beyond E + X, context fault 0x55 without a gang. -/
def State.deliveryArrive (s : State) (ctx g : Nat) (K : Clock) : Gate :=
  if !(s.gangExists ctx g) then .go (s.ctxFault ctx 0x55 0xFF (s.launch ctx (s.ctxLsl ctx)).seq false)
  else
    let lsl := s.ctxLsl ctx
    s.afterDue ctx (.gang g) (fun s =>
      match s.logGate ctx lsl ⟨0x11, g, arriveArg (s.bar ctx (.gang g)) false, 4, 0xFFFFFFFF, 0xFF, (s.bar ctx (.gang g)).a⟩ with
      | .go s => s.arrive ctx lsl (.gang g) false none 5 K
      | x => x)

/-- Delivery of an orphan (R409). -/
def State.deliverOrphan (s : State) (k : Nat) (o : MeetOut) : State :=
  match s.ringFor o.ctx (BitVec.ofNat 64 (fld (s.ctx o.ctx).morph.toNat 0 16)) with
  | none => ({ s with mouts := s.mouts.eraseIdx k } : State).ctxFault o.ctx 0x55 0xFF (s.launch o.ctx (s.ctxLsl o.ctx)).seq false
  | some (c, d, r) =>
    if ringN r.desc ≤ r.used then s
    else match s.ringPut o.ctx (s.ctxLsl o.ctx) c d 4 (o.data.take (ringSz r.desc)) o.pz Tok.empty with
      | .go s => ((if o.pz then s.sentPoison o.ctx 0xC5 0xFF else s).meetCounted k o).cki o.ctx 4 0xE5 o.pos false
      | .hold => s
      | .bad s => s

/-- Marks the granules of n bytes written at virtual address va, of however many pages (R392). -/
def State.spoilVA (s : State) (ctx va n : Nat) : State :=
  (List.range (cdiv n 32)).foldl (fun s i => match s.xlate ctx (va + 32 * i) 0 .wr with
    | .ok l => s.setPoison l.pa 1
    | .error _ => s) s

/-- MEET_RESULT_DELIVERY (R219, R400, R409, R410): result or orphan `arg.k` reaches its destination. It tells nothing of what happened before its
operands were sent. -/
def execMeetResultDelivery (s : State) : Out :=
  let k := s.arg.k
  match s.mouts[k]? with
  | none => .next s
  | some o =>
    if (s.ctx o.ctx).pendFault.isSome || (s.ctx o.ctx).frozen then .next s
    else if (s.mouts.take k).any (fun x => x.stk == o.stk && s.goesTo x == s.goesTo o && (!(s.outWaits x) || s.sameRing x o))
        || s.meetClassAhead o.stk (s.goesTo o) o.iss then .next s
    else if o.orphan then .next (s.deliverOrphan k o)
    else
      let T := s.tag o.ctx o.tag
      if T.dring then
        match s.ringFor o.ctx T.dest with
        | none => .next (s.meetOrphaned k 2 o)
        | some (c, d, r) =>
          if ringSz r.desc < o.data.length then .next (s.meetOrphaned k 3 o)
          else if ringN r.desc ≤ r.used then .next s
          else .next (match s.ringPut o.ctx (s.ctxLsl o.ctx) c d 4 o.data o.pz Tok.empty with
            | .go s => (if o.pz then s.sentPoison o.ctx 0xC5 0xFF else s).meetCounted k o
            | .hold => s
            | .bad s => s)
      else
        let lsl := s.ctxLsl o.ctx
        let va := fld T.dest.toNat 0 50
        let me := threadOf 0 s.ev 4
        match s.writeVAby (State.storeBy me o.ctx) o.ctx va o.data 3 with
        | .error f => .next (s.deviceFault o.ctx f 5 (s.launch o.ctx lsl).seq)
        | .ok s1 =>
          let s1 := if o.pz then (s1.spoilVA o.ctx va o.data.length).sentPoison o.ctx 0xC5 0xFF else s1
          .next (if T.ben then match s1.deliveryArrive o.ctx T.bar [(me, s.ev + 1)] with
            | .go s => s.meetCounted k o
            | .hold => s
            | .bad s => s
          else s1.meetCounted k o)

/-- RING_DELIVERY (R199, R263): the bytes of `s.ring` message `arg.k` reach the ring's core, in the order of their stacks' sends (R29); it waits
while the ring is full. On the sender's own core the slot names the record (R57, R236). -/
def execRingDelivery (s : State) : Out :=
  let k := s.arg.k
  match s.rmsgs[k]? with
  | none => .next s
  | some m =>
    let r := (s.core m.core).ring m.desc
    let gone := fun (s : State) => ({ s with rmsgs := s.rmsgs.eraseIdx k } : State)
    if (s.rmsgs.take k).any (fun x => stackOf x.berth == stackOf m.berth && x.core / 16 == m.core / 16
        && (if stackOf m.berth != m.core / 16 then !(s.ringFull x.core x.desc) || (x.core == m.core && x.desc == m.desc)
          else x.core == m.core && x.desc == m.desc && x.berth == m.berth)) || s.meetClassAhead (stackOf m.berth) (m.core / 16) m.iss then .next s
    else if !(ringEn r.desc) || (s.core m.core).held != some m.ctx || ringSz r.desc < m.data.length then .next (s.sendFault m.berth 2 0x53 gone)
    else if ringN r.desc ≤ r.used then .next s
    else
      let own := coreOf m.berth = m.core
      let ids := match (s.berth m.berth).recs.find? (fun x => x.q == 2 && x.st == .started) with
        | some x => if own then (2, x.idx) :: x.joins else []
        | none => []
      .next (match s.ringPut m.ctx m.lsl m.core m.desc (if own then m.berth % 2 * 8 + 3 else 4) m.data m.pz ⟨ids, (s.berth m.berth).tid, m.clk⟩ with
      | .go s => (gone s).accepted m.berth
      | .hold => s
      | .bad s => s)

/-- What a receiver of an `l.mc` writes: the message's bytes at its `mcb` as it stands at the delivery; a last byte that is only partly written keeps
the receiver's other bits, and nothing is written past the scratchpad (R244). DESIGN CHOICE (unsafe; log entry 100): `mcb` was in range when the issue
was checked, and R244 does not say what happens when it has changed since. -/
def Core.land (c : Core) (m : McMsg) : Core :=
  let off := c.mcb.toNat + m.lo
  let n := m.data.length
  let last := (AMap.get 0 c.sp (off + n - 1)).toNat
  let bs := if m.tail = 0 then m.data
    else m.data.dropLast ++ [BitVec.ofNat 8 (fld (m.data.getLastD 0).toNat 0 m.tail + 2 ^ m.tail * fld last m.tail (8 - m.tail))]
  c.spWrite off (bs.take (0x400000 - off)) m.pz

/-- MULTICAST_DELIVERY (R201, R244, R397): message `arg.k` of an `l.mc` reaches its receiver: along the chain from receiver to receiver, and at
each in issue order. A core that another context has come to hold since takes nothing (R69; log entry 100). After the last issue the receiver arrives at its core barrier; that release covers the issuing strand on the same core
only. -/
def execMulticastDelivery (s : State) : Out :=
  let k := s.arg.k
  match s.mcs[k]? with
  | none => .next s
  | some m =>
    if (s.mcs.take k).any (fun x => x.berth == m.berth && (x.core == m.core || x.issue == m.issue)) then .next s else
    if (s.core m.core).held ≠ some m.ctx then .next (({ s with mcs := s.mcs.eraseIdx k } : State).updBerth m.berth (·.sendAck 0)) else
    let s1 := s.updCore m.core (·.land m)
    let own := coreOf m.berth = m.core
    let done := fun (s : State) => ({ s with mcs := s.mcs.eraseIdx k } : State).updBerth m.berth (·.sendAck 0)
    if !m.last then .next (done s1) else
    let s1 := if own then s1.publish m.berth 0 else s1
    let i := BarId.core m.core m.rb
    let lsl := (s.berth m.berth).lsl
    .next (match s1.afterDue m.ctx i (fun s1 =>
      match s1.logGate m.ctx lsl ⟨0x11, s.barObj i, arriveArg (s1.bar m.ctx i) false, 4, 0xFFFFFFFF, 0xFF, (s1.bar m.ctx i).a⟩ with
      | .go s2 => s2.arrive m.ctx lsl i false none 1 (if own then m.clk else [])
      | x => x) with
    | .go s => done s
    | .hold => s
    | .bad s => s)

end Sys2Proof.Machine
end

