-- ==== Sys2Proof/Machine/Pq.lean ====
section
/-! DEFINITION. The priority-queue unit (R265–R273, R411). A selection is started by `pqpop` or `pqpeek` and ends at
PQ_SELECTION_WRITEBACK. -/

namespace Sys2Proof.Machine

def Core.pq (c : Core) (n : Nat) : Pq := AMap.get Pq.zero c.pqs n
def State.setPq (s : State) (c n : Nat) (q : Pq) : State := s.updCore c (fun k => { k with pqs := AMap.set Pq.zero k.pqs n q })

/-- The entry's id (R265). -/
def PqEnt.id (e : PqEnt) : Nat := e.pay % 65536
def Pq.dead (q : Pq) (e : PqEnt) : Bool := AMap.get false q.inv e.id
/-- Discards every dead entry (R266). -/
def Pq.sweepDead (q : Pq) : Pq := { q with ents := q.ents.filter (fun e => !(q.dead e)) }
/-- e ranks before f: the lesser key, then the lower insertion number (R265). -/
def PqEnt.before (e f : PqEnt) : Bool := decide (e.key < f.key) || (e.key == f.key && decide (e.ins < f.ins))
/-- The best entry. -/
def Pq.best (q : Pq) : Option PqEnt :=
  q.ents.foldl (fun b e => match b with
    | none => some e
    | some f => if e.before f then some e else some f) none
def Pq.remove (q : Pq) (e : PqEnt) : Pq := { q with ents := q.ents.filter (· != e) }

/-- Object of a queue in the log (R308). -/
def State.pqObj (s : State) (c n : Nat) : Nat := n + s.logCore c * 4

/-- Whether the other berth of the core has a selection in progress on queue n (R271). -/
def State.pqBusy (s : State) (n : Nat) : Bool :=
  match (s.berth (s.cur ^^^ 1)).pq with
  | some p => p.n == n
  | none => false

/-- The queue named by G(b), whose reserved bits are zero but for those in `extra` (R267, R411). -/
def State.onPq (s : State) (b : GReg) (extra : Nat) (k : Nat → State) : State :=
  let v := (s.G b).toNat
  if fld v (2 + extra) (62 - extra) ≠ 0 then s.illegal 0 (s.G b) else k (v % 4)

/-- Argument of a PQ record (R308). -/
def pqArg (ops fn sels : Nat) (stale : Bool) : Nat := ops % 2 ^ 32 + 2 ^ 32 * sels + 2 ^ 35 * b2n stale + 2 ^ 36 * fn

/-- Logs a queue operation and counts its place in the queue's order (R273, R308); an operation that is held has had no effect: its selection is given
up, and the queue holds `back` again. DESIGN CHOICE (unsafe; log entry 134): a position counts the operations since the core was zeroed for the context,
those of other launches included. -/
def State.pqLog (s : State) (n fn sels : Nat) (stale : Bool) (back : List PqEnt) (k : State → State) : State :=
  let c := coreOf s.cur
  let q := (s.core c).pq n
  match s.logC s.cur 0x1A (s.pqObj c n) (pqArg q.ops fn sels stale) with
  | .go s => k (s.setPq c n { (s.core c).pq n with ops := q.ops + 1 })
  | g => ((s.gateC g k).setPq c n { (s.core c).pq n with ents := back }).upd (fun B => { B with pq := none })

/-- What queue n of the issuing strand's core holds. -/
def State.pqEnts (s : State) (n : Nat) : List PqEnt := ((s.core (coreOf s.cur)).pq n).ents

/-- What a replayed log says of the issuing strand's next operation when it is `fn` on queue n: selections made, and whether the entry was stale. -/
def State.pqLogged (s : State) (n fn : Nat) : Option (Nat × Bool) :=
  (s.logMine s.cur 0x1A (fun q => q.obj == s.pqObj (coreOf s.cur) n && fld q.arg 36 4 == fn)).map (fun x => (fld x.2 32 3, bitN x.2 35))

/-- Whether the issuing strand's record comes next among the queue's, `pqinv` of others left out where `early` (R271, R311). -/
def State.pqTurn (s : State) (n : Nat) (early : Bool) : Bool :=
  let B := s.me
  let mine : LogReq := ⟨0x1A, s.pqObj (coreOf s.cur) n, 0, 0, B.handle.toNat, s.logBerth s.cur, B.pixc⟩
  match s.logNext B.ctx B.lsl (fun q => q.sameObj mine && (q.sameParty mine || !early || fld q.arg 36 4 != 3)) with
  | .found _ q => q.sameParty mine
  | _ => false

/-- `pqins` (R267, R411). -/
def execPqins (d a b : GReg) (s : State) : Out :=
  .next (s.onPq b 0 (fun n =>
    if s.pqBusy n then s.stall else
    s.pqLog n 0 0 false (s.pqEnts n) (fun s =>
      let c := coreOf s.cur
      let q := (s.core c).pq n
      let q := if 8192 ≤ q.ents.length then q.sweepDead else q
      let v := (s.G a).toNat
      if 8192 ≤ q.ents.length then
        (((s.setPq c n q).cki s.myCtx 2 0xE6 s.cur false).setG d (BitVec.allOnes 64)).done 4
      else
        let q := { q with ents := q.ents ++ [⟨fld v 0 32, fld v 32 32, q.ctr⟩], ctr := (q.ctr + 1) % 2 ^ 32 }
        ((s.setPq c n q).setG d (BitVec.ofNat 64 q.ents.length)).done 4)))

/-- `fn` of a selection. -/
def pqFn (remove : Bool) : Nat := if remove then 1 else 2

/-- The end of a selection that finds no live entry (R268). -/
def Berth.pqEmpty (B : Berth) (d : GReg) (f p : PReg) : Berth :=
  { ((B.setG d (BitVec.allOnes 64)).setP f false).setP p false with pq := none }

/-- The start of a selection (R266, R269): dead entries are discarded, the candidate fixed; with no entry held the instruction ends. A replay writes
the number of selections that its log has. -/
def State.pqSelect (s : State) (p : PqSel) (sels : Nat) : State :=
  let c := coreOf s.cur
  let q := ((s.core c).pq p.n).sweepDead
  let s' := s.setPq c p.n q
  match q.best with
  | none => s'.pqLog p.n (pqFn p.remove) sels false p.ents (fun s => (s.upd (·.pqEmpty p.d p.f p.s)).done 4)
  | some e => s'.upd (fun B => { B with pq := some { p with cand := some (e.key, e.pay, e.ins) } })

/-- `pqpop` and `pqpeek`: the first selection starts. A replay lets it start in its turn, and one whose candidates died of another berth's `pqinv` before
those of them that its log puts ahead (R273, R311). -/
def State.pqStart (s : State) (d : GReg) (f p : PReg) (n : Nat) (remove : Bool) : State :=
  let sel : PqSel := ⟨d, f, p, n, 0, none, remove, s.ir, s.pqEnts n⟩
  if !s.myLaunch.follows then s.pqSelect sel 1 else
  match s.pqLogged n (pqFn remove) with
  | some (m, stale) => if s.pqTurn n (decide (1 < m) || stale) then s.pqSelect sel m else s.waitFor .log
  | none => s.gateC (s.logC s.cur 0x1A (s.pqObj (coreOf s.cur) n) (pqArg 0 (pqFn remove) 0 false)) (fun s => s.pqSelect sel 1)

/-- `pqpop` (R267–R269). -/
def execPqpop (d : GReg) (f s' : PReg) (b : GReg) (s : State) : Out :=
  .next (s.onPq b 0 (fun n => if s.pqBusy n || s.me.pq.isSome then s.stall else s.pqStart d f s' n true))

/-- `pqpeek` (R267–R269). -/
def execPqpeek (d : GReg) (f s' : PReg) (b : GReg) (s : State) : Out :=
  .next (s.onPq b 0 (fun n => if s.pqBusy n || s.me.pq.isSome then s.stall else s.pqStart d f s' n false))

/-- Ends a selection that returns an entry (R268, R269). -/
def State.pqReturn (s : State) (p : PqSel) (e : PqEnt) (sels : Nat) (stale : Bool) : State :=
  s.pqLog p.n (pqFn p.remove) sels stale p.ents (fun s =>
    let c := coreOf s.cur
    let q := (s.core c).pq p.n
    let s := if p.remove then s.setPq c p.n (q.remove e) else s
    (s.upd (fun B => { ((B.setG p.d (BitVec.ofNat 64 (e.key + 2 ^ 32 * e.pay))).setP p.f true).setP p.s stale with pq := none })).done 4)

/-- A dead candidate is dropped; the next selection starts in a later cycle (R269). -/
def State.pqDrop (s : State) (p : PqSel) (e : PqEnt) (tries : Nat) : State :=
  (s.setPq (coreOf s.cur) p.n (((s.core (coreOf s.cur)).pq p.n).remove e)).upd (fun B => { B with pq := some { p with tries := tries, cand := none } })

/-- PQ_SELECTION_WRITEBACK (R269, R271): a selection that was to start does; else the candidate's bit is checked again, a dead one is dropped, the fifth
is returned stale. A replay keeps to the number of selections and the stale flag of its log (R273): it holds a candidate that is still to die, and the
last until its turn. -/
def execPqSelectionWriteback (s : State) : Out :=
  let b := s.arg.b
  match (s.berth b).pq with
  | none => .next s
  | some p =>
    let s : State := { s with cur := b, ir := p.words }
    let logged := s.pqLogged p.n (pqFn p.remove)
    .next (match p.cand with
    | none => s.pqSelect p ((logged.map (·.1)).getD (p.tries + 1))
    | some (key, pay, ins) =>
      let e : PqEnt := ⟨key, pay, ins⟩
      let dead := ((s.core (coreOf b)).pq p.n).dead e
      match logged with
      | none => if !dead then s.pqReturn p e (p.tries + 1) false
          else if 4 ≤ p.tries then s.pqReturn p e 5 true
          else s.pqDrop p e (p.tries + 1)
      | some (m, stale) =>
        let turn := s.pqTurn p.n false
        if p.tries + 1 < m then (if dead then s.pqDrop p e (p.tries + 1) else if turn then s.pqReturn p e m false else s)
        else if !turn then s
        else if dead && !stale then s.pqDrop p e p.tries
        else s.pqReturn p e m dead)

/-- Whether a replay holds a `pqinv` of the issuing strand: the log has the other berth's pop or peek of queue n next but for `pqinv`, it made m selections
or returned a stale entry, so that at least m − 1 bit writes before it, one more with a stale entry, fell after its start, and it has yet to start
(R273, R311). -/
def State.pqHeld (s : State) (n : Nat) : Bool :=
  let B := s.me
  let obj := s.pqObj (coreOf s.cur) n
  let mine := fun (q : LogReq) => q.typ == 0x1A && q.obj == obj
  if !s.myLaunch.follows || s.pqBusy n then false else
  match s.logNext B.ctx B.lsl (fun q => mine q && fld q.arg 36 4 != 3) with
  | .found j q =>
    (fld q.arg 36 4 == 1 || fld q.arg 36 4 == 2) && q.src != s.logBerth s.cur
      && decide (s.logTally B.ctx B.lsl mine 0 j + 1 ≤ fld q.arg 32 3 + b2n (bitN q.arg 35))
  | _ => false

/-- `pqinv` (R266, R267): does not wait for a selection (R271); a replay lets those that a selection raced follow its start. -/
def execPqinv (a b : GReg) (s : State) : Out :=
  .next (s.onPq b 1 (fun n =>
    let v := (s.G a).toNat
    if fld v 16 48 ≠ 0 then s.illegal 0 (s.G a)
    else if s.pqHeld n then s.waitFor .log
    else s.pqLog n 3 0 false (s.pqEnts n) (fun s =>
      let c := coreOf s.cur
      let q := (s.core c).pq n
      (s.setPq c n { q with inv := AMap.set false q.inv v (bitN (s.G b).toNat 2) }).done 4)))

/-- `pqclr` (R267). -/
def execPqclr (b : GReg) (s : State) : Out :=
  .next (s.onPq b 0 (fun n =>
    if s.pqBusy n then s.stall
    else s.pqLog n 4 0 false (s.pqEnts n) (fun s =>
      let c := coreOf s.cur
      (s.setPq c n { (s.core c).pq n with ents := [], inv := [], ctr := 0 }).done 4)))

/-- `pqcnt` (R267, R270). -/
def execPqcnt (d b : GReg) (s : State) : Out :=
  .next (s.onPq b 0 (fun n => s.pqLog n 5 0 false (s.pqEnts n) (fun s =>
    let q := (s.core (coreOf s.cur)).pq n
    (s.setG d (BitVec.ofNat 64 (q.ents.length + 2 ^ 32 * q.inv.length))).done 4)))

end Sys2Proof.Machine
end

