-- ==== Sys2Proof/Machine/Task.lean ====
section
/-! DEFINITION. Task instructions, stage queues, dependence counters and the copy schedule (R40–R48, R206–R209, R389, R398,
R401, R403, R415). -/

namespace Sys2Proof.Machine

/-! ## Stage queues (R40–R43) -/

/-- Capacity of stage queue i. -/
def Launch.cap (l : Launch) (i : Nat) : Nat := 2 ^ l.qlog i
/-- The slot of record number j. -/
def Launch.slotOf (l : Launch) (i j : Nat) : TaskSlot := AMap.get TaskSlot.zero (l.stage i).slots (j % l.cap i)
/-- Sets slot index k of stage i. -/
def Launch.setSlot (l : Launch) (i k : Nat) (t : TaskSlot) : Launch :=
  l.updStage i (fun q => { q with slots := AMap.set TaskSlot.zero q.slots k t })
/-- Record numbers in the queue, oldest first. -/
def StageQ.inQueue (q : StageQ) : List Nat := (List.range (q.tail - q.head)).map (· + q.head)
/-- A task that may be granted (R43). One whose record has not been read yet is a candidate: its count is read with it (R468). -/
def TaskSlot.eligible (t : TaskSlot) : Bool := t.committed && !t.granted && (t.unread || t.cnt == 0)
/-- The eligible task nearest the head (R43). -/
def Launch.nextTask (l : Launch) (i : Nat) : Option Nat := (l.stage i).inQueue.find? (fun j => (l.slotOf i j).eligible)
/-- Number of eligible tasks. -/
def Launch.nEligible (l : Launch) (i : Nat) : Nat := ((l.stage i).inQueue.filter (fun j => (l.slotOf i j).eligible)).length
/-- Tasks queued or granted (R49). -/
def Launch.nTasks (l : Launch) (i : Nat) : Nat :=
  ((l.stage i).inQueue.filter (fun j => (l.slotOf i j).committed && !(l.slotOf i j).ended)).length

/-- The handle of record number j of stage i (R41). -/
def Launch.handle (l : Launch) (i j : Nat) : Nat := 2 ^ 29 * i + 2 ^ 15 * (j / l.cap i % 16384) + j % l.cap i

/-- Frees ended records at the head (R45). -/
def Launch.advance (l : Launch) (i : Nat) : Nat → Launch
  | 0 => l
  | fuel + 1 =>
    let q := l.stage i
    if q.head < q.tail ∧ (l.slotOf i q.head).ended then
      ((l.setSlot i (q.head % l.cap i) TaskSlot.zero).updStage i (fun q => { q with head := q.head + 1 })).advance i fuel
    else l

/-! ## `tsub` (R206, R207) -/

/-- Whether a message of the control class that left stack `src` in event `iss` for the owner's stack comes after one still on its way there
(R29, R42). -/
def State.controlAhead (s : State) (src owner iss : Nat) : Bool :=
  s.tsubs.any (fun t => stackOf t.berth == src && ((s.launch t.ctx t.lsl).stage t.stage).owner == owner && decide (t.iss < iss) && !t.waits && t.held.isNone)
    || s.deps.any (fun m => m.src == src && ((s.launch m.ctx m.lsl).stage (fld m.handle 29 3)).owner == owner && decide (m.iss < iss))

/-- `tsub` (R207): the image is read and the earlier writes published at issue; the owner then reserves, and after the store commits
(TSUB_AT_OWNER). -/
def execTsub (d a b : GReg) (s : State) : Out :=
  let s := s.writeback s.cur
  let x := s.G a
  let y := s.G b
  .next (match s.me.answer with
  | some h => (s.setG d h).done 4
  | none =>
    if x.toNat % 64 ≠ 0 then s.trapC 3 x 64
    else if 0x400000 ≤ x.toNat then s.trapC 7 x 0
    else if fld y.toNat 3 61 ≠ 0 ∨ s.myLaunch.nst ≤ y.toNat then s.illegal 0 y
    else s.ranged 1 x.toNat 64 false (fun s => s.release 2 (fun s =>
      let pz := s.myCore.spPoison x.toNat 64
      let s := if pz then (s.sawPoison s.cur 0).sentPoison s.myCtx 0xC0 s.cur else s
      let r : TsubReq := ⟨s.cur, s.myCtx, s.me.lsl, y.toNat, memBytes s.myCore.sp x.toNat 64, pz, s.ev + 1, false, none, s.unitWords⟩
      ({ s with tsubs := s.tsubs ++ [r] } : State).waitFor .reply)))

/-- The tail slot of stage i is reserved (R207): neither eligible nor queued until it is committed. -/
def Launch.reserveSlot (l : Launch) (i : Nat) : Launch :=
  (l.setSlot i ((l.stage i).tail % l.cap i) { TaskSlot.zero with lap := (l.stage i).tail / l.cap i % 16384 }).updStage i
    (fun q => { q with tail := q.tail + 1 })

/-- The address of the queue slot of record number j. -/
def Launch.slotAddr (l : Launch) (i j : Nat) : Word := BitVec.ofNat 64 (l.qbase i + 64 * (j % l.cap i))

/-- Reserve (R207): the request waits while the queue is full or one that came earlier waits, else the tail slot is reserved, and logged. A slot that the
strand cannot store to traps the `tsub` with nothing reserved. -/
def State.tsubReserve (s : State) (r : TsubReq) : State :=
  let l := s.launch r.ctx r.lsl
  let q := l.stage r.stage
  let others := s.tsubs.filter (fun t => t.berth != r.berth)
  let first := if r.waits then s.tsubs.takeWhile (fun t => t.berth != r.berth) else others
  let behind := !l.follows && first.any (fun t => t.waits && t.held.isNone && t.ctx == r.ctx && t.lsl == r.lsl && t.stage == r.stage)
  if !r.waits && s.controlAhead (stackOf r.berth) q.owner r.iss then s
  else if decide (l.cap r.stage ≤ q.tail - q.head) || behind then
    (if r.waits then s else { s with tsubs := others ++ [{ r with waits := true }] })
  else match s.access r.ctx l.bndb (l.slotAddr r.stage q.tail) 64 .wr with
    | .error f => if f.cls = 0 then s else ({ s with tsubs := others } : State).faultAt r.berth f r.words
    | .ok _ => match s.logC r.berth 0x09 (l.handle r.stage q.tail) 0 with
      | .go s => ({ s with tsubs := others ++ [{ r with held := some q.tail }] } : State).updLaunch r.ctx r.lsl (·.reserveSlot r.stage)
      | .hold => s
      | .bad s => s

/-- Store, Release, Commit and the acknowledgement (R207), for reserved record number j. DESIGN CHOICE (unsafe; log entry 102): a store that has come
to fault since the reservation traps the `tsub`, and the slot is freed. -/
def State.tsubCommit (s : State) (r : TsubReq) (j : Nat) : State :=
  let b := r.berth
  let l := s.launch r.ctx r.lsl
  let k := j % l.cap r.stage
  let gone : State := { s with tsubs := s.tsubs.filter (fun t => t.berth != b) }
  match s.access r.ctx l.bndb (l.slotAddr r.stage j) 64 .wr with
  | .error f => if f.cls = 0 then s else
      (gone.updLaunch r.ctx r.lsl (fun l =>
        (l.setSlot r.stage k { AMap.get TaskSlot.zero (l.stage r.stage).slots k with ended := true }).advance r.stage (l.cap r.stage))).faultAt b f r.words
  | .ok pa =>
    let w := gone.storeOwn b pa r.img
    if !(w.mayPublish b 2) then s else
    let w := w.publish b 2
    let w := if r.pz then w.setPoison pa 64 else w
    let t : TaskSlot := ⟨leNat (r.img.take 2), true, false, false, j / l.cap r.stage % 16384, w.released b, false⟩
    (w.updLaunch r.ctx r.lsl (·.setSlot r.stage k t)).updBerth b (fun B => { B with answer := some (BitVec.ofNat 64 (l.handle r.stage j)) })

/-- TSUB_AT_OWNER (R41, R42, R45, R207): the request of berth `arg.b` reaches the owner, or what it holds is stored to and committed. DEDUCED (unsafe;
log entry 103): what happened before the commit happens before the start of the task. -/
def execTsubAtOwner (s : State) : Out :=
  .next (match s.tsubs.find? (fun t => t.berth == s.arg.b) with
  | none => s
  | some r => match r.held with
    | none => s.tsubReserve r
    | some j => s.tsubCommit r j)

/-! ## `tdone` (R45, R208, R369, R401) -/

/-- An unconsumed record of a replayed log that names C or a record of this task (R415). -/
def State.logLeft (s : State) (ctx lsl hnd k : Nat) : Nat → Option (Nat × Nat)
  | 0 => none
  | fuel + 1 => match s.readVA ctx ((s.launch ctx lsl).logSlot k) 32 with
    | .error _ => none
    | .ok bs =>
      let (q, _) := logRead (leNat bs)
      if q.typ = 2 ∨ q.typ = 3 then none
      else if 4 ≤ q.typ ∧ q.pk ≤ 3 ∧ q.hnd = hnd ∧ !(AMap.get false (s.launch ctx lsl).log.used k) then some (k, q.typ)
      else s.logLeft ctx lsl hnd (k + 1) fuel

/-- The task of berth b ends (R45): stores at .dev, the slot freed, the tokens left discarded (R401), the strand idle. -/
def State.endTask (s : State) (b : Nat) : State :=
  let B := s.berth b
  let h := B.handle.toNat
  let i := fld h 29 3
  let k := fld h 0 14
  let K := s.released b
  let s := s.trace b 1 0 0 B.unitPc 0 0
  let s := s.updLaunch B.ctx B.lsl (fun l =>
    { (l.setSlot i k { AMap.get TaskSlot.zero (l.stage i).slots k with ended := true }).advance i (l.cap i) with clk := l.clk.both K })
  s.updBerth b (fun B => { B with st := .idle, hasTask := false, waiting := .none, batch := 0,
                                  fifos := List.replicate 6 Fifo.zero, recs := [], hist := [], qfront := List.replicate 3 [0, 0, 0] })

/-- The unit of `tdone` completes; a step of it stops before the first unit of the strand's next task (R448). -/
def State.doneTask (s : State) : State :=
  let due := fun (n : Nat) (s : State) => s.upd (fun B => { B with dbg := { B.dbg with due := n } })
  if s.me.dbg.due = 4 then due 4 ((due 0 s).done 4) else s.done 4

/-- `tdone` (R45, R208): joins every record, then ends the task. -/
def execTdone (s : State) : Out :=
  .next ((s.writeback s.cur).notInHandler (fun s =>
    if !s.me.drained then s.waitFor .qdrain
    else (s.upd (·.joinAll)).release 2 (fun s =>
      let l := s.myLaunch
      let left := if l.rpl && !l.log.free then s.logLeft s.myCtx s.me.lsl s.me.handle.toNat 0 (s.lcnt s.myCtx s.me.lsl) else none
      match left with
      | some (k, t) => (s.upd (fun b => { b with pc := b.unitPc, pfx := none, haltF := true, cut := true })).diverge s.myCtx s.me.lsl k t 1
      | none => (s.endTask s.cur).doneTask)))

/-! ## `tdep` and decrements (R44, R46, R208, R403) -/

/-- A handle that names no slot of the launch (R381). -/
def Launch.badHandle (l : Launch) (h : Nat) : Bool :=
  bitN h 14 || decide (l.nst ≤ fld h 29 3) || decide (l.cap (fld h 29 3) ≤ fld h 0 14)

/-- `tdep` (R206, R208): a release at .dev, then the decrement travels. -/
def execTdep (a : GReg) (s : State) : Out :=
  let s := s.writeback s.cur
  let v := s.G a
  .next (if fld v.toNat 32 32 ≠ 0 ∨ s.myLaunch.badHandle v.toNat then s.illegal 0 v
  else s.release 2 (fun s =>
    ({ s with deps := s.deps ++ [⟨s.myCtx, s.me.lsl, v.toNat, stackOf s.cur, s.cur, s.ev + 1, s.released s.cur⟩] } : State).done 4))

/-- One decrement at the owner (R44, R403): the task starts after what happened before it (R46). One that changes nothing is a context fault, at which the
strand that sent it makes its cut (R372). -/
def State.decrement (s : State) (m : DepMsg) : State :=
  let l := s.launch m.ctx m.lsl
  let i := fld m.handle 29 3
  let k := fld m.handle 0 14
  let t := AMap.get TaskSlot.zero (l.stage i).slots k
  if l.badHandle m.handle ∨ !t.committed ∨ t.granted ∨ t.lap ≠ fld m.handle 15 14 ∨ (t.cnt = 0 ∧ !t.unread) then
    let B := s.berth m.berth
    (if B.residentOf m.ctx && B.lsl == m.lsl then s.haltAt m.berth 0x59 true 0 (BitVec.ofNat 64 m.handle) 0 0 else s).ctxFault m.ctx 0x59 m.berth l.seq false
  else s.updLaunch m.ctx m.lsl (fun l => l.setSlot i k { t with cnt := if t.unread then t.cnt + 1 else t.cnt - 1, clk := t.clk.both m.clk })

/-- DEP_DECREMENT (R44, R403): message `arg.k` reaches the owner; messages of one stack to one owner arrive in order (R29). -/
def execDepDecrement (s : State) : Out :=
  let k := s.arg.k
  match s.deps[k]? with
  | none => .next s
  | some m =>
    if s.controlAhead m.src ((s.launch m.ctx m.lsl).stage (fld m.handle 29 3)).owner m.iss then .next s
    else .next ({ s with deps := s.deps.eraseIdx k }.decrement m)

/-! ## `tstage` and the copy engine (R47, R48, R203, R389, R398) -/

/-- A copy entry's 256 bits. -/
def State.copyWord (s : State) (ctx : Nat) (l : Launch) (k : Nat) : Except MFault Nat :=
  match s.readVA ctx (l.f 384 64 + 32 * k) 32 with
  | .error f => .error f
  | .ok bs => .ok (leNat bs)

/-- Whether core c is one that the entry may use (R47): present, on a stack of the launch, with a resident strand of its context, which a
strand that is being saved still is until its berth is FREE (R34, R289). -/
def State.copyCoreOk (s : State) (ctx : Nat) (l : Launch) (c : Nat) : Bool :=
  s.corePresent c && bitN l.stks (c / 16) && [2 * c, 2 * c + 1].any (fun b => (s.berth b).residentOf ctx || ((s.berth b).ctx == ctx && (s.berth b).st == .save))

/-- Every page of a range (R389: bounds record 0 and translation). -/
def State.pagesOk (s : State) (ctx va n : Nat) (k : AKind) : Nat → Except MFault Unit
  | 0 => .ok ()
  | fuel + 1 =>
    if n = 0 then .ok () else
    let m := min n (65536 - va % 65536)
    match s.xlate ctx va (BitVec.ofNat 64 va) k with
    | .error f => .error f
    | .ok _ => s.pagesOk ctx (va + m) (n - m) k fuel

/-- One side of an entry: its class of failure, or none. -/
def State.copySide (s : State) (ctx : Nat) (l : Launch) (sp : Bool) (x core n : Nat) (k : AKind) : Option Nat :=
  if sp then (if 0x400000 < x + n then some 7 else if s.copyCoreOk ctx l core then none else some 5)
  else if 2 ^ 50 < x + n then some 7
  else match s.pagesOk ctx x n k (n / 65536 + 2) with
    | .error f => some f.cls
    | .ok _ => none

/-- The check of R389 on a whole entry. A length or a pair of flags outside R47 is an illegal use (log entry 22). -/
def State.copyCheck (s : State) (ctx : Nat) (l : Launch) (e : Nat) : Option Nat :=
  let n := fld e 128 32
  if n = 0 ∨ n % 64 ≠ 0 ∨ (bitN e 166 && bitN e 167) ∨ fld e 168 24 ≠ 0 ∨ fld e 224 32 ≠ 0 then some 5
  else match s.copySide ctx l (bitN e 167) (fld e 0 64) (fld e 160 6) n .rd with
    | some c => some c
    | none => s.copySide ctx l (bitN e 166) (fld e 64 64) (fld e 160 6) n .wr

/-- The arrival of entry k at the barrier bound to it (R203, R398), after what K tells. DESIGN CHOICE (unsafe; log entry 122): R400 speaks of the arrivals
of records and deliveries at the barrier of a gang that does not exist, not of a copy entry whose gang has dissolved since its `barx`; its arrival counts
nothing either, creates no gang and faults nothing. -/
def State.copyArrive (s : State) (ctx lsl k : Nat) (err : Option Nat) (K : Clock) : Gate :=
  match ((s.launch ctx lsl).copy k).bound with
  | none => .go s
  | some v =>
    let i := barId v ((s.launch ctx lsl).copy k).boundCore
    let gone := match i with
      | .gang g => !(s.gangExists ctx g)
      | _ => false
    if gone then .go s else
    s.afterDue ctx i (fun s =>
      match s.logGate ctx lsl ⟨0x11, s.barObj i, arriveArg (s.bar ctx i) false, 5, 0xFFFFFFFF, 0xFF, (s.bar ctx i).a⟩ with
      | .go s => s.arrive ctx lsl i false err 4 K
      | x => x)

/-- An entry is abandoned with a code of site 4 (R389), or with the walker's for a poisoned page-table entry (R388). -/
def State.abandon (s : State) (ctx lsl k cls : Nat) : State :=
  if cls = 0 then s else
  let c := if cls = 12 then 0xC8 else cls * 16 + 4
  let fin := fun (s : State) =>
    (s.updLaunch ctx lsl (fun l => l.setCopy k { l.copy k with done := true })).ctxFault ctx c 0xFF (s.launch ctx lsl).seq false
  match s.copyArrive ctx lsl k (some c) [] with
  | .go s => fin s
  | .hold => s
  | .bad s => s

/-- `tstage` (R48, R206, R208): a release at .dev, then the next entry is released and checked. -/
def execTstage (s : State) : Out :=
  .next ((s.writeback s.cur).release 2 (fun s =>
    let l := s.myLaunch
    let k := l.ntst
    let ctx := s.myCtx
    let lsl := s.me.lsl
    let s := s.done 4
    let s := s.updLaunch ctx lsl (fun l => { l with ntst := l.ntst + 1 })
    if l.ncpy ≤ k then s else
    let s := s.updLaunch ctx lsl (fun l => l.setCopy k { l.copy k with released := true, tid := threadOf 0 s.ev 4 })
    match s.copyWord ctx l k with
    | .error f => s.abandon ctx lsl k f.cls
    | .ok e => match s.copyCheck ctx l e with
      | some c => s.abandon ctx lsl k c
      | none => s))

/-- The entry that is left of entry word e once its first n bytes have moved. -/
def copyRest (e n : Nat) : Nat := e + n + 2 ^ 64 * n - 2 ^ 128 * n

/-- Whether a 64-byte line at a global address holds poison; the line marked poisoned. A line may stand across two pages. -/
def State.linePoison (s : State) (ctx va : Nat) : Bool := [0, 32, 63].any (fun o => match s.xlate ctx (va + o) 0 .rd with
  | .ok l => s.poisoned l.pa 1
  | .error _ => false)
def State.spoilLine (s : State) (ctx va : Nat) : State := [0, 32, 63].foldl (fun s o => match s.xlate ctx (va + o) 0 .wr with
  | .ok l => s.setPoison l.pa 1
  | .error _ => s) s

/-- The 64-byte lines of the first n bytes of an entry that hold poison at their source. -/
def State.copyPoison (s : State) (ctx e n : Nat) : List Nat := (List.range (n / 64)).filter (fun i =>
  if bitN e 167 then (s.core (fld e 160 6)).spPoison (fld e 0 64 + 64 * i) 64 else s.linePoison ctx (fld e 0 64 + 64 * i))

/-- Moves the first n bytes of an entry as thread `who` (R47). Poison moves with each line (R392). DEDUCED (safe; log entry 110): the read is
recorded with code 0xC4, which R394 does not list, and is no instruction or issue. -/
def State.copyMove (s : State) (who ctx e n : Nat) : Except MFault State :=
  let c := fld e 160 6
  let src : Except MFault (List Byte) := if bitN e 167 then .ok (memBytes (s.core c).sp (fld e 0 64) n)
    else s.readVAf ctx (fld e 0 64) n (n / 65536 + 2)
  let bad := s.copyPoison ctx e n
  let s := if bad.isEmpty then s else s.cki ctx 0 0xC4 0xFF false
  match src with
  | .error f => .error f
  | .ok bs =>
    if bitN e 166 then .ok (s.updCore c (fun k => bad.foldl (fun k i => k.spSpoil (fld e 64 64 + 64 * i) 64) (k.spWrite (fld e 64 64) bs false)))
    else match State.writeVAby (State.storeBy who ctx) s ctx (fld e 64 64) bs (n / 65536 + 2) with
      | .error f => .error f
      | .ok s => .ok (bad.foldl (fun s i => s.spoilLine ctx (fld e 64 64 + 64 * i)) (if bad.isEmpty then s else s.sentPoison ctx 0xC4 0xFF))

/-- COPY_ENTRY_COMPLETE (R44, R47, R48, R203, R389): a released entry's bytes are visible at .dev, its barrier is arrived at and
its decrement sent. `arg.n` may name a number of 64-byte lines that move now and no more; the lines left are checked again when they move, and an
entry that no longer passes its checks is abandoned, with what has moved. DESIGN CHOICE (unsafe; log entry 98): the entry's own words and its
source bytes are read here, as they stand when its lines move; R48 leaves open when between release and completion they are read. -/
def execCopyEntryComplete (s : State) : Out :=
  let ctx := s.arg.ctx
  let lsl := s.arg.lsl
  let k := s.arg.ent
  let l := s.launch ctx lsl
  let c := l.copy k
  if !c.released || c.done || l.st != .running then .next s else
  .next (match s.copyWord ctx l k with
  | .error f => s.abandon ctx lsl k f.cls
  | .ok e0 => match s.copyCheck ctx l e0 with
    | some x => s.abandon ctx lsl k x
    | none =>
      let e := copyRest e0 (min (64 * c.moved) (fld e0 128 32))
      let part := decide (s.arg.n ≠ 0) && decide (64 * s.arg.n < fld e 128 32)
      match s.copyMove c.tid ctx e (if part then 64 * s.arg.n else fld e 128 32) with
      | .error f => s.abandon ctx lsl k f.cls
      | .ok s' =>
        if part then s'.updLaunch ctx lsl (fun l => l.setCopy k { l.copy k with moved := c.moved + s.arg.n }) else
        let K : Clock := [(c.tid, s'.ev + 1)]
        match s'.copyArrive ctx lsl k none K with
        | .go s =>
          let s := s.updLaunch ctx lsl (fun l => { l.setCopy k { l.copy k with done := true } with clk := l.clk.both K })
          if fld e 192 32 = 0xFFFFFFFF then s
          else { s with deps := s.deps ++ [⟨ctx, lsl, fld e 192 32, l.lead s.live, 0xFF, s.ev + 1, K⟩] }
        | .hold => s
        | .bad s => s)

/-- `tinfo` (R209). -/
def execTinfo (d : GReg) (k : BitVec 3) (s : State) : Out :=
  let l := s.myLaunch
  let v := match k.toNat with
    | 0 => s.me.handle.toNat
    | 1 => s.me.stage + 2 ^ 8 * l.nst
    | 2 => l.seq
    | 3 => l.f 72 4 + 2 ^ 4 * l.lead s.live
    | _ => b2n l.det + 2 * l.f 77 1 + 4 * l.f 78 1
  s.unit4 (·.setG d (BitVec.ofNat 64 v))

end Sys2Proof.Machine
end

