-- ==== Sys2Proof/Machine/Sched.lean ====
section
/-! DEFINITION. The task scheduler (R33–R35, R42, R43, R49, R53, R69, R280–R285, R468), the end of waits (R225) and issue arbitration
(R286, R287). -/

namespace Sys2Proof.Machine

/-! ## Strands of a launch -/

/-- Berths of the shape. -/
def State.allBerths (s : State) : List Nat := List.range (32 * s.shape.pkg)
/-- Whether a berth holds a resident strand (R280). -/
def Berth.holds (B : Berth) : Bool := B.st != .free && B.st != .save && B.st != .restore
/-- Resident strands of a context. -/
def State.ctxBerths (s : State) (ctx : Nat) : List Nat :=
  (s.berths.filter (fun b => b.2.holds && b.2.ctx == ctx)).map (·.1)
/-- Resident strands of a stage. -/
def State.strands (s : State) (ctx lsl stg : Nat) : List Nat :=
  (s.ctxBerths ctx).filter (fun b => (s.berth b).lsl == lsl && (s.berth b).stage == stg)
/-- Whether stack k serves the context: no pre-emption has reached it, and it is not saved or being resumed (R289, R322). -/
def State.serves (s : State) (ctx k : Nat) : Bool :=
  let c := s.ctx ctx
  s.up k && !(c.pnd && bitN c.arrivedStk k) && !c.frozen
/-- Effective priority of a stage (R281). -/
def Launch.eff (l : Launch) (i : Nat) : Nat := l.prio i + (l.stage i).age

/-! ## Granting tasks (R35, R42, R43, R285) -/

/-- The next grant that the log names for a stage. -/
def State.loggedGrant (s : State) (ctx lsl stg : Nat) : Scan := s.logNext ctx lsl (fun q => q.typ == 8 && fld q.obj 32 3 == stg)

/-- The task of a stage that may be granted next: the eligible one nearest the head (R43), in a replay the one that the log names
(R311). What else a replay finds there is left to the gate to report. -/
def State.nextGrant (s : State) (ctx lsl stg : Nat) : Option Nat :=
  let l := s.launch ctx lsl
  if !l.follows then l.nextTask stg
  else match s.loggedGrant ctx lsl stg with
    | .found _ r => (l.stage stg).inQueue.find? (fun j => (l.slotOf stg j).eligible && l.handle stg j == fld r.obj 0 32)
    | .missing => none
    | .breakAt _ all => if all then l.nextTask stg else none
    | _ => l.nextTask stg

/-- The strand that a replay's log grants the stage's next task to: its berth, and whether it is newly placed or comes from another
stage (R308). -/
def State.loggedBerth (s : State) (ctx lsl stg : Nat) : Option (Nat × Bool × Bool) :=
  if !(s.launch ctx lsl).follows then none
  else match s.loggedGrant ctx lsl stg with
    | .found _ r => some (s.physBerth (fld r.arg 0 8), bitN r.arg 8, bitN r.arg 9)
    | _ => none

/-- The berths in which a replay's log has strands of the stage newly placed, from record k on. -/
def State.freshBerths (s : State) (ctx lsl stg k : Nat) : Nat → List Nat
  | 0 => []
  | fuel + 1 =>
    let l := s.launch ctx lsl
    match s.readVA ctx (l.logSlot k) 32 with
    | .error _ => []
    | .ok bs =>
      let (r, _) := logRead (leNat bs)
      if r.typ = 2 ∨ r.typ = 3 then []
      else (if r.typ = 8 ∧ fld r.obj 32 3 = stg ∧ bitN r.arg 8 ∧ !(AMap.get false l.log.used k) then [s.physBerth (fld r.arg 0 8)] else [])
        ++ s.freshBerths ctx lsl stg (k + 1) fuel

/-- Whether an idle strand on berth b may take a task of the stage: its own, or by a move (R285). -/
def State.mayServe (s : State) (b ctx lsl stg : Nat) : Bool :=
  let B := s.berth b
  let l := s.launch ctx lsl
  if B.stage = stg then true
  else
    let full := fun (i : Nat) => decide (l.cap i ≤ (l.stage i).tail - (l.stage i).head)
    let pressure := fun (i : Nat) => l.nEligible i + 4 * (s.tsubs.filter (fun t => t.ctx == ctx && t.lsl == lsl && t.stage == i && t.waits && full i)).length
    let fit := fun (i : Nat) => i != B.stage && (l.nextTask i).isSome && decide ((s.strands ctx lsl i).length < l.smax i)
    (l.nextTask B.stage).isNone && B.gang.isNone && decide (l.smin B.stage < (s.strands ctx lsl B.stage).length) && fit stg
      && (List.range l.nst).all (fun i => !(fit i) || decide (pressure i < pressure stg)
          || (pressure i == pressure stg && (decide (l.eff i < l.eff stg) || (l.eff i == l.eff stg
            && decide ((l.stage stg).lastGrant * 8 + stg ≤ (l.stage i).lastGrant * 8 + i)))))

/-- The state of a strand at the start of a task (R35, R178, R362), an acquire at .dev of what happened before its submission and its decrements
(R46); n is the event of the start. A step that ended the task before stops here (R448). -/
def startBerth (B : Berth) (l : Launch) (stg h : Nat) (words : Nat) (K : Clock) (n : Nat) : Berth :=
  let g := (List.range 7).foldl (fun g k => AMap.set 0 g (k + 1) (BitVec.ofNat 64 (fld words (64 * (k + 1)) 64))) []
  let g := AMap.set 0 (AMap.set 0 g 8 (BitVec.ofNat 64 h)) 9 (BitVec.ofNat 64 (l.f 640 64))
  let B' : Berth := {
    B with st := .run, stage := stg, pc := BitVec.ofNat 64 (l.entry stg), pfx := none, g := g, p := 0, s := [], q := [],
           rngk := mix64 (BitVec.ofNat 64 (2 ^ 32 * l.seq + h)), rngc := 0, trap := ⟨0, 0, 0, 0, 0, 0, 0, 0, 0, 0, 0, 0, 0, 0, 0⟩, trapped := false,
           recs := [], hist := [], qfront := List.replicate 3 [0, 0, 0], app := [0, 0, 0], qsn := [0, 0, 0], fifos := List.replicate 6 Fifo.zero,
           arrs := [], clk := AMap.put (B.clk.both K) 0 n, also := [], pubs := [], acqs := [], refs := [], stalled := false,
           handle := BitVec.ofNat 32 h, hasTask := true, waiting := .none, answer := none,
           seg := ⟨false, false, 0, 0, 0, 0, 0, 0, 0, 0⟩, obuf := [], batch := 0, outLoad := none, pq := none, spill := [], pixc := 0, rawBack := [], landing := [] }
  if B.dbg.due = 0 then B' else B'.stepStop

/-- The raw packets of berth b's strand so far are no longer of its task (R187). -/
def State.disown (s : State) (b : Nat) : State :=
  s.updCore (coreOf b) (fun c => { c with raw := c.raw.map (fun t => (t.1, if t.2.berth = b then { t.2 with mine := false } else t.2)) })

/-- Whether stack k still has an idle strand for which it could ask the stage for a task (R42). -/
def State.asks (s : State) (ctx lsl stg k : Nat) : Bool :=
  s.serves ctx k && (s.ctxBerths ctx).any (fun b => stackOf b == k && (s.berth b).st == .idle && (s.berth b).lsl == lsl && !(s.berth b).haltF && s.mayServe b ctx lsl stg)

/-- Whether the owner of the stage serves stack k now: its own berths at once, another stack's request when no earlier one that can still be served stands
before it (R42); a replay follows its log. -/
def State.serving (s : State) (ctx lsl stg k : Nat) : Bool :=
  let q := (s.launch ctx lsl).stage stg
  k == q.owner || (if (s.launch ctx lsl).follows then q.reqs.contains k else q.reqs.find? (s.asks ctx lsl stg) == some k)

/-- Whether TASK_DISPATCH can take place: an idle strand of the launch, an eligible task, the stack serving the context, and the
request of its scheduler next in order when another stack owns the queue (R42). -/
def State.canDispatch (s : State) (b ctx lsl stg : Nat) : Bool :=
  let B := s.berth b
  let l := s.launch ctx lsl
  B.st == .idle && B.ctx == ctx && B.lsl == lsl && !B.haltF && l.st == .running && decide (stg < l.nst) && s.serves ctx (stackOf b) && s.serves ctx (l.stage stg).owner
    && (s.nextGrant ctx lsl stg).isSome
    && (match s.loggedBerth ctx lsl stg with
      | some (x, _, moved) => b == x && (B.stage == stg || moved)
      | none => s.mayServe b ctx lsl stg)
    && s.serving ctx lsl stg (stackOf b)

/-- A task record that could not be read at the launch's acceptance has been read: its count is what it holds less the decrements since. -/
def TaskSlot.readNow (t : TaskSlot) (rec0 : Nat) : TaskSlot := { t with cnt := fld rec0 0 16 - t.cnt, unread := false }

/-- TASK_DISPATCH (R35, R42, R43, R285, R468): the owner of stage `arg.stg` grants its eligible task nearest the head to the idle strand on
berth `arg.b`. The grant is logged; a task record that cannot be read leaves the task eligible and faults the context. -/
def execTaskDispatch (s : State) : Out :=
  let b := s.arg.b
  let ctx := s.arg.ctx
  let lsl := s.arg.lsl
  let stg := s.arg.stg
  if !(s.canDispatch b ctx lsl stg) then .next s else
  let l := s.launch ctx lsl
  let j := (s.nextGrant ctx lsl stg).getD 0
  let k := j % l.cap stg
  match s.readVA ctx (l.qbase stg + 64 * k) 64 with
  | .error f => .next (s.deviceFault ctx f 9 l.seq)
  | .ok bs =>
    let t := l.slotOf stg j
    if t.unread ∧ (t.readNow (leNat bs)).cnt ≠ 0 then .next (s.updLaunch ctx lsl (fun l => l.setSlot stg k (t.readNow (leNat bs)))) else
    let B := s.berth b
    let h := l.handle stg j
    let fresh := B.handle == 0xFFFFFFFF
    let req : LogReq := ⟨0x08, h + 2 ^ 32 * stg, s.logBerth b + 2 ^ 8 * b2n fresh + 2 ^ 9 * b2n (B.stage ≠ stg), 6, 0xFFFFFFFF, 0xFF,
      s.logCnt ctx lsl (0x08 * 2 ^ 64 + stg)⟩
    .next (match s.logGate ctx lsl req with
    | .hold => s
    | .bad s => s
    | .go s =>
      let s := s.bumpCnt ctx lsl (0x08 * 2 ^ 64 + stg)
      let s := if s.linePoison ctx (l.qbase stg + 64 * k) then s.cki ctx 0 0xC9 0xFF false else s
      let s := s.updLaunch ctx lsl (fun l =>
        (l.setSlot stg k { AMap.get TaskSlot.zero (l.stage stg).slots k with granted := true }).updStage stg (fun q =>
          { q with age := 0, lastGrant := s.ev, reqs := if stackOf b = q.owner then q.reqs else q.reqs.erase (stackOf b) }))
      let s := s.setBerth b (startBerth B l stg h (leNat bs) (l.slotOf stg j).clk (s.ev + 1))
      let s := s.disown b
      s.trace b 0 0 0 (BitVec.ofNat 64 (l.entry stg)) 0 0)

/-- TASK_REQUEST (R42): the scheduler of stack `arg.stk`, which has an idle strand for the stage, asks the owner for a task,
in the control class, in which its stack's earlier messages to the owner arrive first (R29). DEDUCED (unsafe; log
entry 97): R42 speaks of a scheduler that has a free berth; the model reads it as a berth whose strand of the stage is idle (R280). -/
def execTaskRequest (s : State) : Out :=
  let ctx := s.arg.ctx
  let lsl := s.arg.lsl
  let stg := s.arg.stg
  let k := s.arg.stk
  let l := s.launch ctx lsl
  let q := l.stage stg
  let idle := (s.ctxBerths ctx).any (fun b => stackOf b == k && (s.berth b).st == .idle && (s.berth b).lsl == lsl)
  .next (if l.st ≠ .running ∨ l.nst ≤ stg ∨ q.owner = k ∨ !(s.unfenced k) ∨ q.reqs.contains k ∨ !idle ∨ !(s.serves ctx k)
      ∨ s.controlAhead k q.owner (s.ev + 1) then s
  else s.updLaunch ctx lsl (fun l => l.updStage stg (fun q => { q with reqs := q.reqs ++ [k] })))

/-- STAGE_AGE_TICK (R281): 1,024 cycles with an eligible task and no grant. -/
def execStageAgeTick (s : State) : Out :=
  let stg := s.arg.stg
  let l := s.launch s.arg.ctx s.arg.lsl
  .next (if l.st ≠ .running ∨ (l.nextTask stg).isNone then s
  else s.updLaunch s.arg.ctx s.arg.lsl (fun l => l.updStage stg (fun q => { q with age := min 15 (q.age + 1) })))

/-! ## Placing and retiring strands (R53, R69, R280, R283, R284) -/

/-- Whether berth b could take a strand of the context's launch: FREE, on a present core of the launch's stacks, no strand of another
context beside it, and the rules of R53 for an early successor. -/
def State.placeable (s : State) (ctx lsl b : Nat) : Bool :=
  let l := s.launch ctx lsl
  let sib := s.berth (b ^^^ 1)
  let sibCtx := sib.st != .free && sib.ctx == ctx
  let sibP := sibCtx && sib.lsl != lsl
  (s.berth b).st == .free && s.corePresent (coreOf b) && bitN l.stks (stackOf b) && (sib.st == .free || sib.ctx == ctx)
    && (!(l.early && s.predRuns ctx lsl) || (if sibP then b % 2 == 1 else sib.st != .free || b % 2 == 1))

/-- Order of choice among placeable berths (R283). -/
def State.placeKey (s : State) (ctx lsl stg b : Nat) : Nat :=
  let sib := s.berth (b ^^^ 1)
  2 ^ 20 * b2n (sib.st == .free) + 2 ^ 19 * b2n (stackOf b ≠ ((s.launch ctx lsl).stage stg).owner) + 2 ^ 18 * b2n (sib.st != .free) + b

/-- The berth of its log that a replay's next strand of the stage goes to, if the log names one (R311). -/
def State.replayBerth (s : State) (ctx lsl stg : Nat) : Option Nat :=
  if !(s.launch ctx lsl).follows then none
  else (s.freshBerths ctx lsl stg 0 (s.lcnt ctx lsl)).find? (fun b => !((s.strands ctx lsl stg).contains b))

/-- Whether a strand of the stage could go to berth b. -/
def State.couldTake (s : State) (ctx lsl stg b : Nat) : Bool :=
  s.placeable ctx lsl b && (match s.replayBerth ctx lsl stg with
    | some x => b == x
    | none => true)

/-- The berth that a strand of the stage would take. -/
def State.bestBerth (s : State) (ctx lsl stg : Nat) : Option Nat :=
  (s.allBerths.filter (s.couldTake ctx lsl stg)).foldl (fun m b => match m with
    | none => some b
    | some x => if s.placeKey ctx lsl stg b < s.placeKey ctx lsl stg x then some b else some x) none

/-- A berth without a strand: what belongs to the berth and not to its strand stays (R286, R454). -/
def Berth.empty (B : Berth) : Berth :=
  { Berth.zero with lastOcc := B.lastOcc, profAt := B.profAt, profStop := B.profStop, awaited := B.awaited, issueAge := B.issueAge, lastIssue := B.lastIssue, xAge := B.xAge, xLast := B.xLast }

/-- A strand becomes resident in berth b (R69, R280, R454): PLACE, whether or not the core must be zeroed. -/
def State.placeStrand (s : State) (b ctx lsl stg : Nat) : State :=
  let B := s.berth b
  s.setBerth b { B.empty with st := .place, ctx := ctx, lsl := lsl, stage := stg, lastOcc := some ctx, tid := threadOf b s.ev 0,
                              profAt := if B.lastOcc = some ctx then B.profAt else s.ev,
                              awaited := if B.lastOcc = some ctx then B.awaited else [] }

/-- Whether a stage wants a new strand (R283). -/
def State.wants (s : State) (ctx lsl stg : Nat) : Bool :=
  let l := s.launch ctx lsl
  let here := s.strands ctx lsl stg
  l.st == .running && decide (stg < l.nst) && (s.nextGrant ctx lsl stg).isSome
    && (match s.loggedBerth ctx lsl stg with
      | some (x, fresh, _) => fresh && !((s.ctxBerths ctx).contains x && (s.berth x).lsl == lsl)
      | none => here.all (fun b => (s.berth b).st != .idle))
    && decide (here.length < l.smax stg) && (maskList l.stks).any (s.serves ctx)

/-- Whether launch slot `lsl` of a context holds an early successor whose predecessor has not ended (R53). -/
def State.earlyNow (s : State) (ctx lsl : Nat) : Bool := (s.launch ctx lsl).early && s.predRuns ctx lsl

/-- Whether stage x comes before stage y in the competition for a berth: the tasks of a launch before those of its early successor (R53), then as R282
ranks them. -/
def State.beats (s : State) (x y : Nat × Nat × Nat) : Bool :=
  let lx := s.launch x.1 x.2.1
  let ly := s.launch y.1 y.2.1
  if x.1 == y.1 && x.2.1 != y.2.1 && (s.earlyNow x.1 x.2.1 || s.earlyNow y.1 y.2.1) then s.earlyNow y.1 y.2.1 else
  let ex := lx.eff x.2.2
  let ey := ly.eff y.2.2
  let gx := (lx.stage x.2.2).lastGrant
  let gy := (ly.stage y.2.2).lastGrant
  decide (ey < ex) || (ex == ey && (decide (gx < gy) || (gx == gy && (decide (lx.order < ly.order) || (lx.order == ly.order && decide (x.2.2 < y.2.2))))))

/-- Every stage of every resident launch. -/
def State.stages (s : State) : List (Nat × Nat × Nat) :=
  s.ctxs.flatMap (fun c => c.2.launches.flatMap (fun l => if l.resident then (List.range l.nst).map (fun i => (c.1, l.seq % 2, i)) else []))

/-- The strand on berth b is retired (R284): nothing of it is kept but the host stores that its launch still owes (R51). -/
def State.retire (s : State) (b : Nat) : State :=
  let V := s.berth b
  ((s.disown b).updLaunch V.ctx V.lsl (fun l => { l with hostw := V.pend.foldl (fun m p => AMap.put m p.1 p.2) l.hostw })).setBerth b V.empty

/-- Whether a berth is FREE on a healthy stack of the launch (R283, R284). -/
def State.anyFree (s : State) (ctx lsl : Nat) : Bool :=
  s.allBerths.any (fun b => (s.berth b).st == .free && s.corePresent (coreOf b) && bitN (s.launch ctx lsl).stks (stackOf b))

/-- The idle strand that R284 retires for a stage, if one qualifies: not stopped by the debugger (R447), of lesser effective priority, and in a berth that the stage can take. -/
def State.retiree (s : State) (ctx lsl stg : Nat) : Option Nat :=
  if s.anyFree ctx lsl then none else
  let e := (s.launch ctx lsl).eff stg
  let prio := fun (b : Nat) => (s.launchOf b).eff (s.berth b).stage
  (s.berths.filter (fun x => x.2.st == .idle && x.2.gang.isNone && !x.2.haltF
    && decide ((s.launchOf x.1).smin x.2.stage < (s.strands x.2.ctx x.2.lsl x.2.stage).length)
    && !x.2.dbg.stp && decide (prio x.1 < e) && s.serves x.2.ctx (stackOf x.1) && (s.retire x.1).couldTake ctx lsl stg x.1)).foldl (fun m x => match m with
      | none => some x.1
      | some y => if prio x.1 < prio y then some x.1 else some y) none

/-- Sum of `smin` (R38). -/
def Launch.sumMin (l : Launch) : Nat := ((List.range l.nst).map l.smin).foldl (· + ·) 0

/-- Whether a stage of a launch that waits for its berths, all of which are free, is to be placed now (R38). -/
def State.startsNow (s : State) (ctx lsl stg : Nat) : Bool :=
  let l := s.launch ctx lsl
  l.st == .waitBerths && !s.drn && !(s.ctx ctx).pnd && !(s.ctx ctx).frozen && decide (0 < l.smin stg)
    && decide (l.sumMin ≤ (s.allBerths.filter (s.placeable ctx lsl)).length)

/-- Whether another stage that wants a berth and could take b comes before stage x (R53, R282); the stages of one launch that starts are placed
together. -/
def State.rivalFor (s : State) (x : Nat × Nat × Nat) (b : Nat) : Bool :=
  s.stages.any (fun y => y != x && (s.wants y.1 y.2.1 y.2.2 || (s.startsNow y.1 y.2.1 y.2.2 && (y.1, y.2.1) != (x.1, x.2.1)))
    && s.couldTake y.1 y.2.1 y.2.2 b && s.beats y x)

/-- Puts stage i of a launch among its others in the order of R282. -/
def State.rankIn (s : State) (ctx lsl i : Nat) : List Nat → List Nat
  | [] => [i]
  | j :: r => if s.beats (ctx, lsl, i) (ctx, lsl, j) then i :: j :: r else j :: s.rankIn ctx lsl i r

/-- The stages of a launch in the order of R282. -/
def State.ranked (s : State) (ctx lsl : Nat) : List Nat := (List.range (s.launch ctx lsl).nst).foldl (fun l i => s.rankIn ctx lsl i l) []

/-- A core as R69 leaves it for context ctx: stores, queues, rings, barriers, `mcb` and poison marks zero. -/
def Core.zeroFor (c : Core) (ctx : Nat) : Core := { Core.zero with held := some ctx, raw := c.raw, cseq := c.cseq }

/-! ## Completion tree (R49, R50) -/

/-- Number of tasks of the launch that run on berths of quad q of stack k and have not ended: the quad node (R49). -/
def State.quadCount (s : State) (ctx lsl k q : Nat) : Nat :=
  (s.berths.filter (fun b => stackOf b.1 == k && b.1 % 32 / 8 == q && b.2.ctx == ctx && b.2.lsl == lsl && b.2.hasTask && b.2.st != .free)).length

/-- The stack node (R49): quads that have reported, the copies that the stack executes, and its messages without an acknowledgement. -/
def State.stackCount (s : State) (ctx lsl k : Nat) : Nat :=
  let l := s.launch ctx lsl
  popN (l.quads / 2 ^ (4 * k)) 4 + (if l.lead s.live = k then (l.copies.filter (fun e => e.2.released && !e.2.done)).length else 0)
    + (s.tsubs.filter (fun t => t.ctx == ctx && t.lsl == lsl && stackOf t.berth == k)).length
    + (s.deps.filter (fun m => m.ctx == ctx && m.lsl == lsl && m.src == k)).length

/-- COMPLETION_REPORT (R49, R50): quad `arg.q` of stack `arg.stk` reports its count to its stack or withdraws it, or with `arg.flag` the stack does so to
the device node. -/
def execCompletionReport (s : State) : Out :=
  let ctx := s.arg.ctx
  let lsl := s.arg.lsl
  let k := s.arg.stk
  let q := s.arg.q % 4
  .next (if !(s.launch ctx lsl).resident then s else
    s.updLaunch ctx lsl (fun l =>
      if s.arg.flag then { l with shares := setBitN l.shares k (decide (s.stackCount ctx lsl k ≠ 0)) }
      else { l with quads := setBitN l.quads (4 * k + q) (decide (s.quadCount ctx lsl k q ≠ 0)) }))

/-- The device node (R49): the stacks that have reported, the tasks queued or granted, the copies released and not complete. -/
def State.deviceCount (s : State) (ctx lsl : Nat) : Nat :=
  let l := s.launch ctx lsl
  popN l.shares 4 + ((List.range l.nst).map l.nTasks).foldl (· + ·) 0 + (l.copies.filter (fun e => e.2.released && !e.2.done)).length

/-- The device node counts zero (R49, R51), every report is in, and nothing of the launch is on its way. -/
def State.nodeZero (s : State) (ctx lsl : Nat) : Bool :=
  s.deviceCount ctx lsl == 0 && (List.range 4).all (fun k => s.stackCount ctx lsl k == 0 && (List.range 4).all (fun q => s.quadCount ctx lsl k q == 0))
    && s.atoms.all (fun a => a.ctx != ctx || a.lsl != lsl) && s.contribs.all (fun c => c.req.ctx != ctx || c.req.lsl != lsl)

/-! ## The end of a wait (R225) -/

/-- Whether what berth b waits for has come about. -/
def State.waitOver (s : State) (b : Nat) : Bool :=
  let B := s.berth b
  match B.waiting with
  | .none => true
  | .tokp f => decide ((B.fifo f).count < 15)
  | .tokw f => (B.tokwTakes (s.launchOf b).det f).isSome
  | .qwait k t => qReached (B.qsn.getD k 0) t
  | .qdrain => B.drained
  | .racq c d => !(ringEn ((s.core c).ring d).desc) || s.mayClaim (s.launchOf b).follows c d (ringPlace b 0)
  | .rwait c d => let r := (s.core c).ring d; !(ringEn r.desc) || r.isFull r.head
  | .barw id x => passed (s.bar B.ctx (barId id (coreOf b))).phase (BitVec.ofNat 64 x)
  | .waitpv => !(s.predRuns B.ctx B.lsl)
  | .reply => B.answer.isSome || !(s.busyReq b || s.batchOut b)
  | .tagfr t => !(s.mouts.any (fun o => o.ctx == B.ctx && o.tag == t && !o.orphan))
  | .sege => B.recs.all (fun r => !r.inSeg || r.st == .retired)
  | .raw t => B.answer.isSome || (let r := AMap.get RawTag.zero (s.core (coreOf b)).raw t; !(r.busy && r.berth == b && r.mine))
  | .rawio => s.hostAnswers b && !(s.rawBusy b)
  | .home sc => s.storesLost b || s.mayPublish b sc
  | .win n => (AMap.get Window.zero (s.ctx B.ctx).wins n).closing.isNone
  | .log => let l := s.launchOf b; l.rpl || !l.det || decide (lowI ((l.log.k : Int) - (s.lcnt B.ctx B.lsl : Nat)) 64 < l.logCap)

/-- The gang on whose barrier berth b's strand waits as a member (R60, R290). -/
def State.gangWait (s : State) (b : Nat) : Option Nat :=
  let B := s.berth b
  match B.waiting with
  | .barw id _ => if B.gang = some id then some id else none
  | _ => none

/-- Whether a waiting strand can switch at once: its instruction has had no effect and it is no gang-barrier `barw` (R290). -/
def State.freeToSwitch (s : State) (b : Nat) : Bool := !(s.cBusy b) && (s.gangWait b).isNone

/-- WAIT_SATISFIED (R225, R280): the strand on berth `arg.b` leaves WAIT, and its instruction issues again, unless a
pre-emption takes it first (R290). A barrier phase that was due completes now if it can. A `racq` keeps its place among those that ask (R199) until it has
issued again. -/
def execWaitSatisfied (s : State) : Out :=
  let b := s.arg.b
  let s := match (s.berth b).st, (s.berth b).waiting with
    | .wait, .barw .. => s.settleBars (s.berth b).ctx
    | .wait, .log => s.settleBars (s.berth b).ctx
    | _, _ => s
  let B := s.berth b
  .next (if B.st = .wait ∧ s.waitOver b ∧ !(B.sw.asked && s.freeToSwitch b) then
    s.setBerth b { B with st := .run, waiting := match B.waiting with
                                                 | .racq c d => .racq c d
                                                 | _ => .none }
  else s)

/-! ## Issue arbitration (R286, R287) -/

/-- Whether berth b's C has an instruction it can issue; one that stalled has not, until something happens (R286). -/
def State.ready (s : State) (b : Nat) : Bool :=
  let B := s.berth b
  B.st == .run && !B.dbg.stp && !B.haltF && B.outLoad.isNone && B.pq.isNone && !B.yielded && !B.stalled && !(s.stack (stackOf b)).withhold
    && s.up (stackOf b) && !(B.sw.asked && (B.sw.hintOver || (s.ctx B.ctx).cfault))

/-- e(b) of R286. -/
def State.issueKey (s : State) (b : Nat) : Nat := (s.launchOf b).prio (s.berth b).stage + (s.berth b).issueAge

/-- The berth that core c issues from, if one is ready. -/
def State.coreChoice (s : State) (c : Nat) : Option Nat :=
  let x := 2 * c
  let y := 2 * c + 1
  match s.ready x, s.ready y with
  | false, false => none
  | true, false => some x
  | false, true => some y
  | true, true =>
    if s.issueKey x = s.issueKey y then (if (s.berth x).lastIssue ≤ (s.berth y).lastIssue then some x else some y)
    else if s.issueKey x < s.issueKey y then some y else some x

/-- The cores of berths that hold strands, from the one after `turn` on. -/
def State.coreOrder (s : State) : List Nat :=
  let cs := (s.berths.map (fun b => coreOf b.1)).eraseDups
  cs.filter (fun c => decide (s.turn < c)) ++ cs.filter (fun c => decide (c ≤ s.turn))

/-- The cores whose cycle has passed when core c issues: itself and those whose turn came before it. Their yielded berths are ready again (R287). -/
def State.unyield (s : State) (c : Nat) : State :=
  let cs := c :: s.coreOrder.takeWhile (· != c)
  { s with berths := s.berths.map (fun b => if b.2.yielded && cs.contains (coreOf b.1) then (b.1, { b.2 with yielded := false }) else b) }

/-- The ages after berth b of its core has issued (R286). -/
def State.issued (s : State) (b : Nat) : State :=
  let o := b ^^^ 1
  let s := if s.ready o then s.updBerth o (fun B => { B with issueAge := min 15 (B.issueAge + 1) }) else s
  { (s.unyield (coreOf b)).updBerth b (fun B => { B with issueAge := 0, lastIssue := s.ev, stalled := false }) with turn := coreOf b }

/-- The ages as they stood in state o: a prefix alone is no issue, and neither is a unit that stalled (R286). -/
def State.unissued (s o : State) (b : Nat) : State :=
  [b, b ^^^ 1].foldl (fun s x => s.updBerth x (fun B => { B with issueAge := (o.berth x).issueAge, lastIssue := (o.berth x).lastIssue })) s

/-- Something happens: what stalled may go on. -/
def State.unstall (s : State) : State :=
  { s with berths := s.berths.map (fun b => if b.2.stalled then (b.1, { b.2 with stalled := false }) else b) }

/-- The next berth to issue: the cores take turns, and each chooses by R286. -/
def State.nextIssue (s : State) : Option Nat := (s.coreOrder.filterMap s.coreChoice).head?

/-- A cycle in which nothing issues: a yielded berth is ready again (R287), and time passes on every stack. -/
def State.tick (s : State) : State :=
  { s with berths := s.berths.map (fun b => (b.1, { b.2 with yielded := false, stalled := false })),
           stks := s.stks.map (fun k => (k.1, if k.2.power then { k.2 with cycles := k.2.cycles + 1 } else k.2)) }

end Sys2Proof.Machine
end

