-- ==== Sys2Proof/Machine/Arbiter.lean ====
section
/-! DEFINITION. What the machine does next. A latched prefix's unit comes first (R127); then the agenda, which holds what an outside
party does and any interleaving that is to be shown, acts of one cycle among them; then the device's own steps and the cores' units take turns. Every order here is
one that the manual allows; the agenda reaches the others. -/

namespace Sys2Proof.Machine

/-- What a step does. -/
inductive Act where
  | event (i : Instr) (x : EvArg)
  | issue (b : Nat)
  | idle
  deriving DecidableEq, Repr

/-- Steps of the queues and of C's own unfinished work on berth b. -/
def Berth.ownEvents (B : Berth) (b : Nat) : List (Instr × EvArg) :=
  (if B.st = .wait then [(Instr.waitSatisfied, { b := b })] else [])
    ++ (if B.outLoad.isSome then [(Instr.loadWriteback, { b := b })] else [])
    ++ (if B.pq.isSome then [(Instr.pqSelectionWriteback, { b := b })] else [])
    ++ (if B.st = .place then [(Instr.placeZeroingDone, { b := b })] else [])
    ++ (if B.cut then [] else [0, 1, 2].flatMap (fun q => match (B.queue q).head? with
        | none => []
        | some r => match r.st with
          | .waitTok => [(Instr.recordStart, { b := b, q := q })]
          | .started => if recIssues r.r ≤ r.point || !r.live || r.skip then [(Instr.recordRetire, { b := b, q := q })]
              else [(Instr.recordIssue, { b := b, q := q })]
          | .pushing => [(Instr.recordRetire, { b := b, q := q })]
          | _ => []))

/-- Steps of the scheduler and the copy engine for a launch of context n. -/
def State.launchEvents (s : State) (n : Nat) (l : Launch) : List (Instr × EvArg) :=
  let lsl := l.seq % 2
  if l.st ≠ .running then [] else
  (List.range l.nst).flatMap (fun i =>
    if (s.nextGrant n lsl i).isNone then []
    else
      ((s.ctxBerths n).filter (fun b => (s.berth b).st == .idle && s.canDispatch b n lsl i)).map
          (fun b => (Instr.taskDispatch, { b := b, ctx := n, lsl := lsl, stg := i }))
        ++ ((maskList l.stks).filter (fun k => k != (l.stage i).owner && !((l.stage i).reqs.contains k)
              && (s.ctxBerths n).any (fun b => stackOf b == k && (s.berth b).st == .idle))).map
            (fun k => (Instr.taskRequest, { stk := k, ctx := n, lsl := lsl, stg := i }))
        ++ (if s.wants n lsl i then match s.bestBerth n lsl i with
            | some b => [(Instr.strandPlacement, { stk := stackOf b, ctx := n, lsl := lsl, stg := i })]
            | none => match s.retiree n lsl i with
              | some v => [(Instr.strandPlacement, { stk := stackOf v, ctx := n, lsl := lsl, stg := i })]
              | none => []
          else []))
    ++ ((List.range 16).filter (fun x => bitN l.quads x != decide (s.quadCount n lsl (x / 4) (x % 4) ≠ 0))).map
        (fun x => (Instr.completionReport, { stk := x / 4, q := x % 4, ctx := n, lsl := lsl }))
    ++ ((List.range 4).filter (fun k => bitN l.shares k != decide (s.stackCount n lsl k ≠ 0))).map
        (fun k => (Instr.completionReport, { stk := k, ctx := n, lsl := lsl, flag := true }))
    ++ (l.copies.filter (fun e => e.2.released && !e.2.done)).map (fun e => (Instr.copyEntryComplete, { ctx := n, lsl := lsl, ent := e.1 }))
    ++ (if s.nodeZero n lsl then [(Instr.launchComplete, { ctx := n, lsl := lsl })] else [])

/-- Steps of a context as a whole. -/
def State.ctxEvents (s : State) (n : Nat) (c : Ctx) : List (Instr × EvArg) :=
  c.launches.flatMap (s.launchEvents n)
    ++ (if c.rdnRes.isSome || c.launches.any (fun l => l.st == .queued || l.st == .waitBerths) then [(Instr.launchStart, { ctx := n })] else [])
    ++ (if c.pnd then ((List.range 4).filter (fun k => s.unfenced k && !(bitN c.arrivedStk k))).map
        (fun k => (Instr.preemptRequestArrive, { ctx := n, stk := k })) else [])
    ++ (if c.pnd then [(Instr.contextSaveComplete, { ctx := n })] else [])
    ++ (if c.resuming then [(Instr.resumeComplete, { ctx := n })] else [])
    ++ (c.wins.filter (fun w => w.2.closing.isSome)).map (fun w => (Instr.windowMerge, { ctx := n, win := w.1 }))

/-- Every step that the device may take by itself now. -/
def State.candidates (s : State) : List (Instr × EvArg) :=
  s.berths.flatMap (fun b => b.2.ownEvents b.1)
    ++ s.atoms.zipIdx.map (fun a => ((if a.1.ordB.isSome then Instr.orderedBatchPerform else Instr.atomicPerform), { k := a.2 }))
    ++ (List.range s.contribs.length).map (fun k => (Instr.reductionContributionArrive, { k := k }))
    ++ (s.tsubs.map (fun t => (Instr.tsubAtOwner, { b := t.berth })))
    ++ (List.range s.deps.length).map (fun k => (Instr.depDecrement, { k := k }))
    ++ (List.range s.meets.length).map (fun k => (Instr.meetOperandArrive, { k := k }))
    ++ ((List.range s.mouts.length).map (fun k => (Instr.meetResultDelivery, { k := k })))
    ++ (List.range s.rmsgs.length).map (fun k => (Instr.ringDelivery, { k := k }))
    ++ (List.range s.mcs.length).map (fun k => (Instr.multicastDelivery, { k := k }))
    ++ (List.range s.migrs.length).map (fun k => (Instr.migrationCopyComplete, { k := k }))
    ++ s.cores.flatMap (fun c => (c.2.raw.filter (fun t => t.2.busy)).map (fun t => (Instr.rawPacketComplete, { core := c.1, tag := t.1 })))
    ++ s.ctxs.flatMap (fun c => s.ctxEvents c.1 c.2)
    ++ s.reports.map (fun r => (Instr.suspectReportReceive, { stk := r.1, rep := r.2.1, acc := r.2.2.1, code := r.2.2.2 }))
    ++ s.props.flatMap (fun p => (List.range 4).flatMap (fun j =>
        if bitN p.2.acks j || j == p.1 || !(s.takesPart j) then []
        else if bitN p.2.heard j then [(Instr.viewAckReceive, { src := j, dst := p.1 })] else [(Instr.viewProposalReceive, { src := p.1, stk := j })])
      ++ [(Instr.viewCommit, { stk := p.1 })])
    ++ s.behind.map (fun k => (Instr.viewCommit, { dst := k.1, flag := true }))
    ++ s.lacks.map (fun l => (Instr.fabricAckReceive, { src := l.1, dst := l.2.1, cls := l.2.2.1, seq := l.2.2.2 }))
    ++ s.stks.flatMap (fun k => k.2.send.flatMap (fun e =>
        let E := AMap.get 0 (s.stack (e.1 / 8)).recv (8 * k.1 + e.1 % 8)
        match e.2.unacked.findIdx? (· == E) with
        | some i =>
          let m := FabMsg.plain k.1 (e.1 / 8) (e.1 % 8) E (decide (i < e.2.rtx))
          [(Instr.fabricMessageReceive, { src := k.1, dst := e.1 / 8, msg := m })]
        | none => []))
    ++ (if s.drn then [(Instr.quiescentPoint, { k := 0 })] else [])

/-- The berth whose prefixed unit has begun (R127). -/
def State.latched (s : State) : Option Nat :=
  (s.berths.find? (fun b => b.2.pfx.isSome && b.2.st == .run && b.2.pq.isNone && !b.2.dbg.stp && !b.2.haltF)).map (·.1)

/-- Place of an act within a cycle (R199, R201, R366): issues of records, then what C and the retiring and starting records of each berth do, berth by
berth, then deliveries in their order, then copies by entry; 0 for what takes place in a cycle of its own. -/
def Choice.place : Choice → Nat
  | .event .recordIssue x => 1 + x.q + 4 * x.b
  | .event .recordStart x => 1001 + 4 * x.b + x.q
  | .event .recordRetire x => 1001 + 4 * x.b + x.q
  | .event .waitSatisfied x => 1000 + 4 * x.b
  | .event .multicastDelivery x => 2000 + x.k
  | .event .meetResultDelivery x => 2000 + x.k
  | .event .ringDelivery x => 2000 + x.k
  | .event .copyEntryComplete x => 3000 + x.ent
  | .issue b => 1000 + 4 * b
  | _ => 0

/-- The next entry of the agenda and what follows it; an entry after a `same` takes place in the cycle of the one before it, where their places in a
cycle allow it. -/
def State.takeAgenda (s : State) (c : Choice) (r : List Choice) : State :=
  match r with
  | .same :: e :: r => { s with agenda := e :: r, cont := decide (0 < c.place) && decide (c.place < e.place) }
  | .same :: r => { s with agenda := r, cont := false }
  | r => { s with agenda := r, cont := false }

/-- Every strand that a queue of it has stopped with a fault enters it, once C can (R366). -/
def State.enterFaults (s : State) : State :=
  (s.berths.filter (fun b => b.2.recs.any (fun r => r.st == .faulted) && !b.2.cut)).foldl (fun s b => s.enterFault b.1) s

/-- Debug stops that have landed in an event enter the trace (R452). -/
def State.stopRecords (s : State) : State :=
  (s.berths.filter (fun b => b.2.dbg.stp && b.2.dbg.due != 0)).foldl (fun s b => s.stopRecord b.1) s

/-- Whether the sequencers of a berth are counted (R453). -/
def Berth.counts (B : Berth) : Bool := (B.st == .run || B.st == .wait) && !B.dbg.stp

/-- Flags on which C of berth b or the head of a queue waits now (R453). DESIGN CHOICE (unsafe; log entry 2): `tokp` may count on its FIFO and among the
other waits. -/
def Berth.flags (B : Berth) (b : Nat) : List Nat :=
  (if B.st = .wait then match B.waiting with
    | .tokp f => [f, 58]
    | .tokw f => [f]
    | .racq _ d => [8 + d]
    | .rwait _ d => [8 + d]
    | .barw id _ => match barId id (coreOf b) with
      | .core _ n => [40 + n]
      | .gang _ => [56]
      | .bad => [58]
    | _ => [58] else [])
    ++ (if B.cut then [] else [0, 1, 2].flatMap (fun q => match (B.queue q).head? with
      | none => []
      | some r => match B.hs r with
        | 1 => (r.pops.head?.map (·.1)).toList
        | 2 => [57]
        | 3 => ((List.range 4).filter (fun k => r.onRing k && (r.boundAt k).isNone)).map (fun k => 8 + r.ringOf k)
        | 6 => ((r.pushes[r.pushed]?).map (·.1)).toList
        | _ => []))

/-- What the profile counters of a berth can tell of the time up to event n (R453). -/
def Berth.noteProfile (B : Berth) (b n : Nat) : Berth :=
  if B.counts then { B with profStop := none, awaited := (B.flags b).foldl (fun m f => AMap.set false m f true) B.awaited }
  else { B with profStop := some (B.profStop.getD n) }

/-- The end of a cycle: the phases that its arrivals together complete (R201), and the faults of its issues (R366). -/
def State.closeCycle (s : State) : State :=
  let s : State := { s with berths := s.berths.map (fun b => (b.1, b.2.noteProfile b.1 s.ev)) }
  if s.cont || s.latched.isSome then s else
  (if s.joined then s.ctxs.foldl (fun s c => s.settleBars c.1) s else s).enterFaults.stopRecords

/-- Chooses the next act, and takes it off the agenda when it came from there. A core issues only from the berth that R286 chooses. -/
def State.pick (s : State) : State × Act :=
  match s.latched with
  | some b => (s, .issue b)
  | none =>
    let s : State := { s with joined := s.cont, cont := false }
    match s.agenda with
    | .event i x :: r => (s.takeAgenda (.event i x) r, if i.isEvent then .event i x else .idle)
    | .issue b :: r => (s.takeAgenda (.issue b) r, if s.coreChoice (coreOf b) = some b then .issue b else .idle)
    | .same :: r => ({ s with agenda := r }, .idle)
    | [] =>
      let cs := s.candidates
      match cs[s.ev % (cs.length + 1)]? with
      | some e => (s, .event e.1 e.2)
      | none => match s.nextIssue with
        | some b => (s, .issue b)
        | none => (s, .idle)

end Sys2Proof.Machine
end

