-- ==== Sys2Proof/Machine/Alu.lean ====
section
/-! DEFINITION. Integer arithmetic and logic, compares, predicates, select, immediates, long immediates, the random
generator and moves of stream registers between registers (R153–R160, R168, R174, R175, R178, R179). -/

namespace Sys2Proof.Machine

/-! ## The operations of major 0x01 (R154–R156) -/

/-- `add`, with `sat` clamped to i64 (R156). -/
def addOp (sat : Bool) (x y : Word) : Word :=
  if sat then BitVec.ofInt 64 (clampI (x.toInt + y.toInt) (-(2 ^ 63)) (2 ^ 63 - 1)) else x + y
def subOp (sat : Bool) (x y : Word) : Word :=
  if sat then BitVec.ofInt 64 (clampI (x.toInt - y.toInt) (-(2 ^ 63)) (2 ^ 63 - 1)) else x - y
def mulOp (sat : Bool) (x y : Word) : Word :=
  if sat then BitVec.ofInt 64 (clampI (x.toInt * y.toInt) (-(2 ^ 63)) (2 ^ 63 - 1)) else x * y
def mulhOp (x y : Word) : Word := BitVec.ofInt 64 ((x.toInt * y.toInt) / 2 ^ 64)
def mulhnOp (x y : Word) : Word := BitVec.ofNat 64 (x.toNat * y.toNat / 2 ^ 64)
/-- `div` (R154, R155): truncated, all ones for a zero divisor; the one overflow wraps to the most negative number. -/
def divOp (x y : Word) : Word := if y = 0 then BitVec.allOnes 64 else BitVec.ofInt 64 (x.toInt.tdiv y.toInt)
def divnOp (x y : Word) : Word := if y = 0 then BitVec.allOnes 64 else BitVec.ofNat 64 (x.toNat / y.toNat)
def remOp (x y : Word) : Word := if y = 0 then x else BitVec.ofInt 64 (x.toInt - y.toInt * x.toInt.tdiv y.toInt)
def remnOp (x y : Word) : Word := if y = 0 then x else BitVec.ofNat 64 (x.toNat % y.toNat)
/-- A shift amount: y[5:0]. -/
def shAmt (y : Word) : Nat := y.toNat % 64
def shlOp (x : Word) (n : Nat) : Word := x <<< n
def shrOp (x : Word) (n : Nat) : Word := x >>> n
def sraOp (x : Word) (n : Nat) : Word := x.sshiftRight n
def rolOp (x : Word) (n : Nat) : Word := x.rotateLeft n
def minOp (x y : Word) : Word := if x.toInt ≤ y.toInt then x else y
def maxOp (x y : Word) : Word := if x.toInt ≤ y.toInt then y else x
def minnOp (x y : Word) : Word := if x.toNat ≤ y.toNat then x else y
def maxnOp (x y : Word) : Word := if x.toNat ≤ y.toNat then y else x
/-- Leading zero bits (64 when x = 0). -/
def clzOp (x : Word) : Word := BitVec.ofNat 64 (((List.range 64).find? (fun i => bitN x.toNat (63 - i))).getD 64)
/-- Trailing zero bits (64 when x = 0). -/
def ctzOp (x : Word) : Word := BitVec.ofNat 64 ((lowestSet x.toNat 64).getD 64)
def popOp (x : Word) : Word := BitVec.ofNat 64 (popN x.toNat 64)
def bswapOp (x : Word) : Word := BitVec.ofNat 64 (leNat (leBytes x.toNat 8).reverse)
/-- `adds` and `subs` (R154, R156). -/
def addsOp (sat : Bool) (x y : Word) : Word :=
  if sat then BitVec.ofInt 64 (clampI (sgnN x.toNat 32 + sgnN y.toNat 32) (-(2 ^ 31)) (2 ^ 31 - 1))
  else signExt64 (x + y).toNat 32
def subsOp (sat : Bool) (x y : Word) : Word :=
  if sat then BitVec.ofInt 64 (clampI (sgnN x.toNat 32 - sgnN y.toNat 32) (-(2 ^ 31)) (2 ^ 31 - 1))
  else signExt64 (x - y).toNat 32

/-- `add` (R154). -/
def execAdd (d a b : GReg) (s : State) : Out :=
  s.unit4 (fun B => B.setG d (addOp s.pfx.sat (B.getG a) (B.getG b)))

/-- `sub` (R154). -/
def execSub (d a b : GReg) (s : State) : Out :=
  s.unit4 (fun B => B.setG d (subOp s.pfx.sat (B.getG a) (B.getG b)))

/-- `mul` (R154). -/
def execMul (d a b : GReg) (s : State) : Out :=
  s.unit4 (fun B => B.setG d (mulOp s.pfx.sat (B.getG a) (B.getG b)))

/-- `mulh` (R154). -/
def execMulh (d a b : GReg) (s : State) : Out :=
  s.unit4 (fun B => B.setG d (mulhOp (B.getG a) (B.getG b)))

/-- `mulhn` (R154). -/
def execMulhn (d a b : GReg) (s : State) : Out :=
  s.unit4 (fun B => B.setG d (mulhnOp (B.getG a) (B.getG b)))

/-- `div` (R154). -/
def execDiv (d a b : GReg) (s : State) : Out :=
  s.unit4 (fun B => B.setG d (divOp (B.getG a) (B.getG b)))

/-- `divn` (R154). -/
def execDivn (d a b : GReg) (s : State) : Out :=
  s.unit4 (fun B => B.setG d (divnOp (B.getG a) (B.getG b)))

/-- `rem` (R154). -/
def execRem (d a b : GReg) (s : State) : Out :=
  s.unit4 (fun B => B.setG d (remOp (B.getG a) (B.getG b)))

/-- `remn` (R154). -/
def execRemn (d a b : GReg) (s : State) : Out :=
  s.unit4 (fun B => B.setG d (remnOp (B.getG a) (B.getG b)))

/-- `and` (R154). -/
def execAnd (d a b : GReg) (s : State) : Out :=
  s.unit4 (fun B => B.setG d ((B.getG a) &&& (B.getG b)))

/-- `or` (R154). -/
def execOr (d a b : GReg) (s : State) : Out :=
  s.unit4 (fun B => B.setG d ((B.getG a) ||| (B.getG b)))

/-- `xor` (R154). -/
def execXor (d a b : GReg) (s : State) : Out :=
  s.unit4 (fun B => B.setG d ((B.getG a) ^^^ (B.getG b)))

/-- `andn` (R154). -/
def execAndn (d a b : GReg) (s : State) : Out :=
  s.unit4 (fun B => B.setG d ((B.getG a) &&& ~~~(B.getG b)))

/-- `orn` (R154). -/
def execOrn (d a b : GReg) (s : State) : Out :=
  s.unit4 (fun B => B.setG d ((B.getG a) ||| ~~~(B.getG b)))

/-- `shl` (R154). -/
def execShl (d a b : GReg) (s : State) : Out :=
  s.unit4 (fun B => B.setG d (shlOp (B.getG a) (shAmt (B.getG b))))

/-- `shr` (R154). -/
def execShr (d a b : GReg) (s : State) : Out :=
  s.unit4 (fun B => B.setG d (shrOp (B.getG a) (shAmt (B.getG b))))

/-- `sra` (R154). -/
def execSra (d a b : GReg) (s : State) : Out :=
  s.unit4 (fun B => B.setG d (sraOp (B.getG a) (shAmt (B.getG b))))

/-- `rol` (R154). -/
def execRol (d a b : GReg) (s : State) : Out :=
  s.unit4 (fun B => B.setG d (rolOp (B.getG a) (shAmt (B.getG b))))

/-- `min` (R154). -/
def execMin (d a b : GReg) (s : State) : Out :=
  s.unit4 (fun B => B.setG d (minOp (B.getG a) (B.getG b)))

/-- `max` (R154). -/
def execMax (d a b : GReg) (s : State) : Out :=
  s.unit4 (fun B => B.setG d (maxOp (B.getG a) (B.getG b)))

/-- `minn` (R154). -/
def execMinn (d a b : GReg) (s : State) : Out :=
  s.unit4 (fun B => B.setG d (minnOp (B.getG a) (B.getG b)))

/-- `maxn` (R154). -/
def execMaxn (d a b : GReg) (s : State) : Out :=
  s.unit4 (fun B => B.setG d (maxnOp (B.getG a) (B.getG b)))

/-- `clz` (R154). -/
def execClz (d a : GReg) (s : State) : Out :=
  s.unit4 (fun B => B.setG d (clzOp (B.getG a)))

/-- `ctz` (R154). -/
def execCtz (d a : GReg) (s : State) : Out :=
  s.unit4 (fun B => B.setG d (ctzOp (B.getG a)))

/-- `pop` (R154). -/
def execPop (d a : GReg) (s : State) : Out :=
  s.unit4 (fun B => B.setG d (popOp (B.getG a)))

/-- `bswap` (R154). -/
def execBswap (d a : GReg) (s : State) : Out :=
  s.unit4 (fun B => B.setG d (bswapOp (B.getG a)))

/-- `adds` (R154, R156). -/
def execAdds (d a b : GReg) (s : State) : Out :=
  s.unit4 (fun B => B.setG d (addsOp s.pfx.sat (B.getG a) (B.getG b)))

/-- `subs` (R154, R156). -/
def execSubs (d a b : GReg) (s : State) : Out :=
  s.unit4 (fun B => B.setG d (subsOp s.pfx.sat (B.getG a) (B.getG b)))

/-- `addi` (R157). -/
def execAddi (d a : GReg) (imm : BitVec 12) (s : State) : Out :=
  s.unit4 (fun B => B.setG d (addOp s.pfx.sat (B.getG a) (imm12 imm)))

/-- `andi` (R157). -/
def execAndi (d a : GReg) (imm : BitVec 12) (s : State) : Out :=
  s.unit4 (fun B => B.setG d (B.getG a &&& imm12 imm))

/-- `ori` (R157). -/
def execOri (d a : GReg) (imm : BitVec 12) (s : State) : Out :=
  s.unit4 (fun B => B.setG d (B.getG a ||| imm12 imm))

/-- `xori` (R157). -/
def execXori (d a : GReg) (imm : BitVec 12) (s : State) : Out :=
  s.unit4 (fun B => B.setG d (B.getG a ^^^ imm12 imm))

/-- `shli` (R157). -/
def execShli (d a : GReg) (sh : BitVec 6) (s : State) : Out :=
  s.unit4 (fun B => B.setG d (shlOp (B.getG a) sh.toNat))

/-- `shri` (R157). -/
def execShri (d a : GReg) (sh : BitVec 6) (s : State) : Out :=
  s.unit4 (fun B => B.setG d (shrOp (B.getG a) sh.toNat))

/-- `srai` (R157). -/
def execSrai (d a : GReg) (sh : BitVec 6) (s : State) : Out :=
  s.unit4 (fun B => B.setG d (sraOp (B.getG a) sh.toNat))

/-- `roli` (R157). -/
def execRoli (d a : GReg) (sh : BitVec 6) (s : State) : Out :=
  s.unit4 (fun B => B.setG d (rolOp (B.getG a) sh.toNat))

/-- `cmp.eq` (R158). -/
def execCmpEq (d : PReg) (a b : GReg) (s : State) : Out :=
  s.unit4 (fun B => B.setP d (condHolds 0 (B.getG a) (B.getG b)))

/-- `cmp.ne` (R158). -/
def execCmpNe (d : PReg) (a b : GReg) (s : State) : Out :=
  s.unit4 (fun B => B.setP d (condHolds 1 (B.getG a) (B.getG b)))

/-- `cmp.lt` (R158). -/
def execCmpLt (d : PReg) (a b : GReg) (s : State) : Out :=
  s.unit4 (fun B => B.setP d (condHolds 2 (B.getG a) (B.getG b)))

/-- `cmp.le` (R158). -/
def execCmpLe (d : PReg) (a b : GReg) (s : State) : Out :=
  s.unit4 (fun B => B.setP d (condHolds 3 (B.getG a) (B.getG b)))

/-- `cmp.ltn` (R158). -/
def execCmpLtn (d : PReg) (a b : GReg) (s : State) : Out :=
  s.unit4 (fun B => B.setP d (condHolds 4 (B.getG a) (B.getG b)))

/-- `cmp.len` (R158). -/
def execCmpLen (d : PReg) (a b : GReg) (s : State) : Out :=
  s.unit4 (fun B => B.setP d (condHolds 5 (B.getG a) (B.getG b)))

/-- `cmpi` (R158). -/
def execCmpi (cc : BitVec 3) (d : PReg) (a : GReg) (imm : BitVec 12) (s : State) : Out :=
  s.unit4 (fun B => B.setP d (condHolds cc.toNat (B.getG a) (imm12 imm)))

/-- `pand` (R159). -/
def execPand (d a b : PReg) (s : State) : Out :=
  s.unit4 (fun B => B.setP d (B.getP a && B.getP b))

/-- `por` (R159). -/
def execPor (d a b : PReg) (s : State) : Out :=
  s.unit4 (fun B => B.setP d (B.getP a || B.getP b))

/-- `pxor` (R159). -/
def execPxor (d a b : PReg) (s : State) : Out :=
  s.unit4 (fun B => B.setP d (B.getP a ^^ B.getP b))

/-- `pandn` (R159). -/
def execPandn (d a b : PReg) (s : State) : Out :=
  s.unit4 (fun B => B.setP d (B.getP a && !(B.getP b)))

/-- `sel` (R160). -/
def execSel (d a b : GReg) (pn : PReg) (inv : Bool) (s : State) : Out :=
  s.unit4 (fun B => B.setG d (if B.getP pn ^^ inv then B.getG a else B.getG b))

/-- `movi` (R168). -/
def execMovi (d : GReg) (imm : Half) (s : State) : Out :=
  s.unit8 (fun B => B.setG d (imm32 imm))

/-- `movhi` (R168). -/
def execMovhi (d : GReg) (imm : Half) (s : State) : Out :=
  s.unit8 (fun B => B.setG d (BitVec.ofNat 64 (2 ^ 32 * imm.toNat + (B.getG d).toNat % 2 ^ 32)))

/-- `addwi` (R168, R156). -/
def execAddwi (d a : GReg) (imm : Half) (s : State) : Out :=
  s.unit8 (fun B => B.setG d (addOp s.pfx.sat (B.getG a) (imm32 imm)))

/-- `cmpwi` (R158). -/
def execCmpwi (cc : BitVec 3) (d : PReg) (a : GReg) (imm : Half) (s : State) : Out :=
  s.unit8 (fun B => B.setP d (condHolds cc.toNat (B.getG a) (imm32 imm)))

/-- `lea` (R168). -/
def execLea (d a : GReg) (imm : Half) (s : State) : Out :=
  s.unit8 (fun B => B.setG d (leaOp (B.getG a) (imm32 imm)))

/-- `sdef` (R174). -/
def execSdef (d : SReg) (a b c : GReg) (fmt : BitVec 16) (spc sb : BitVec 2) (s : State) : Out :=
  s.unit8 (fun B => B.setS d (sdefVal (B.getG a) (B.getG b) (B.getG c) fmt spc sb))

/-- `smov` (R175). -/
def execSmov (d a : SReg) (s : State) : Out :=
  s.unit4 (fun B => B.setS d (B.getS a))

/-- Four draws as `rnd` packs them (R179). -/
def rnd4 (k n : Word) : Word :=
  BitVec.ofNat 64 (draw16 k n + 2 ^ 16 * draw16 k (n + 1) + 2 ^ 32 * draw16 k (n + 2) + 2 ^ 48 * draw16 k (n + 3))

/-- `rnd` (R179): `g0` consumes the four draws too. -/
def execRnd (d : GReg) (s : State) : Out :=
  s.unit4 (fun B => { B.setG d (rnd4 B.rngk B.rngc) with rngc := B.rngc + 4 })

/-- `rndk` (R179). -/
def execRndk (a b : GReg) (s : State) : Out :=
  s.unit4 (fun B => { B with rngk := B.getG a, rngc := B.getG b })

/-- `nop` (R153). -/
def execNop (s : State) : Out :=
  s.unit4 (fun B => B)

/-- `tgt` (R153): a landing pad, no effect. -/
def execTgt (s : State) : Out :=
  s.unit4 (fun B => B)

/-- `yield` (R153, R287): the issue age falls to 0 and the berth is not ready in the next cycle. -/
def execYield (s : State) : Out :=
  s.unit4 (fun B => { B with issueAge := 0, yielded := true })

/-- `sigr` (R221). -/
def execSigr (d : GReg) (s : State) : Out :=
  s.unit4 (fun B => B.setG d (BitVec.ofNat 64 B.seg.acc.toNat))

end Sys2Proof.Machine
end

