-- ==== Sys2Proof/Machine/Stream.lean ====
section
/-! DEFINITION. The streams of a record (R137, R172, R173, R227, R245): which slots an operation uses and which elements it
touches there, the codes and values of elements, and the accesses of one issue with their checks (R237, R264, R387, R391). -/

namespace Sys2Proof.Machine

/-! ## Slots -/

/-- Slot k of a record: 0 D, 1 A, 2 B, 3 C. -/
def recSlot (r : Rec) : Nat → Slot
  | 0 => r.sD
  | 1 => r.sA
  | 2 => r.sB
  | _ => r.sC

/-- `ne` of R240: elements per issue. -/
def recNe (r : Rec) : Nat := fld r.ctl.toNat 0 12 + 1
/-- V of R249: lanes per issue. -/
def recV (r : Rec) : Nat := fld r.ctl.toNat 0 9 + 1
/-- `bi` of R249. -/
def recBi (r : Rec) : Bool := bitN r.ctl.toNat 9
/-- Trips of level 0: the issues of one reduction group (R252). -/
def recT0 (r : Rec) : Nat := r.t0.toNat + 1

/-- A used slot of a record, with the stream that C fixed at append and, for a ring, the slot bound at start. -/
structure Str where
  slot : Nat
  reg : Nat
  v : BitVec 256
  fmt : NFmt
  base : Nat                 -- first byte: scratchpad or accumulator offset, ring slot; not used for global memory
  dim : Slot
  size : Nat                 -- bytes of the ring slot

def Str.spc (t : Str) : Nat := stSpc t.v
/-- Container size in bits (R96). -/
def Str.c (t : Str) : Nat := t.fmt.container
/-- Block size, 0 without scales (R172). -/
def stBlock (v : BitVec 256) : Nat := [0, 16, 32, 0].getD (stSb v) 0
def Str.blk (t : Str) : Nat := stBlock t.v
/-- Bytes of one element, 1 for one narrower than a byte. -/
def elemBytes (c : Nat) : Nat := max 1 (c / 8)

/-- Slot k of a queued record as a stream; with an invalid format or an unbound ring slot it still has a value, and its uses are refused
before it counts. -/
def State.str (s : State) (b : Nat) (r : QRec) (k : Nat) : Str :=
  let u := r.slots.getD k ⟨0, 0, false, none⟩
  let d := ((s.core (coreOf b)).ring (fld u.handle.toNat 0 5)).desc
  let f := (fmtOf (stFmt u.stream)).getD (.int 8 false)
  let base := if stSpc u.stream = 3 then ringSlot d (u.bound.getD 0) else stAddr u.stream
  ⟨k, (recSlot r.r k).str.toNat, u.stream, f, base, recSlot r.r k, ringSz d⟩

/-! ## What an operation uses (R240, R246–R256, R276, R277) -/

/-- How an operation uses a slot: the spaces it may be in, the elements from its index that an issue touches, whether the index ignores
level 0, whether the offsets are data-dependent over the whole stream, whether it writes, and whether its elements are taken as numbers
(`U`, `Val`, `Enc`) and not as codes. -/
structure Use where
  slot : Nat
  spcs : List Nat
  span : Nat
  wr : Bool
  num : Bool
  ign0 : Bool
  whole : Bool

def Use.mk' (slot : Nat) (spcs : List Nat) (span : Nat) (wr num : Bool) : Use := ⟨slot, spcs, span, wr, num, false, false⟩

/-- Span of a block of b × b elements in rows of `cols`. -/
def blockSpan (b cols : Nat) : Nat := (b - 1) * cols + b

/-- Vector operations that take numbers, and those with a B operand and a C operand (R250). -/
def vNum (o : Nat) : Bool := !(o == 24 || o == 27 || (29 ≤ o && o ≤ 33))
def vHasB (o : Nat) : Bool := (16 ≤ o && o ≤ 21) || o == 24 || o == 25 || (29 ≤ o && o ≤ 33) || o == 39
def vHasC (o : Nat) : Bool := o == 19 || o == 24 || o == 39

/-- Block size of `x.tr` (R254). -/
def trBlock (r : Rec) : Nat := [8, 16, 32, 32].getD (fld r.ctl.toNat 0 2) 32

/-- The slots that queue q's operation `opn` uses, in assembly order; `v` gives the stream register of a slot. -/
def uses (q opn : Nat) (r : Rec) (v : Nat → BitVec 256) : List Use :=
  let ne := recNe r
  let V := recV r
  let x := [1, 2, 3]
  match q with
  | 0 => match opn with
    | 0 => [.mk' 0 [1, 3] ne true false, .mk' 1 [0] ne false false]
    | 1 => [.mk' 0 [1, 3] ne true false, ⟨1, [0], ne, false, false, false, true⟩, .mk' 2 [1, 3] 1 false true]
    | 2 => [.mk' 0 [1] ne true false, .mk' 1 [0] ne false false]
    | 3 => [.mk' 0 [1, 3] ne true false, .mk' 1 [0] ne false false]
    | 4 => [.mk' 0 [2] ne true false, .mk' 1 [0] ne false false]
    | 5 => [.mk' 0 [1, 2, 3] ne true false]
    | 6 => [.mk' 1 [0] ne false false]
    | _ => [.mk' 0 [1, 3] ne true true, .mk' 1 [0] ne false true]
  | 1 =>
    if opn = 0 then [.mk' 0 [2] 1024 true true, .mk' 1 [3] (31 * stCols (v 1) + 96) false true,
      .mk' 2 [3] (95 * stCols (v 2) + 32) false true]
    else if opn = 1 then [.mk' 0 [2] 1024 true true, .mk' 1 [3] (31 * stCols (v 1) + 96) false true,
      .mk' 2 [3] (95 * stCols (v 2) + 32) false true, .mk' 3 [1, 3] 1 false false]
    else if opn = 2 then [.mk' 0 [2] 1024 true false]
    else if opn = 3 then [.mk' 0 [2] 1024 true false, .mk' 1 [2] 1024 false false]
    else if opn = 28 then (.mk' 0 x V true true) :: (if recBi r then [] else [.mk' 1 x 1 false true])
    else if opn ≤ 39 then
      [.mk' 0 x V true (vNum opn), .mk' 1 x V false (vNum opn)]
        ++ (if vHasB opn && !(recBi r) then [.mk' 2 x V false (vNum opn)] else [])
        ++ (if vHasC opn then [.mk' 3 x V false true] else [])
    else if opn ≤ 51 then [⟨0, x, 1, true, true, true, false⟩, .mk' 1 x V false true]
    else if opn ≤ 53 then
      let n := if opn = 53 then fld r.ctl.toNat 10 6 + 1 else 1
      [⟨0, x, n, true, true, true, false⟩, .mk' 1 x V false true, ⟨3, x, n, true, true, true, false⟩]
    else if opn = 64 then
      [.mk' 0 x (blockSpan (trBlock r) (stCols (v 0))) true false, .mk' 1 x (blockSpan (trBlock r) (stCols (v 1))) false false]
    else if opn = 65 then [.mk' 0 x V true false, ⟨1, x, V, false, false, false, true⟩, .mk' 2 x V false true]
    else if opn = 80 then [.mk' 0 [1, 3] V true true, .mk' 1 [1, 3] (3 * V) false true, ⟨2, [1], 0, false, true, false, true⟩]
    else [.mk' 0 [1, 3] 1 true true, .mk' 1 [1, 3] (4 * ne) false true, ⟨2, [1], 0, false, true, false, true⟩,
      .mk' 3 [1] (4 * (fld r.ctl.toNat 12 4 + 1)) false true]
  | _ => match opn with
    | 0 => [.mk' 0 [0, 1] ne true false, .mk' 1 x ne false false]
    | 1 =>
      let b := stBlock (v 0)
      if b = 0 then [.mk' 0 [0, 1] ne true true, .mk' 1 x ne false true]
      else [.mk' 0 [0, 1] (blockSpan b (stCols (v 0))) true true, .mk' 1 x (blockSpan b (stCols (v 1))) false true]
    | 2 => [⟨0, [0, 1], ne, true, false, false, true⟩, .mk' 1 x ne false false, .mk' 2 [1, 3] 1 false true]
    | 3 => [.mk' 0 [0] ne true true, .mk' 1 x ne false true]
    | 4 => [.mk' 1 [1, 3] 1 false false]
    | 5 => [.mk' 0 [0] ne true false, .mk' 1 x ne false false]
    | _ => [.mk' 1 x ne false false]

/-- Index of a slot at issue point n, level 0 taken as 0 where the operation ignores it (R252). -/
def useIx (r : Rec) (u : Use) (n : Nat) : Int := slotIx r (recSlot r u.slot) (if u.ign0 then n - n % recT0 r else n)

/-- Least and greatest index of a slot over the nest (R227). -/
def hullIx (r : Rec) (u : Use) : Int × Int :=
  let d := recSlot r u.slot
  let part := fun (st : BitVec 16) (t : BitVec 16) => (t.toNat : Int) * sgnN st.toNat 16
  let ps := (if u.ign0 then [] else [part d.st0 r.t0]) ++ [part d.st1 r.t1, part d.st2 r.t2, part d.st3 r.t3]
  let o := sgnN d.off.toNat 12
  (ps.foldl (fun m p => m + min 0 p) o, ps.foldl (fun m p => m + max 0 p) o)

/-! ## Reading and writing elements (R96, R173, R245) -/

/-- Byte a of global memory as an access of n bytes by a record of context `ctx` reads it: its own stores, those that its fork, its tokens and its
ring slots bring, else its snapshot; a racing aligned element is not torn (R58, R79, R80, R237, log entry 3). -/
def State.recByte (s : State) (r : QRec) (ctx n a : Nat) : Byte := s.seen r.clk r.tid ctx n a

/-- Bytes of one access to an element, 1 where an element is no naturally aligned unit (R237). -/
def Str.unit (t : Str) : Nat := if t.c = 24 then 1 else elemBytes t.c

/-- Virtual address of byte i of a global stream, and its pointer (R173). -/
def Str.ptr (t : Str) (i : Nat) : Word := BitVec.ofNat 64 (stAddr t.v + i)

/-- Byte i of a stream's space. -/
def State.strByte (s : State) (b : Nat) (r : QRec) (t : Str) (i : Nat) : Byte :=
  match t.spc with
  | 0 => match s.walk (s.berth b).ctx (fld (t.ptr i).toNat 0 50) 0 with
    | .ok l => s.recByte r (s.berth b).ctx t.unit l.pa
    | .error _ => 0
  | 2 => AMap.get 0 (s.core (coreOf b)).acc (t.base + i)
  | _ => s.spByte b (t.base + i)

/-- `Code(S, e)`: the container bits of element e (R245), those above a class 0 code ignored (R96). -/
def State.code (s : State) (b : Nat) (r : QRec) (t : Str) (e : Int) : Nat :=
  let e := e.toNat
  let i := e * t.c / 8
  (if 8 ≤ t.c then leNat ((List.range (t.c / 8)).map (fun k => s.strByte b r t (i + k)))
   else fld (s.strByte b r t i).toNat (e * t.c % 8) t.c) % 2 ^ t.fmt.codeBits

/-- `U(S, e)` (R245). -/
def State.uval (s : State) (b : Nat) (r : QRec) (t : Str) (e : Int) : XVal := t.fmt.dec (s.code b r t e)

/-- Scratchpad offset of the scale word of element e (R173). -/
def Str.scaleAt (t : Str) (e : Nat) : Nat :=
  let i := if stCols t.v = 0 then 0 else e / stCols t.v
  let j := if stCols t.v = 0 then e else e % stCols t.v
  stSca t.v + 4 * (i / t.blk * stSbw t.v + j / t.blk)

/-- `Sc(S, e)` (R245). -/
def State.scale (s : State) (b : Nat) (t : Str) (e : Int) : XVal :=
  if t.blk = 0 then xint 1 else decScale (leNat (s.spBytes b (t.scaleAt e.toNat) 4))

/-- `Val(S, e)` (R245). -/
def State.val (s : State) (b : Nat) (r : QRec) (t : Str) (e : Int) : XVal :=
  if t.blk = 0 then s.uval b r t e else scaled (s.uval b r t e) (s.scale b t e)

/-- `Enc(x, S)` under a record's round and sat (R245). -/
def Str.encode (t : Str) (r : Rec) (x : XVal) (draw : Nat) : Nat := t.fmt.enc x r.round.toNat r.sat false draw

/-- What one issue writes to the strand's stores and to global memory, by address: bytes that stand after it. -/
structure Buf where
  sp : Mem
  acc : Mem
  gl : Mem

/-- Byte i of a stream's space as the issue's earlier writes left it. -/
def State.bufByte (s : State) (b : Nat) (r : QRec) (t : Str) (w : Buf) (i : Nat) : Byte :=
  match t.spc with
  | 0 => match s.walk (s.berth b).ctx (fld (t.ptr i).toNat 0 50) 0 with
    | .ok l => (AMap.find w.gl l.pa).getD (s.recByte r (s.berth b).ctx t.unit l.pa)
    | .error _ => 0
  | 2 => (AMap.find w.acc (t.base + i)).getD (s.strByte b r t i)
  | _ => (AMap.find w.sp (t.base + i)).getD (AMap.get 0 (s.core (coreOf b)).sp (t.base + i))

/-- Puts bytes at byte i of a stream's space. -/
def State.bufPut (s : State) (b : Nat) (t : Str) (w : Buf) (i : Nat) (bs : List Byte) : Buf :=
  match t.spc with
  | 0 => { w with gl := bs.zipIdx.foldl (fun m p => match s.walk (s.berth b).ctx (fld (t.ptr (i + p.2)).toNat 0 50) 0 with
      | .ok l => AMap.put m l.pa p.1
      | .error _ => m) w.gl }
  | 2 => { w with acc := ovPut w.acc (t.base + i) bs }
  | _ => { w with sp := ovPut w.sp (t.base + i) bs }

/-- `SetCode(S, e, v)` (R245); the container bits above a class 0 code are written as zero (R96). -/
def State.setCode (s : State) (b : Nat) (r : QRec) (w : Buf) (t : Str) (e : Int) (v : Nat) : Buf :=
  let e := e.toNat
  let i := e * t.c / 8
  let v := v % 2 ^ t.fmt.codeBits
  if 8 ≤ t.c then s.bufPut b t w i (leBytes v (t.c / 8))
  else
    let o := (s.bufByte b r t w i).toNat
    let k := e * t.c % 8
    s.bufPut b t w i [BitVec.ofNat 8 (o - 2 ^ k * fld o k t.c + 2 ^ k * (v % 2 ^ t.c))]

/-! ## Checks of an issue (R264, R387) -/

/-- What stops an issue: the cause code, `taddr`, `tval`, slot and lane; a context fault at once and no trap (R467). -/
structure IFault where
  code : Nat
  addr : Word
  val : Word
  slot : Nat
  lane : Nat
  ctxf : Bool
  deriving DecidableEq, Repr

/-- An element that an issue touches: slot, lane, element, kind; `free`: its index depends on data, so that it is checked here. -/
structure Touch where
  t : Str
  lane : Nat
  e : Int
  k : AKind
  free : Bool

/-- A fault of an access at unit u = queue + 1. -/
def MFault.issue (f : MFault) (q slot lane : Nat) : IFault := ⟨f.code (q + 1), f.addr, f.val, slot, lane, f.ctxf⟩

/-- The check of one element (R264, R387), which reports the element's pointer. DESIGN CHOICE (unsafe; log entry 101): an element beyond the ring slot that was bound is FORMAT of its
issue too; R234 says that it must lie inside, and a ring may have been disabled or changed since the append. -/
def State.touchFault (s : State) (b q bndb : Nat) (x : Touch) : Option IFault :=
  let t := x.t
  let n := t.c / 8
  let fmtF : IFault := ⟨0xA1 + q, 0, BitVec.ofInt 64 x.e, t.slot, x.lane, false⟩
  if x.free && (decide (x.e < 0) || decide ((stLen t.v : Int) ≤ x.e)) then some fmtF
  else
    let i := x.e.toNat * t.c / 8
    match t.spc with
    | 0 =>
      let parts := if n = 3 then [(i, 1), (i + 1, 1), (i + 2, 1)] else [(i, max 1 n)]
      parts.findSome? (fun p =>
        let p0 := if fld (stAddr t.v) 50 4 ≠ 0 then BitVec.ofNat 64 (stAddr t.v) else t.ptr p.1
        match s.access (s.berth b).ctx bndb p0 p.2 x.k with
        | .error f => some ({ f with addr := if fld (stAddr t.v) 50 4 ≠ 0 then f.addr else t.ptr i }.issue q t.slot x.lane)
        | .ok _ => none)
    | 1 => if 0x400000 < t.base + i + max 1 n then some ⟨0x71 + q, BitVec.ofNat 64 (t.base + i), 0, t.slot, x.lane, false⟩ else none
    | 2 => if 0x800000 < t.base + i + max 1 n then some ⟨0x71 + q, BitVec.ofNat 64 (t.base + i), 0, t.slot, x.lane, false⟩ else none
    | _ => if t.size < i + max 1 n then some fmtF else none

/-- The scale word of an element lies in the scratchpad. -/
def scaleFault (q : Nat) (x : Touch) : Option IFault :=
  if x.t.blk = 0 then none
  else if 0x400000 < x.t.scaleAt x.e.toNat + 4 then some ⟨0x71 + q, BitVec.ofNat 64 (x.t.scaleAt x.e.toNat), 0, x.t.slot, x.lane, false⟩ else none

/-! ## Poison (R391, R392) -/

/-- Whether a touched element, or its scale word, lies in poisoned data. -/
def State.touchPoison (s : State) (b : Nat) (x : Touch) : Bool :=
  let t := x.t
  let i := x.e.toNat * t.c / 8
  let K := s.core (coreOf b)
  let n := max 1 (t.c / 8)
  (match t.spc with
    | 0 => (List.range n).any (fun k => match s.walk (s.berth b).ctx (fld (t.ptr (i + k)).toNat 0 50) 0 with
        | .ok l => s.poisoned l.pa 1
        | .error _ => false)
    | 2 => K.accPoison (t.base + i) n
    | _ => K.spPoison (t.base + i) n)
    || (t.blk != 0 && K.spPoison (t.scaleAt x.e.toNat) 4)

/-- Poison marks after the bytes of `ov` have been written in units of u bytes: a unit written whole is clean, one written with
poison is marked (R391, R392). -/
def markUnits (u : Nat) (z : AMap Bool) (ov : Mem) (pz : Bool) : AMap Bool :=
  (ov.map (fun p => p.1 / u)).eraseDups.foldl (fun z l =>
    if pz then AMap.set false z l true
    else if (List.range u).all (fun k => (AMap.find ov (u * l + k)).isSome) then AMap.erase z l else z) z

/-- Lays what an issue wrote over the strand's core; global bytes join the record's own stores (R237). -/
def State.flush (s : State) (b : Nat) (w : Buf) (pz : Bool) : State :=
  let s := s.updCore (coreOf b) (fun c => { c with
    sp := AMap.overlay 0 c.sp w.sp, acc := AMap.overlay 0 c.acc w.acc,
    spz := markUnits 64 c.spz w.sp pz, accz := markUnits 4096 c.accz w.acc pz })
  let s := if w.sp = [] then s else s.updBerth b (fun B => { B with landing := B.landing.map (fun l =>
    (l.1, l.2.filter (fun p => (AMap.find w.sp p.1).isNone))) })
  let gs := (w.gl.map (fun p => p.1 / 32)).eraseDups
  if gs = [] then s
  else if pz then (gs.foldl (fun s g => s.setPoison (32 * g) 1) s).updBerth b (fun B =>
    { B with pzg := gs.foldl (fun z g => AMap.set false z g true) B.pzg })
  else
    let clean := gs.filter (fun g => (List.range 32).all (fun i => (AMap.find w.gl (32 * g + i)).isSome))
    s.updBerth b (fun B => { B with pzg := clean.foldl (fun z g => AMap.erase z g) B.pzg, wholeg := clean.foldl (fun z g => AMap.set false z g true) B.wholeg })

end Sys2Proof.Machine
end

