-- ==== Sys2Proof/Machine/Append.lean ====
section
/-! DEFINITION. What C checks when it appends a record (R228, R234, R235, R240–R264, R274–R279, R376, R381) and what it fixes (R230,
R236, R238). -/

namespace Sys2Proof.Machine

/-- Why a record is refused: class, `taddr`, `tval` (R359). -/
structure AFault where
  cls : Nat
  addr : Word
  val : Word
  deriving DecidableEq, Repr

/-- FORMAT with a value, and ILLEGAL with one. -/
def badFmt (v : Nat) : Option AFault := some ⟨10, 0, BitVec.ofNat 64 v⟩
def badUse (v : Nat) : Option AFault := some ⟨5, 0, BitVec.ofNat 64 v⟩

/-- The first fault, if any. -/
def firstFault (l : List (Option AFault)) : Option AFault := l.findSome? id

/-- The first issue point, in loop order, that satisfies p. -/
def pointWith (r : Rec) (p : Nat → Bool) : Option Nat := (List.range (recIssues r)).find? p

/-! ## Conditions of one slot -/

/-- Whether the element lies on a corner of a b × b block (R246, R254, R258). -/
def onCorner (v : BitVec 256) (b : Nat) (e : Int) : Bool :=
  decide (e < 0) || stCols v == 0 || (e.toNat / stCols v % b == 0 && e.toNat % stCols v % b == 0)

/-- The alignment condition of a slot at an index, and the size reported: whether the issue is misaligned (R246–R248, R254, R258,
R260, R264). -/
def misAligned (q opn : Nat) (r : Rec) (v : Nat → BitVec 256) (k c : Nat) (e : Int) : Bool × Nat :=
  let sv := v k
  let b := stBlock sv
  if q = 0 ∧ opn = 2 ∧ k = 0 then (e * c % 8 != 0, 1)
  else if q = 1 ∧ opn ≤ 3 ∧ stSpc sv = 2 then (((stAddr sv : Int) + 4 * e) % 4096 != 0, 4096)
  else if q = 1 ∧ opn ≤ 1 ∧ k = 1 then
    ((b != 0 && !(onCorner sv b e)) || (opn == 1 && (e % 24 != 0 || stCols sv % 24 != 0)), elemBytes c)
  else if q = 1 ∧ opn ≤ 1 ∧ k = 2 then (b != 0 && !(onCorner sv b e), elemBytes c)
  else if q = 1 ∧ opn = 64 then (stSb (v 1) != 0 && !(onCorner sv (trBlock r) e), elemBytes c)
  else if q = 2 ∧ opn = 1 ∧ k = 0 then (b != 0 && !(onCorner sv b e), elemBytes c)
  else if q = 2 ∧ opn = 4 then (((if stSpc sv = 1 then (stAddr sv : Int) else 0) + e * c / 8) % 64 != 0, 64)
  else (false, 0)

/-- ALIGN of a slot. -/
def slotAlign (q opn : Nat) (r : Rec) (v : Nat → BitVec 256) (u : Use) (c : Nat) : Option AFault :=
  match pointWith r (fun n => (misAligned q opn r v u.slot c (useIx r u n)).1) with
  | none => none
  | some n =>
    let e := useIx r u n
    some ⟨3, BitVec.ofInt 64 ((stAddr (v u.slot) : Int) + e * c / 8), BitVec.ofNat 64 (misAligned q opn r v u.slot c e).2⟩

/-- Fields of `ctx_ckpt` (R261): region size and the base of region k. -/
def ckLog (w : Word) : Nat := fld w.toNat 58 6
def ckRegion (w : Word) (k : Nat) : Nat := 2 ^ 16 * fld w.toNat 16 34 + 2 ^ ckLog w * k

/-- BOUNDS of `s.ckpt`: its D range leaves the own region (R262). -/
def State.ckptBounds (s : State) (r : Rec) (v : Nat → BitVec 256) (u : Use) (c : Nat) : Option AFault :=
  let w := (s.ctx s.myCtx).ckpt
  let sv := v 0
  let lo := ckRegion w (stackOf s.cur)
  let hi := lo + 2 ^ ckLog w
  let va := fld (stAddr sv) 0 50
  let out := fun (n : Nat) =>
    let e := useIx r u n
    ((List.range u.span).find? (fun (i : Nat) =>
      decide ((va : Int) + (e + i) * c / 8 < lo) || decide ((hi : Int) < va + (e + i) * c / 8 + elemBytes c))).map (fun i => e + (i : Int))
  match pointWith r (fun n => (out n).isSome) with
  | none => none
  | some n =>
    let e := (out n).getD 0
    some ⟨7, BitVec.ofInt 64 ((stAddr sv : Int) + e * c / 8), BitVec.ofNat 64 (fld (stAddr sv) 54 10)⟩

/-- Elements that a slot holds: the stream's length, and no more than an enabled ring's slot (R264); the slot of a ring that is disabled now is looked
at when an issue uses it. -/
def State.slotLimit (s : State) (sv : BitVec 256) (c : Nat) : Nat :=
  let d := ((s.core (coreOf s.cur)).ring (fld (s.me.getQ (fld (stAddr sv) 0 4)).toNat 0 5)).desc
  if stSpc sv = 3 && ringEn d then min (stLen sv) (ringSz d * 8 / c) else stLen sv

/-- The first element that the nest names outside [0, limit) (R264). -/
def outside (r : Rec) (ix : Nat → Int) (span limit : Nat) : Option AFault :=
  match pointWith r (fun n => decide (ix n < 0) || decide ((limit : Int) < ix n + span)) with
  | none => none
  | some n => some ⟨10, 0, BitVec.ofInt 64 (if ix n < 0 then ix n else max (ix n) limit)⟩

/-- N of a class 3 format word, and metadata elements per group (R112, R247). -/
def spN (sv : BitVec 256) : Nat := match fmtOf (stFmt sv) with
  | some (.sparse n _) => n
  | _ => 1
def spPer (sv : BitVec 256) : Nat := match fmtOf (stFmt sv) with
  | some (.sparse n true) => n
  | _ => 1

/-- Bytes that one issue of `s.meet` or `s.ring` sends from a stream of c-bit containers (R260, R263): those that the tag registers, none while it is
free, or those of `ne` elements. -/
def State.sendBytes (s : State) (opn : Nat) (r : Rec) (c : Nat) : Nat :=
  if opn = 4 then
    let T := s.tag s.myCtx (r.imm.toNat % 4096)
    if T.alloc then T.bytes else 0
  else cdiv (recNe r * c) 8

/-- Element conditions of a slot. Those of `mma.sp` are on dense indices, stored positions and metadata groups (R247). -/
def State.slotElems (s : State) (q opn : Nat) (r : Rec) (v : Nat → BitVec 256) (u : Use) (c : Nat) : Option AFault :=
  let sv := v u.slot
  let ix := useIx r u
  let ixA := fun (n : Nat) => slotIx r r.sA n
  let last := fun (n : Nat) => (ixA n + 31 * stCols (v 1) + 95) / 24
  if u.whole then none
  else if q = 1 ∧ opn = 1 ∧ u.slot = 1 then
    match outside r ix u.span (stLen sv) with
    | some f => some f
    | none => outside r (fun n => ((last n + 1) * spN (v 3) - 1)) 1 (max (s.slotLimit sv c) (if stSpc sv = 3 then 0 else stLen sv))
  else if q = 1 ∧ opn = 1 ∧ u.slot = 3 then
    let off := sgnN r.sC.off.toNat 12
    match outside r (fun n => off + ixA n / 24 * spPer sv) 1 (s.slotLimit sv c) with
    | some f => some f
    | none => outside r (fun n => off + (last n + 1) * spPer sv - 1) 1 (s.slotLimit sv c)
  else if q = 2 ∧ (opn = 4 ∨ opn = 6) then
    let n := s.sendBytes opn r c
    let size := ringSz ((s.core (coreOf s.cur)).ring (fld (s.me.getQ (fld (stAddr sv) 0 4)).toNat 0 5)).desc
    match outside r ix (if opn = 6 then recNe r else max 1 (cdiv (8 * n) c)) (stLen sv) with
    | some f => some f
    | none => if stSpc sv = 3 ∧ s.slotLimit sv c ≠ stLen sv then
        (pointWith r (fun m => decide ((size : Int) < ix m * c / 8 + n))).map (fun m => ⟨10, 0, BitVec.ofInt 64 (max (ix m) (size * 8 / c))⟩)
      else none
  else outside r ix u.span (s.slotLimit sv c)

/-- Bits of `addr` that a space uses (R173). -/
def addrBits : Nat → Nat
  | 0 => 64
  | 1 => 22
  | 2 => 23
  | _ => 4

/-- A handle that no ring stream may name (R197, R234, R264). -/
def State.badHandle (s : State) (sv : BitVec 256) : Bool :=
  match handleOf (s.me.getQ (fld (stAddr sv) 0 4)) with
  | some (c, _) => c != coreOf s.cur
  | none => true

/-- FORMAT of one slot for itself. -/
def State.slotFormat (s : State) (q opn : Nat) (r : Rec) (v : Nat → BitVec 256) (us : List Use) (u : Use) : Option AFault :=
  let sv := v u.slot
  let fw := stFmt sv
  match fmtOf fw with
  | none => badFmt fw
  | some f =>
    let c := f.container
    let handle := fun (k : Nat) => fld (s.me.getQ (fld (stAddr (v k)) 0 4)).toNat 0 5
    let twice := stSpc sv == 3 && us.any (fun x => decide (x.slot < u.slot) && stSpc (v x.slot) == 3 && handle x.slot == handle u.slot)
    if stSb sv = 3 then badFmt fw
    else firstFault
      [if stRes sv ≠ 0 ∨ 2 ^ addrBits (stSpc sv) ≤ stAddr sv ∨ (stSb sv ≠ 0 ∧ !(f.cls == 0 || (f.cls == 1 && decide (c ≤ 8)))) then
         badFmt (recSlot r u.slot).str.toNat else none,
       if !(u.spcs.contains (stSpc sv)) || (stSpc sv == 2 && fw != 0x000A) || (u.num && f.cls == 3) then badFmt fw else none,
       if stSpc sv = 3 && s.badHandle sv || twice then badFmt fw else none,
       s.slotElems q opn r v u c]

/-- ALIGN and BOUNDS of one slot. Under an invalid format word an element has no size: what depends on one is left out (c = 0). -/
def State.slotPlace (s : State) (q opn : Nat) (r : Rec) (v : Nat → BitVec 256) (u : Use) : Option AFault :=
  let c := ((fmtOf (stFmt (v u.slot))).map NFmt.container).getD 0
  firstFault
    [slotAlign q opn r v u c,
     if q = 2 ∧ opn = 5 ∧ u.slot = 0 ∧ 16 ≤ ckLog (s.ctx s.myCtx).ckpt ∧ ckLog (s.ctx s.myCtx).ckpt ≤ 34 then s.ckptBounds r v u c else none]

/-! ## Conditions across slots (FORMAT) -/

/-- Kind of an `mma` operand (R113): 0 narrow, 1 of 16 bits, 2 not accepted. -/
def mmaKind (f : NFmt) : Nat :=
  match f with
  | .narrow .. => 0
  | .int w _ => if w ≤ 8 then 0 else if w = 16 then 1 else 2
  | .ieee e m => if 1 + e + m = 16 then 1 else 2
  | .sparse .. => 2

/-- Lane limit of a record whose widest container has c bits (R249): 128 for 32 bits, 256 for 16, 512 otherwise, 24 bits included. -/
def laneLimit (c : Nat) : Nat := if c = 32 then 128 else if c = 16 then 256 else 512

/-- A condition on the format of slot k: when it fails, FORMAT with value `fw`, reported as that operand's. -/
structure SlotNeed where
  slot : Nat
  fault : Option AFault

/-- Samples of a grid (R274). -/
def gridN (imm : Word) : Nat × Nat × Nat := (fld imm.toNat 0 16, fld imm.toNat 16 16, fld imm.toNat 32 16)

/-- The format requirements of an operation, each with the operand that it is reported for, in the order of the table (R240, R246–R258,
R274–R279). -/
def formNeeds (q opn : Nat) (r : Rec) (v : Nat → BitVec 256) (us : List Use) : List SlotNeed :=
  let fw := fun (k : Nat) => stFmt (v k)
  let f := fun (k : Nat) => (fmtOf (stFmt (v k))).getD (.int 8 false)
  let c := fun (k : Nat) => (f k).container
  let need := fun (k : Nat) (ok : Bool) => (⟨k, if ok then none else badFmt (fw k)⟩ : SlotNeed)
  let eq := [need 0 (c 0 == c 1)]
  let cls := fun (k n : Nat) => [need k ((f k).cls == n)]
  let hasB := us.any (fun u => u.slot == 2)
  let widest := (us.map (fun u => c u.slot)).foldl max 0
  let lanes := us.map (fun u => need u.slot (decide (recV r ≤ laneLimit widest) || c u.slot != widest))
  let (nx, ny, nz) := gridN r.imm
  let off := sgnN r.sB.off.toNat 12
  let grid : List SlotNeed := [need 2 (stSb (v 2) == 0), ⟨2, if off < 0 then some ⟨10, 0, BitVec.ofInt 64 off⟩ else none⟩,
    ⟨2, if (stLen (v 2) : Int) < off + nx * ny * nz then some ⟨10, 0, BitVec.ofInt 64 (max off (stLen (v 2)))⟩ else none⟩]
  match q with
  | 0 => match opn with
    | 0 => eq
    | 1 => eq ++ cls 2 1
    | 2 => eq
    | 3 => [need 0 (fw 0 == 0x29), need 1 (fw 1 == 0x29)]
    | 4 => [need 1 (fw 1 == 0x000A)]
    | 7 => [need 0 (stSb (v 0) == 0)]
    | _ => []
  | 1 =>
    if opn ≤ 1 then
      let ka := mmaKind (f 1)
      let kb := mmaKind (f 2)
      [need 1 (ka != 2 && stCols (v 1) != 0), need 2 (kb != 2 && stCols (v 2) != 0)]
        ++ (if ka = 1 ∨ kb = 1 then [need 1 (stSb (v 1) == 0), need 2 (stSb (v 2) == 0)] else [need 2 (stSb (v 1) == stSb (v 2))])
        ++ (if opn = 1 then cls 3 3 else [])
    else if opn ≤ 3 then []
    else if opn ≤ 39 then
      let own := match opn with
        | 24 => [need 1 (fw 1 == fw 0)] ++ (if hasB then [need 2 (fw 2 == fw 0)] else []) ++ cls 3 1
        | 25 => [need 0 (match f 0 with
            | .int _ sgn => !sgn
            | _ => false)]
        | 27 => eq
        | 29 | 30 | 31 => cls 0 1 ++ [need 1 ((f 1).cls == 1 && c 1 == c 0)] ++ (if hasB then [need 2 ((f 2).cls == 1 && c 2 == c 0)] else [])
        | 32 | 33 => cls 0 1 ++ cls 1 1 ++ (if hasB then cls 2 1 else [])
        | _ => []
      own ++ lanes
    else if opn ≤ 51 then lanes
    else if opn ≤ 53 then [need 3 ((f 3).cls == 1 && c 3 == 32)] ++ lanes
    else if opn = 64 then
      eq ++ [need 0 (stCols (v 0) != 0), need 1 (stCols (v 1) != 0)]
        ++ (if stSb (v 1) = 0 then [] else [need 0 (stSb (v 0) == stSb (v 1) && stBlock (v 1) == trBlock r)])
    else if opn = 65 then eq ++ cls 2 1 ++ lanes
    else if opn = 80 then cls 1 2 ++ grid ++ lanes
    else [need 0 (fw 0 == 0x29 || fw 0 == 0x2D)] ++ cls 1 2 ++ grid ++ cls 3 2
  | _ => match opn with
    | 0 => eq
    | 1 => if stSb (v 0) = 0 then [] else [need 0 (stCols (v 0) != 0), need 1 (stCols (v 1) != 0)]
    | 2 => eq ++ cls 2 1
    | 3 =>
      let rop := fld r.ctl.toNat 12 4
      [need 0 (if 8 ≤ rop then fw 0 == 0x000A else fw 0 == 0x29 || fw 0 == 0x2D), need 1 (fw 1 == fw 0)]
    | 5 => eq
    | _ => []

/-- Every condition of one operand, in the order of R361: ALIGN, BOUNDS, then FORMAT, of the slot for itself and then as its operation requires. -/
def State.slotFault (s : State) (q opn : Nat) (r : Rec) (v : Nat → BitVec 256) (us : List Use) (u : Use) : Option AFault :=
  firstFault ([s.slotPlace q opn r v u, s.slotFormat q opn r v us u]
    ++ ((formNeeds q opn r v us).filter (fun n => n.slot == u.slot)).map (·.fault))

/-! ## Conditions of `ctl` and `imm` (ILLEGAL) -/

/-- Bits [15:0] of `ctl` that an operation defines. -/
def ctlMask (q opn : Nat) : Nat :=
  match q with
  | 0 => if opn = 2 then 0xFFFF else 0x0FFF
  | 1 =>
    if opn ≤ 3 then 0
    else if opn = 25 then 0x1FFF
    else if opn ≤ 39 then 0x03FF
    else if opn ≤ 52 then 0x01FF
    else if opn = 53 then 0xFDFF
    else if opn = 64 then 0x0003
    else if opn ≤ 80 then 0x01FF
    else 0xFFFF
  | _ => if opn = 1 then 0x3FFF else if opn = 3 then 0xFFFF else if opn = 4 then 0 else 0x0FFF

/-- Bits of `imm` that an operation defines. -/
def immMask (q opn : Nat) (r : Rec) : Nat :=
  match q with
  | 0 => if opn = 2 then 2 ^ 52 - 1 else 0
  | 1 =>
    if 16 ≤ opn ∧ opn ≤ 39 then (if recBi r then 2 ^ 64 - 1 else 0)
    else if opn = 80 ∨ opn = 81 then 2 ^ 49 - 1
    else 0
  | _ => match opn with
    | 1 => 2 ^ 20 - 1
    | 3 => 7
    | 4 => 2 ^ 13 - 1
    | 6 => 2 ^ 16 - 1
    | _ => 0

/-- The ILLEGAL conditions (R228, R243, R250, R254, R258–R264, R274, R279). -/
def State.ctlFault (s : State) (q opn : Nat) (r : Rec) : Option AFault :=
  let ctl := r.ctl.toNat
  let imm := r.imm.toNat
  let f := fun (lo n : Nat) => fld ctl lo n
  let bad := fun (b : Bool) (v : Nat) => if b then badUse v else none
  let nrc := fld imm 48 4
  let (nx, ny, nz) := gridN r.imm
  firstFault
    [bad ((ctl % 65536) &&& (0xFFFF - ctlMask q opn) != 0) ctl,
     bad (bitN ctl 19 && decide (0x110 ≤ f 20 12)) (f 20 12),
     bad (imm &&& (2 ^ 64 - 1 - immMask q opn r) != 0) imm,
     match q, opn with
     | 0, 2 => bad (decide (11 < nrc) || fld imm (4 * (nrc + 1)) (48 - 4 * (nrc + 1)) != 0) imm
     | 1, 25 => bad (decide (4 < f 10 3)) (f 10 3)
     | 1, 64 => bad (f 0 2 == 3) 3
     | 1, 80 => bad ([nx, ny, nz].any (fun n => n == 0 || decide (4096 < n))) imm
     | 1, 81 => bad ([nx, ny, nz].any (fun n => n == 0 || decide (4096 < n))) imm
     | 2, 1 => firstFault [bad (f 12 2 == 3) 3,
         bad (f 12 2 == 1 && ((decScale (fld imm 0 20)).isNan || (decScale (fld imm 0 20)).isZero)) (fld imm 0 20)]
     | 2, 3 => bad (decide (10 < f 12 4)) (f 12 4)
     | 2, 5 =>
       let w := (s.ctx s.myCtx).ckpt
       bad (decide (ckLog w < 16) || decide (34 < ckLog w)) w.toNat
     | 2, 6 => match handleOf r.imm with
       | none => badUse imm
       | some (c, _) => bad (!(s.corePresent c)) imm
     | _, _ => none]

/-- Every check that C makes of a record whose predicate is true (R264, R361): operand by operand in assembly order, the keys that `ctl` and `imm`
hold after the streams (log entry 27). -/
def State.appendFault (s : State) (q opn : Nat) (r : Rec) : Option AFault :=
  let v := fun (k : Nat) => s.me.getS (recSlot r k).str
  let us := uses q opn r v
  firstFault [us.findSome? (s.slotFault q opn r v us), s.ctlFault q opn r]

/-! ## Ranges (R235) -/

/-- Rows of elements that one issue touches in a slot, and elements of a row: the blocks of the matrix unit, of transposition and of a scaled
`s.quant`, else one run (R246, R254, R258). -/
def useRows (q opn : Nat) (r : Rec) (v : Nat → BitVec 256) (u : Use) : Nat × Nat :=
  if q = 1 ∧ opn ≤ 1 ∧ u.slot = 1 then (32, 96)
  else if q = 1 ∧ opn ≤ 1 ∧ u.slot = 2 then (96, 32)
  else if q = 1 ∧ opn = 64 then (trBlock r, trBlock r)
  else if q = 2 ∧ opn = 1 ∧ stBlock (v 0) ≠ 0 then (stBlock (v 0), stBlock (v 0))
  else (1, u.span)

/-- The least and the greatest scale word, counted from the first word of the grid, of the n elements from element e (R173): within a row the words
rise, and so do those of the first and of the last elements of rows. -/
def scaleRun (sv : BitVec 256) (e n : Nat) : Nat × Nat :=
  let b := stBlock sv
  let cols := stCols sv
  let word := fun (x : Nat) => if cols = 0 then x / b else x / cols / b * stSbw sv + x % cols / b
  let l := e + n - 1
  if cols = 0 ∨ e / cols = l / cols then (word e, word l)
  else (min (word e) (word ((e / cols + 1) * cols)), max (word l) (word (l / cols * cols - 1)))

/-- The interval of scale words that a record touches in a slot over all its issues (R235). -/
def scaleHull (q opn : Nat) (r : Rec) (v : Nat → BitVec 256) (u : Use) : List Rng :=
  let sv := v u.slot
  let (h, w) := useRows q opn r v u
  let runs := (List.range (recIssues r)).flatMap (fun n => (List.range h).map (fun (i : Nat) =>
    scaleRun sv (useIx r u n + (i * stCols sv : Nat)).toNat w))
  let runs := if u.whole then [scaleRun sv 0 (stLen sv)] else runs
  match (runs.map (·.1)).min?, (runs.map (·.2)).max? with
  | some lo, some hi => if w = 0 then [] else [⟨1, stSca sv + 4 * lo, stSca sv + 4 * hi + 4, false⟩]
  | _, _ => []

/-- The bytes that a record touches in a slot, from first to past-last (R227, R235): the hull of its elements over the nest. -/
def State.slotHull (s : State) (q opn : Nat) (r : Rec) (v : Nat → BitVec 256) (u : Use) : Nat × Nat :=
  let sv := v u.slot
  let c := ((fmtOf (stFmt sv)).getD (.int 8 false)).container
  let (lo, hi) := hullIx r u
  let bytes := fun (e0 e1 : Nat) => (e0 * c / 8, cdiv (e1 * c) 8)
  if u.whole then bytes 0 (stLen sv)
  else if q = 2 ∧ (opn = 4 ∨ opn = 6) then (lo.toNat * c / 8, hi.toNat * c / 8 + s.sendBytes opn r c)
  else if q = 1 ∧ opn = 1 ∧ u.slot = 3 then
    let off := sgnN r.sC.off.toNat 12
    let hull := hullIx r ⟨1, [], 0, false, false, false, false⟩
    bytes (off + hull.1 / 24 * spPer sv).toNat (off + ((hull.2 + 31 * stCols (v 1) + 95) / 24 + 1) * spPer sv).toNat
  else bytes lo.toNat (hi + u.span).toNat

/-- The ranges of a record: hulls of its scratchpad and accumulator slots and their scale words (R235). Ring slots, landing zones and fabric
deliveries take no part, and nothing of `l.pf` does (R242). -/
def State.recRanges (s : State) (q opn : Nat) (r : Rec) : List Rng :=
  if q = 0 ∧ opn = 6 then [] else
  let v := fun (k : Nat) => s.me.getS (recSlot r k).str
  (uses q opn r v).flatMap (fun u =>
    let sv := v u.slot
    let spc := stSpc sv
    let (lo, hi) := s.slotHull q opn r v u
    (if hi ≤ lo ∨ !(spc == 1 || spc == 2) ∨ (q = 0 ∧ opn = 2 ∧ u.slot = 0) then [] else [⟨spc, stAddr sv + lo, stAddr sv + hi, u.wr⟩])
      ++ (if stBlock sv = 0 then [] else scaleHull q opn r v u))

/-! ## Draws (R238) -/

/-- Draws that one issue, or one group, of a record uses, and whether they count by groups. -/
def drawUnit (q opn : Nat) (r : Rec) (v : Nat → BitVec 256) : Nat × Bool :=
  match q with
  | 0 => if opn = 7 then (recNe r, false) else (0, false)
  | 1 =>
    if (16 ≤ opn ∧ opn ≤ 23) ∨ opn = 26 ∨ opn = 28 ∨ (34 ≤ opn ∧ opn ≤ 39) then (recV r, false)
    else if 48 ≤ opn ∧ opn ≤ 52 then (1, true)
    else if opn = 53 then (fld r.ctl.toNat 10 6 + 1, true)
    else (0, false)
  | _ => if opn = 1 then (if stBlock (v 0) = 0 then recNe r else stBlock (v 0) * stBlock (v 0), false) else (0, false)

/-- k of R238. -/
def recDraws (q opn : Nat) (r : Rec) (v : Nat → BitVec 256) : Nat :=
  let (k, grp) := drawUnit q opn r v
  if r.round = 5 then k * (if grp then recIssues r / recT0 r else recIssues r) else 0

/-! ## The append (R31, R230, R231, R236, R413) -/

/-- FIFO that a token bit of a record of queue q selects (R192): pl, pr, hl, hr. -/
def fifoPl : Nat → Nat := fun q => [2, 0, 1].getD q 0
def fifoPr : Nat → Nat := fun q => [3, 4, 5].getD q 0
def fifoHl : Nat → Nat := fun q => [5, 3, 4].getD q 0
def fifoHr : Nat → Nat := fun q => [0, 1, 2].getD q 0

/-- The later of two counts of records, which wrap at 2^32; 0 is none. -/
def laterOf (x y : Nat) : Nat := if x = 0 then y else if y = 0 then x else if upTo x y then y else x
/-- What is ordered before a record, by queue, of two sources together. -/
def frontMax (a b : List Nat) : List Nat := List.zipWith laterOf a b
/-- Whether the record at position p of a queue lies before a count of it. -/
def beforeFront (p f : Nat) : Bool := f != 0 && upTo (p + 1) f

/-- Numbers the pops and then the pushes of a record in program order: the berth after it, the pops, the pushes, and what is ordered
before the record (R236). -/
def Berth.numberTokens (b : Berth) (q idx : Nat) (r : Rec) : Berth × List (Nat × Nat) × List (Nat × Nat) × List Nat :=
  let pop := fun (x : Berth × List (Nat × Nat) × List Nat) (f : Nat) =>
    let (n, F, fr) := (x.1.fifo f).numberPop
    (x.1.setFifo f F, x.2.1 ++ [(f, n)], frontMax x.2.2 fr)
  let (b, pops, front) := ((if r.pl then [fifoPl q] else []) ++ (if r.pr then [fifoPr q] else [])).foldl pop
    (b, [], b.qfront.getD q [0, 0, 0])
  let mine := front.set q (idx + 1)
  let push := fun (x : Berth × List (Nat × Nat)) (f : Nat) =>
    let (n, F) := (x.1.fifo f).numberPush mine
    (x.1.setFifo f F, x.2 ++ [(f, n)])
  let (b, pushes) := ((if r.hl then [fifoHl q] else []) ++ (if r.hr then [fifoHr q] else [])).foldl push (b, [])
  ({ b with qfront := b.qfront.set q mine }, pops, pushes, front)

/-- An earlier record that a record's ranges overlap and that nothing orders before it (R236): queue, position, where. -/
def Berth.unordered (b : Berth) (q : Nat) (front : List Nat) (rs : List Rng) : Option (Nat × Nat × Word) :=
  b.hist.findSome? (fun h =>
    if h.1 = q ∨ beforeFront h.2.1 (front.getD h.1 0) = true then none
    else (rs.filterMap (fun g => overlapAt h.2.2 g.spc g.lo (g.hi - g.lo) g.wr)).min?.map (fun a => (h.1, h.2.1, BitVec.ofNat 64 a)))

/-- Appends a record to queue q (R31, R139, R230, R264, R369, R413): refused in a handler; C stalls at a full queue; a live record is
checked, its ranges and draws are fixed; tokens are numbered in program order. -/
def State.appendRecord (s : State) (q opn : Nat) (r : Rec) : State :=
  let s := s.writeback s.cur
  let B := s.me
  let live := !r.pen || (s.P r.pred ^^ r.pneg)
  if B.inHandler then s.illegal 0 0
  else if 16 ≤ (B.queue q).length then s.stall
  else match (if live then s.appendFault q opn r else none) with
  | some f => s.trapC f.cls f.addr f.val
  | none =>
    let v := fun (k : Nat) => B.getS (recSlot r k).str
    let idx := (B.app.getD q 0).toNat
    let (B', pops, pushes, front) := B.numberTokens q idx r
    let ranges := if live then s.recRanges q opn r else []
    let det := s.myLaunch.det
    match (if det then B.unordered q front ranges else none) with
    | some (eq, ei, a) => s.trapC 11 a (BitVec.ofNat 64 (2 ^ 32 * eq + ei % 2 ^ 32))
    | none =>
      let us := uses q opn r v
      let slots := [0, 1, 2, 3].map (fun k =>
        (⟨v k, B.getQ (fld (stAddr (v k)) 0 4), live && us.any (fun u => u.slot == k), none⟩ : SlotUse))
      let k := if live then recDraws q opn r v else 0
      let n := if live then BitVec.ofNat 32 (recIssues r) else 0
      let inSeg := B.seg.isOpen
      let rcd : QRec := {
        q := q, opn := opn, r := r, addr := B.pc, word0 := s.ir.getD 0 0, idx := idx, live := live, st := .waitTok, point := 0,
        toks := false, slots := slots, ranges := ranges, draw0 := B.rngc.toNat, draws := k, key := B.rngk, tid := threadOf s.cur s.ev (q + 1),
        clk := s.released s.cur, wr := [], joins := [], pops := pops, pushes := pushes, arrived := none, fcode := 0, faddr := 0, fval := 0,
        flane := 0, poisoned := false, skip := false, gval := [], front := front, inSeg := inSeg, pushed := 0, joinAtEnd := false, sent := 0, left := [] }
      let add := fun (k : Nat) (x : Half) => if q = k then x + n else x
      let seg : Seg := if inSeg then { B.seg with il := add 0 B.seg.il, ix := add 1 B.seg.ix, is := add 2 B.seg.is } else B.seg
      (s.upd (fun _ => { B' with
        recs := B.recs ++ [rcd], app := B.app.set q (BitVec.ofNat 32 (idx + 1)), rngc := B.rngc + BitVec.ofNat 64 k, seg := seg,
        hist := if det && live && ranges != [] then B.hist ++ [(q, idx, ranges)] else B.hist })).done 64

end Sys2Proof.Machine
end

