-- ==== Sys2Proof/Machine/Atomic.lean ====
section
/-! DEFINITION. Atomics, ordered contributions, reduction windows and page migration (R81–R92, R118, R119, R210–R215, R314,
R315, R405). -/

namespace Sys2Proof.Machine

/-! ## The operations (R211) -/

/-- Sign of an exact zero sum in the fabric and in atomics: −0 only when both are (R88, R211). -/
def fAdd (f : NFmt) (x y : Nat) : Nat := f.enc (xadd false (f.dec x) (f.dec y)) 0 false false 0

/-- new of R211 for operation fn on n-byte values. -/
def atomNew (fn n : Nat) (old y cmp : Nat) : Nat :=
  let w := 8 * n
  match fn with
  | 0 => (old + y) % 2 ^ w
  | 1 => (old + 2 ^ w - y) % 2 ^ w
  | 2 => old &&& y
  | 3 => old ||| y
  | 4 => old ^^^ y
  | 5 => if sgnN old w ≤ sgnN y w then old else y
  | 6 => if sgnN old w ≤ sgnN y w then y else old
  | 7 => min old y
  | 8 => max old y
  | 9 => y
  | 10 => if old = cmp then y else old
  | 11 => fAdd fp32 old y
  | 12 => fAdd fp64 old y
  | 13 => fp32.enc (xmax (fp32.dec old) (fp32.dec y)) 0 false false 0
  | _ => fp32.enc (xmin (fp32.dec old) (fp32.dec y)) 0 false false 0

/-! ## Windows (R86–R88, R118, R119) -/

def Ctx.win (c : Ctx) (n : Nat) : Window := AMap.get Window.zero c.wins n
def State.setWin (s : State) (ctx n : Nat) (w : Window) : State := s.updCtx ctx (fun c => { c with wins := AMap.set Window.zero c.wins n w })

/-- The open window that covers va, and the element. -/
def State.winAt (s : State) (ctx va : Nat) : Option (Nat × Nat) :=
  ((List.range 8).find? (fun n =>
    let w := (s.ctx ctx).win n
    w.isOpen && decide (fld w.base.toNat 0 50 ≤ va) && decide (va < fld w.base.toNat 0 50 + 4 * w.n))).map
      (fun n => (n, (va - fld ((s.ctx ctx).win n).base.toNat 0 50) / 4))

/-- Window operation code of an `atom` fn (R212, R214). -/
def winOp : Nat → Option Nat
  | 0 => some 0
  | 2 => some 1
  | 3 => some 2
  | 4 => some 3
  | 5 => some 4
  | 6 => some 5
  | 7 => some 6
  | 8 => some 7
  | 11 => some 8
  | 13 => some 9
  | 14 => some 10
  | _ => none
/-- `atom` fn of a window operation code. -/
def opFn (op : Nat) : Nat := [0, 2, 3, 4, 5, 6, 7, 8, 11, 13, 14].getD op 0

/-- Adds one contribution to a slot exactly (R118). DESIGN CHOICE (unsafe; log entry 95): at the bound of R119 the sum is clamped, and the clamp
does not stick: later contributions of the other sign can bring it back. -/
def Acc.add (a : Acc) (op : Nat) (v : Nat) (pz : Bool) : Acc :=
  let a := { a with count := a.count + 1, pz := a.pz || pz }
  if op = 8 then
    match fp32.dec v with
    | .nan => { a with nan := true, allNegZero := false }
    | .inf s => if s then { a with ninf := true, allNegZero := false } else { a with pinf := true, allNegZero := false }
    | .fin s n e _ =>
      let x : Int := 2 ^ (e + 149).toNat * n
      let t := a.sum + (if s then -x else x)
      { a with sum := clampI t (-(2 ^ 319)) (2 ^ 319 - 1), allNegZero := a.allNegZero && s && n == 0 }
  else if op = 0 then { a with sum := a.sum + v }
  else { a with comb := if a.count = 1 then v else atomNew (opFn op) 4 a.comb v 0 }

/-- Combines two partials of a window's element (R88, R119). -/
def Acc.merge (a b : Acc) (op : Nat) : Acc :=
  if b.count = 0 then a else if a.count = 0 then b else
  { sum := a.sum + b.sum, nan := a.nan || b.nan, pinf := a.pinf || b.pinf, ninf := a.ninf || b.ninf,
    allNegZero := a.allNegZero && b.allNegZero, count := a.count + b.count,
    comb := atomNew (opFn op) 4 a.comb b.comb 0, pz := a.pz || b.pz }

/-- The readout of a slot (R119). -/
def Acc.read (a : Acc) (op : Nat) : Nat :=
  if op = 8 then
    if a.nan || (a.pinf && a.ninf) then 0x7FC00000
    else if a.pinf then 0x7F800000
    else if a.ninf then 0xFF800000
    else if a.sum = 0 then (if a.allNegZero && a.count != 0 then 0x80000000 else 0)
    else fp32.enc (.fin (decide (a.sum < 0)) a.sum.natAbs (-149) 1) 0 false false 0
  else if op = 0 then lowI a.sum 32
  else a.comb

/-! ## Issue (R210–R213, R314, R405) -/

/-- Whether an ordering code releases, and whether it acquires (R76, R83). -/
def isRel (o : Nat) : Bool := o == 2 || o == 3 || o == 4
def isAcq (o : Nat) : Bool := o == 1 || o == 3 || o == 4

/-- Completes an `atom` whose request has been performed or sent. -/
def State.atomDone (s : State) (o : Nat) (d : GReg) (v : Word) : State :=
  let s := if isAcq o then s.acquire s.cur [] else s
  (s.setG d v).done 8

/-- The request that an `atom` of ordering o and scope sc sends. -/
def State.atomReq (s : State) (fn w : Nat) (p y cmp : Word) (reply : Bool) (o sc : Nat) : AtomReq :=
  { berth := s.cur, ctx := s.myCtx, stk := stackOf s.cur, fn := fn, w := w, ptr := p, y := BitVec.ofNat 64 (y.toNat % 2 ^ (8 * w)), cmp := cmp,
    reply := reply, pz := false, byRec := none, ordB := none, handle := s.me.handle, pix := s.me.pixc, lsl := s.me.lsl, tid := s.me.tid,
    iss := s.ev + 1, clk := s.me.clk, rels := s.me.pubRels s.cur ++ (if isRel o then [⟨s.released s.cur, sc, s.cur, false⟩] else []),
    acq := if isAcq o then some sc else none, words := s.unitWords }

/-- C sends an atomic, which takes its number among C's logged events here (R307). -/
def State.sendAtom (s : State) (r : AtomReq) : State :=
  ({ s with atoms := s.atoms ++ [r] } : State).upd (fun B => if s.myLaunch.det then { B with pixc := B.pixc + 1 } else B)

/-- The scope of the release part: .sc acts as `fence.sc` too (R83, R189). -/
def relScope (o sc : Nat) : Nat := if o = 4 then 3 else sc

/-- Runs the release part of an `atom` of ordering o, if it has one (R76, R82, R83, R211). -/
def State.relPart (s : State) (o sc : Nat) (k : State → State) : State := if isRel o then s.release (relScope o sc) k else k s

/-- An `atom` of n bytes (R211). In a window it is a contribution; C waits for all but one that is .rlx with destination `g0` (R212). -/
def State.atomExec (s : State) (fn n : Nat) (d a b : GReg) (cmp : Word) (o sc : Nat) (ord : Bool) : State :=
  match s.me.answer with
  | some v => s.atomDone o d v
  | none =>
    let p := s.G a
    let y := s.G b
    let va := fld p.toNat 0 50
    match s.access s.myCtx s.myLaunch.bndb p n .at with
    | .error f => s.accessFault f
    | .ok pa =>
      let flushes := !ord && s.me.obuf.any (fun e => decide (fld e.ptr.toNat 0 50 < va + n) && decide (va < fld e.ptr.toNat 0 50 + (if e.wide then 8 else 4)))
      if ord && (o != 0 || d != 0 || bitN pa 45) then s.illegal p y
      else match s.winAt s.myCtx va with
      | some (w, e) =>
        if flushes then (s.sendBatch s.cur).waitFor .reply else
        if d ≠ 0 ∨ n ≠ 4 ∨ winOp fn ≠ some ((s.ctx s.myCtx).win w).op then s.illegal p (BitVec.ofNat 64 w)
        else s.relPart o sc (fun s =>
          let s : State := { s with contribs := s.contribs ++ [⟨s.atomReq fn 4 p y 0 (o != 0) o sc, w, e⟩] }
          if o = 0 then s.done 8 else s.waitFor .reply)
      | none =>
        if bitN pa 45 && (sc != 3 || !(fn == 0 || fn == 9 || fn == 10)) then s.illegal p y
        else if ord then
          if 32 ≤ s.me.obuf.length then (s.sendBatch s.cur).waitFor .reply
          else if s.batchOut s.cur then s.waitFor .reply
          else (s.upd (fun B => { B with obuf := B.obuf ++ [⟨fn, sc, n == 8, y, p, B.batch, false, none, B.tid, s.ev + 1, B.clk⟩] })).done 8
        else if flushes then (s.sendBatch s.cur).waitFor .reply
        else if !(isRel o) && s.batchOut s.cur then s.waitFor .reply
        else s.relPart o sc (fun s =>
          let reply := !(o == 0 && d == 0)
          let s := s.sendAtom (s.atomReq fn n p y cmp reply o sc)
          if reply then s.waitFor .reply else s.done 8)

/-- Operations 0–9, whose width is the code in `c`. -/
def atomW (fn : Nat) (d a b : GReg) (w : Bool) (o : BitVec 3) (sc : BitVec 2) (ord : Bool) (s : State) : Out :=
  .next ((s.writeback s.cur).atomExec fn (if w then 4 else 8) d a b 0 o.toNat sc.toNat ord)

/-- `atom.add` (R210, R211). -/
def execAtomAdd (d a b : GReg) (w : Bool) (o : BitVec 3) (sc : BitVec 2) (ord : Bool) (s : State) : Out :=
  atomW 0 d a b w o sc ord s

/-- `atom.sub` (R210, R211). -/
def execAtomSub (d a b : GReg) (w : Bool) (o : BitVec 3) (sc : BitVec 2) (ord : Bool) (s : State) : Out :=
  atomW 1 d a b w o sc ord s

/-- `atom.and` (R210, R211). -/
def execAtomAnd (d a b : GReg) (w : Bool) (o : BitVec 3) (sc : BitVec 2) (ord : Bool) (s : State) : Out :=
  atomW 2 d a b w o sc ord s

/-- `atom.or` (R210, R211). -/
def execAtomOr (d a b : GReg) (w : Bool) (o : BitVec 3) (sc : BitVec 2) (ord : Bool) (s : State) : Out :=
  atomW 3 d a b w o sc ord s

/-- `atom.xor` (R210, R211). -/
def execAtomXor (d a b : GReg) (w : Bool) (o : BitVec 3) (sc : BitVec 2) (ord : Bool) (s : State) : Out :=
  atomW 4 d a b w o sc ord s

/-- `atom.min` (R210, R211). -/
def execAtomMin (d a b : GReg) (w : Bool) (o : BitVec 3) (sc : BitVec 2) (ord : Bool) (s : State) : Out :=
  atomW 5 d a b w o sc ord s

/-- `atom.max` (R210, R211). -/
def execAtomMax (d a b : GReg) (w : Bool) (o : BitVec 3) (sc : BitVec 2) (ord : Bool) (s : State) : Out :=
  atomW 6 d a b w o sc ord s

/-- `atom.minn` (R210, R211). -/
def execAtomMinn (d a b : GReg) (w : Bool) (o : BitVec 3) (sc : BitVec 2) (ord : Bool) (s : State) : Out :=
  atomW 7 d a b w o sc ord s

/-- `atom.maxn` (R210, R211). -/
def execAtomMaxn (d a b : GReg) (w : Bool) (o : BitVec 3) (sc : BitVec 2) (ord : Bool) (s : State) : Out :=
  atomW 8 d a b w o sc ord s

/-- `atom.xchg` (R210, R211). -/
def execAtomXchg (d a b : GReg) (w : Bool) (o : BitVec 3) (sc : BitVec 2) (ord : Bool) (s : State) : Out :=
  atomW 9 d a b w o sc ord s

/-- `atom.cas` (R210, R211). -/
def execAtomCas (d a b c : GReg) (o : BitVec 3) (sc : BitVec 2) (ord : Bool) (s : State) : Out :=
  .next ((s.writeback s.cur).atomExec 10 8 d a b ((s.writeback s.cur).G c) o.toNat sc.toNat ord)

/-- `atom.fadd.s` (R210, R211). -/
def execAtomFaddS (d a b : GReg) (o : BitVec 3) (sc : BitVec 2) (ord : Bool) (s : State) : Out :=
  .next ((s.writeback s.cur).atomExec 11 4 d a b 0 o.toNat sc.toNat ord)

/-- `atom.fadd.d` (R210, R211). -/
def execAtomFaddD (d a b : GReg) (o : BitVec 3) (sc : BitVec 2) (ord : Bool) (s : State) : Out :=
  .next ((s.writeback s.cur).atomExec 12 8 d a b 0 o.toNat sc.toNat ord)

/-- `atom.fmax.s` (R210, R211). -/
def execAtomFmaxS (d a b : GReg) (o : BitVec 3) (sc : BitVec 2) (ord : Bool) (s : State) : Out :=
  .next ((s.writeback s.cur).atomExec 13 4 d a b 0 o.toNat sc.toNat ord)

/-- `atom.fmin.s` (R210, R211). -/
def execAtomFminS (d a b : GReg) (o : BitVec 3) (sc : BitVec 2) (ord : Bool) (s : State) : Out :=
  .next ((s.writeback s.cur).atomExec 14 4 d a b 0 o.toNat sc.toNat ord)

/-! ## Performance at the home port (R81, R82, R90–R93, R392) -/

/-- Rewrites n keys of a moved frame in a sparse table. -/
def moveKeys (m : AMap α) (n old new : Nat) : AMap α :=
  (AMap.window m old n new).foldl (fun k p => AMap.put k p.1 p.2) (AMap.clearRange m old n)

/-- Counts one atomic at its frame (R90); when a remote counter reaches a `thr` that is not 0 the frame is to be evaluated, once however often that
happens before it is (R93). -/
def State.countFrame (s : State) (ctx va pa src : Nat) : State :=
  let h := s.home pa
  let thr := fld (s.ctx ctx).migt.toNat 0 16
  if bitN pa 45 then s else
  let fr := fld pa 21 22
  let c := AMap.get [0, 0, 0, 0] (s.stack h).frames fr
  let c := c.set src (min 65535 (c.getD src 0 + 1))
  let s := s.updStack h (fun k => { k with frames := AMap.set [0, 0, 0, 0] k.frames fr c })
  if src ≠ h ∧ thr ≠ 0 ∧ thr ≤ c.getD src 0 ∧ !(s.migQueue.any (fun q => q.1 == ctx && q.2.1 / 2 ^ 21 == va / 2 ^ 21)) then
    { s with migQueue := s.migQueue ++ [(ctx, va, src)] } else s

/-- The evaluation of the frame that va maps (R90, R91). A frame that is being moved stays where it goes, and a list entry that a move has taken is no
longer valid (R92). -/
def State.evalFrame (s : State) (ctx va t : Nat) : State :=
  match s.walk ctx va 0 with
  | .error _ => s
  | .ok l =>
    let h := s.home l.pa
    let fr := fld l.pa 21 22
    let c := AMap.get [0, 0, 0, 0] (s.stack h).frames fr
    let s' := s.updStack h (fun k => { k with frames := AMap.set [0, 0, 0, 0] k.frames fr (c.map (· / 2)) })
    let list := 512 * fld (s.ctx ctx).migf.toNat 9 37
    let ent := (List.range 64).find? (fun i =>
      let e := memNat s.mem (list + 8 * i) 8
      bitN e 0 && fld e 43 2 == t && !(bitN e 45) && !(s.migrs.any (fun m => m.ent == list + 8 * i)))
    let moving := s.migrs.any (fun m => m.old == 2 ^ 21 * fld l.pa 21 25)
    if 2 * c.getD h 0 < c.getD t 0 ∧ l.level = 2 ∧ bitN l.ent 5 ∧ !(bitN l.ent 6) ∧ !(bitN l.pa 45) ∧ h ≠ t ∧ !moving then
      match ent with
      | some i => { s' with migrs := s'.migrs ++ [⟨ctx, l.pte, list + 8 * i, 2 ^ 21 * fld l.pa 21 25,
                      2 ^ 21 * fld (memNat s.mem (list + 8 * i) 8) 21 25⟩] }
      | none => s'
    else s'

/-- Evaluates the frames that wait, at once outside deterministic mode, at a launch boundary in it (R93). -/
def State.evalFrames (s : State) : State :=
  let quiet := fun (c : Nat) => s.berths.all (fun b => b.2.ctx != c || b.2.st == .free)
  let det := fun (c : Nat) => (s.ctx c).launches.any (fun l => l.resident && l.det)
  let now := s.migQueue.filter (fun q => quiet q.1 || !(det q.1))
  now.foldl (fun s q => s.evalFrame q.1 q.2.1 q.2.2)
    { s with migQueue := s.migQueue.filter (fun q => !(quiet q.1 || !(det q.1))) }

/-- Whether the frame of pa is being moved: its accesses are held (R92 step 1). -/
def State.held (s : State) (pa : Nat) : Bool := s.migrs.any (fun m => m.old ≤ pa && pa < 2 ^ 21 + m.old)

/-- What ends one atomic or contribution: its record's send is acknowledged, or C's wait is answered. -/
def State.atomAnswer (s : State) (r : AtomReq) (old : Nat) : State :=
  s.updBerth r.berth (fun B => match r.byRec with
    | some q => B.sendAck q
    | none => if r.reply then { B with answer := some (BitVec.ofNat 64 old) } else B)

/-- The 4-byte places of an atomic location. -/
def syncKeys (pa w : Nat) : List Nat := (List.range (w / 4)).map (fun i => pa / 4 * 4 + 4 * i)

/-- Adds a release to those of a location: one entry for each berth, scope and row of R77. -/
def Rel.join (l : List Rel) (r : Rel) : List Rel :=
  if l.any (fun x => x.src == r.src && x.sc == r.sc && x.via == r.via) then
    l.map (fun x => if x.src == r.src && x.sc == r.sc && x.via == r.via then { x with clk := x.clk.both r.clk } else x)
  else l ++ [r]

/-- The releases that an atomic at a location reads (R77). -/
def State.relsAt (s : State) (pa w : Nat) : List Rel := (syncKeys pa w).flatMap (AMap.get [] s.sync)

/-- The order of a location holds these releases too. -/
def State.addRels (s : State) (pa w : Nat) (rs : List Rel) : State :=
  { s with sync := (syncKeys pa w).foldl (fun m k => AMap.set [] m k (rs.foldl Rel.join (AMap.get [] m k))) s.sync }

/-- The acquire side of an atomic of C: what its own acquire part takes, what a later `ref` may take, and what one that came after it in program order takes
now (R77, R190). -/
def State.acqPart (s : State) (r : AtomReq) (found : List Rel) : State :=
  let B := s.berth r.berth
  if r.byRec.isSome || B.tid != r.tid then s else
  let s := s.setBerth r.berth { B with acqs := (found.filter (·.via)).foldl Rel.join B.acqs }
  let late := found.filter (fun x => x.via && covers x.sc x.src r.berth && B.refs.any (fun p => decide (r.iss < p.2) && covers p.1 x.src r.berth))
  let s := if late = [] then s else s.updBerth r.berth (fun B => { B with clk := late.foldl (fun k x => k.both x.clk) B.clk })
  match r.acq with
  | none => s
  | some sc => s.acquire r.berth ((found.filter (fun x => !x.via && covers x.sc x.src r.berth && covers sc x.src r.berth)).foldl (fun k x => k.both x.clk) [])

/-- Whether the unpublished byte at address a of the requesting strand comes before a request: the last store of the strand or of a record of it there
does (R75, R79). -/
def State.goesUnder (s : State) (r : AtomReq) (a : Nat) : Bool :=
  match ((AMap.find s.hist a).getD []).find? (fun v => v.who / 8 % 512 == (r.berth + 1) % 512 && decide (v.who % 8 < 4)) with
  | some v => if v.who = r.tid then decide (v.iss ≤ r.iss) else decide (v.iss ≤ AMap.get 0 r.clk v.who)
  | none => true

/-- Performs one atomic at its place (R81, R211): own unpublished bytes of the location that come before it go first (log entry 11); those that come after
it stay with the strand. -/
def State.atomRun (s : State) (r : AtomReq) (pa : Nat) : State :=
  let B := s.berth r.berth
  let own := B.pend.filter (fun p => decide (pa ≤ p.1) && decide (p.1 < pa + r.w) && s.goesUnder r p.1)
  let s := s.layOv own []
  let old := memNat s.mem pa r.w
  let new := leBytes (atomNew r.fn r.w old r.y.toNat r.cmp.toNat) r.w
  let pz := s.poisoned pa r.w
  let found := s.relsAt pa r.w
  let s := s.record r.tid r.iss r.ctx (ovPut [] pa new)
  let s := ({ s with mem := memPut s.mem pa new } : State).addRels pa r.w r.rels
  let s := if r.pz then (s.setPoison pa r.w).sentPoison r.ctx 0xCC r.berth else s
  let s := s.updBerth r.berth (fun B => { B with pend := B.pend.filter (fun p => (AMap.find own p.1).isNone) })
  let s := if pz then s.cki r.ctx 0 0xCC r.berth true else s
  ((s.acqPart r found).atomAnswer r old).countFrame r.ctx (fld r.ptr.toNat 0 50) pa r.stk

/-- The home of a request has gone, or its page refuses it: C traps at the `atom` (R424 step 5). -/
def State.atomFail (s : State) (r : AtomReq) (f : MFault) : State :=
  if r.reply then s.faultAt r.berth f r.words else s.ctxFault r.ctx (f.code 12) r.berth (s.launch r.ctx r.lsl).seq false

/-- log₂ of a width. -/
def wlog (w : Nat) : Nat := if w = 8 then 3 else 2

/-- The object of an ATOM record (R308), and its key among the counters of a log. -/
def AtomReq.obj (r : AtomReq) : Nat := fld r.ptr.toNat 0 50 + 2 ^ 50 * wlog r.w
def AtomReq.key (r : AtomReq) : Nat := 0x14 * 2 ^ 64 + r.obj
/-- Party kind of a request's records (R306). -/
def AtomReq.pk (r : AtomReq) : Nat := match r.byRec with
  | none => 0
  | some q => q + 1

/-- The gate of one atomic: its task, its berth and its number are those of its issue (R306, R307). -/
def State.atomGate (s : State) (r : AtomReq) : Gate :=
  s.logGate r.ctx r.lsl ⟨0x14, r.obj, s.logCnt r.ctx r.lsl r.key, r.pk, r.handle.toNat, s.logBerth r.berth, r.pix⟩

/-- The gate of the part of batch n that a port performs, with its size (R315). DESIGN CHOICE (unsafe; log entry 118): the party is C with C's next number,
whether an instruction or an `s.red` made the entries; R306 and R315 do not say which. -/
def State.batchGate (s : State) (r : AtomReq) (n port size : Nat) : Gate :=
  s.logGate r.ctx r.lsl ⟨0x15, n % 2 ^ 32 + 2 ^ 32 * s.rank port, 2 ^ 32 * (s.logCnt r.ctx r.lsl (0x15 * 2 ^ 64 + port) % 2 ^ 32) + size, 0,
    r.handle.toNat, s.logBerth r.berth, r.pix⟩

/-- Requests of one batch and one home port. -/
def State.samePart (s : State) (r q : AtomReq) : Bool :=
  q.berth == r.berth && q.ordB == r.ordB && s.portOf q.ctx q.ptr == s.portOf r.ctx r.ptr

/-- Whether the log holds a request at its home port (R309, R311). -/
def State.logHolds (s : State) (r : AtomReq) : Bool :=
  match r.ordB with
  | none => (s.atomGate r).held
  | some n => (s.batchGate r n (s.portOf r.ctx r.ptr) (s.atoms.filter (s.samePart r)).length).held

/-- Whether a request has reached its home port and is held there: its frame is being moved, its log holds it, or its access fails. -/
def State.portHolds (s : State) (r : AtomReq) : Bool :=
  match s.xlate r.ctx (fld r.ptr.toNat 0 50) r.ptr .at with
  | .error _ => true
  | .ok l => s.held l.pa || s.logHolds r

/-- Whether two requests name one location. -/
def AtomReq.sameLoc (q r : AtomReq) : Bool := q.ctx == r.ctx && fld q.ptr.toNat 3 47 == fld r.ptr.toNat 3 47

/-- Whether request q, which was made before r, goes first: to the same location by the same strand (R211); in the same class from the same stack to the
same other stack, unless its port holds it (R29, R84); of the same record, while the log takes their records (R305); and, with the log full, to the same
location at all (R309). -/
def State.goesFirst (s : State) (q r : AtomReq) : Bool :=
  (q.berth == r.berth && q.sameLoc r)
    || (q.stk == r.stk && s.portOf q.ctx q.ptr == s.portOf r.ctx r.ptr && q.stk != s.portOf r.ctx r.ptr && !(s.portHolds q))
    || ((s.launch r.ctx r.lsl).logs && q.berth == r.berth && !q.ofTask && !r.ofTask && q.byRec == r.byRec && q.handle == r.handle)
    || ((s.launch q.ctx q.lsl).logs && !(s.launch q.ctx q.lsl).rpl && q.sameLoc r && s.logHolds q)

/-- Whether the log has another request of C's task before r: one with a lower number (R305, R307). -/
def State.numberedFirst (s : State) (r : AtomReq) : Bool :=
  (s.launch r.ctx r.lsl).logs && r.ofTask && s.atoms.any (fun q => q.berth == r.berth && q.ofTask && q.handle == r.handle && decide (q.pix < r.pix))

/-- ATOMIC_PERFORM (R81, R82, R226): request k, when no earlier request goes first. -/
def execAtomicPerform (s : State) : Out :=
  let k := s.arg.k
  match s.atoms[k]? with
  | none => .next s
  | some r =>
    if (s.atoms.take k).any (s.goesFirst · r) || s.numberedFirst r || r.ordB.isSome then .next s else
    let s' := { s with atoms := s.atoms.eraseIdx k }
    match s.xlate r.ctx (fld r.ptr.toNat 0 50) r.ptr .at with
    | .error f => .next (if f.cls = 0 then s else s'.atomFail r f)
    | .ok l =>
      if s.held l.pa then .next s else
      .next (match s'.atomGate r with
        | .go s => ((s.bumpCnt r.ctx r.lsl r.key).atomRun r l.pa).evalFrames
        | .hold => s
        | .bad s => s)

/-- ORDERED_BATCH_PERFORM (R315): the entries for one home port of the batch that holds request k are performed one after
another. -/
def execOrderedBatchPerform (s : State) : Out :=
  let k := s.arg.k
  match s.atoms[k]? with
  | none => .next s
  | some r =>
    match r.ordB with
    | none => .next s
    | some n =>
      let mine := s.samePart r
      let wait := s.atoms.any (fun q => mine q && match s.xlate q.ctx (fld q.ptr.toNat 0 50) q.ptr .at with
        | .ok l => s.held l.pa
        | .error f => f.cls == 0)
      let first := (s.atoms.takeWhile (fun q => !(mine q))).any (s.goesFirst · r)
      let before := s.atoms.any (fun q => q.berth == r.berth && match q.ordB with
        | some m => decide (m < n)
        | none => false)
      if wait || before || first || s.numberedFirst r then .next s else
      let port := s.portOf r.ctx r.ptr
      let batch := s.atoms.filter mine
      let s' := { s with atoms := s.atoms.filter (fun q => !(mine q)) }
      let run := fun (s : State) => batch.foldl (fun s q => match s.xlate q.ctx (fld q.ptr.toNat 0 50) q.ptr .at with
        | .ok l => s.atomRun q l.pa
        | .error f => s.atomFail q f) s
      .next (match s'.batchGate r n port batch.length with
        | .go s => (run (s.bumpCnt r.ctx r.lsl (0x15 * 2 ^ 64 + port))).evalFrames
        | .hold => s
        | .bad s => s)

/-- MIGRATION_COPY_COMPLETE (R92): move k copies the frame, redirects the leaf, swaps the list entry and releases the held
accesses; what strands hold of the frame's bytes, and what is known of their order, moves with it. -/
def execMigrationCopyComplete (s : State) : Out :=
  let k := s.arg.k
  match s.migrs[k]? with
  | none => .next s
  | some m =>
    let mem := AMap.overlay 0 (AMap.clearRange s.mem m.new (2 ^ 21)) (AMap.window s.mem m.old (2 ^ 21) m.new)
    let pte := memNat s.mem m.pte 8
    let s : State := { s with
      mem := mem, migrs := s.migrs.eraseIdx k,
      hist := moveKeys (AMap.clearRange s.hist m.new (2 ^ 21)) (2 ^ 21) m.old m.new,
      sync := moveKeys (AMap.clearRange s.sync m.new (2 ^ 21)) (2 ^ 21) m.old m.new,
      poison := (AMap.window s.poison (m.old / 32) (2 ^ 16) (m.new / 32)).foldl (fun z p => AMap.set false z p.1 p.2)
        (AMap.clearRange s.poison (m.new / 32) (2 ^ 16)),
      berths := s.berths.map (fun b => (b.1, { b.2 with
        pend := moveKeys b.2.pend (2 ^ 21) m.old m.new,
        pzg := moveKeys b.2.pzg (2 ^ 16) (m.old / 32) (m.new / 32),
        wholeg := moveKeys b.2.wholeg (2 ^ 16) (m.old / 32) (m.new / 32),
        recs := b.2.recs.map (fun r => { r with wr := moveKeys r.wr (2 ^ 21) m.old m.new }) })) }
    .next ((s.storeAt m.pte (leBytes (pte - 256 * fld pte 8 38 + m.new) 8)).storeAt m.ent (leBytes (m.old + 1) 8))

/-! ## `rwopen`, `rwclose`, contributions and the merge (R86–R89, R214, R215) -/

/-- Stacks on which a window of the strand's launch reserves slots (R86, R215). -/
def State.winStacks (s : State) : Nat := s.myLaunch.f 72 4 &&& s.live

/-- `rwopen` (R214, R215, R381). A replay takes the logged number or refusal (R311). -/
def execRwopen (d a b : GReg) (s : State) : Out :=
  let s := s.writeback s.cur
  let p := s.G a
  let y := (s.G b).toNat
  let n := fld y 0 16
  let op := fld y 16 4
  let va := fld p.toNat 0 50
  .next (if va % 64 ≠ 0 then s.trapC 3 p 64
  else match s.rangeCheck s.myCtx s.myLaunch.bndb p (4 * n) .at with
    | .error f => s.accessFault f
    | .ok _ =>
      let c := s.ctx s.myCtx
      let overlap := (List.range 8).any (fun k =>
        let w := c.win k
        w.isOpen && decide (fld w.base.toNat 0 50 < va + 4 * n) && decide (va < fld w.base.toNat 0 50 + 4 * w.n))
      if fld y 20 44 ≠ 0 ∨ 10 < op ∨ n < 16 ∨ 32768 < n ∨ n % 16 ≠ 0 ∨ overlap then s.illegal p (s.G b)
      else s.release 2 (fun s =>
        let ks := maskList s.winStacks
        let room := ks.all (fun k => (s.stack k).redSlots + n ≤ 32768)
        let open1 := fun (k : Nat) => s.gateC (s.logC s.cur 0x18 k 0) (fun s =>
          let s := ks.foldl (fun s k => s.updStack k (fun t => { t with redSlots := t.redSlots + n })) s
          ((s.setWin s.myCtx k ⟨true, p, n, op, s.winStacks, [], 0, none⟩).setG d (BitVec.ofNat 64 k)).done 4)
        -- DESIGN CHOICE (safe; log entry 125): R308 gives the record of a refusal a window number, and a refused `rwopen` has none; it is 0
        let refuse := s.gateC (s.logC s.cur 0x18 0 2) (fun s => (s.setG d (BitVec.allOnes 64)).done 4)
        match s.logMine s.cur 0x18 (fun q => q.arg % 2 == 0) with
        | some (k, a) => if bitN a 1 then refuse else if room && !((s.ctx s.myCtx).win k).isOpen then open1 k else s.waitFor .log
        | none => match (List.range 8).find? (fun k => !((s.ctx s.myCtx).win k).isOpen), room with
          | some k, true => open1 k
          | _, _ => refuse))

/-- `rwclose` (R214, R88, R89): waits until WINDOW_MERGE has merged the window. -/
def execRwclose (a : GReg) (s : State) : Out :=
  let s := s.writeback s.cur
  let v := s.G a
  .next (match s.me.answer with
  | some _ => s.done 4
  | none =>
    if fld v.toNat 3 61 ≠ 0 ∨ !((s.ctx s.myCtx).win v.toNat).isOpen then s.illegal 0 v
    else s.release 2 (fun s =>
      let w := (s.ctx s.myCtx).win v.toNat
      if w.closing.isSome then s.waitFor (.win v.toNat)
      else (s.setWin s.myCtx v.toNat { w with closing := some s.cur }).waitFor .reply))

/-- Contributions a window holds. -/
def Window.total (w : Window) : Nat := (w.parts.map (fun p => p.2.count)).sum

/-- The contributions of one party to one element of a window that are on their way, oldest first. -/
def State.kin (s : State) (c : Contrib) : List Contrib :=
  s.contribs.filter (fun x => x.win == c.win && x.elem == c.elem && x.req.ctx == c.req.ctx && x.req.berth == c.req.berth && x.req.byRec == c.req.byRec
    && x.req.tid == c.req.tid)

/-- How many of them the log still has as atomics, performed after the window's close (R89, R313): records of the party with the element's address, for C
among its next events. -/
def State.lateOnes (s : State) (c : Contrib) : Nat :=
  let r := c.req
  let now := (s.berth r.berth).pixc
  s.logTally r.ctx r.lsl (fun q => q.typ == 0x14 && q.obj == r.obj && q.hnd == r.handle.toNat && q.pk == r.pk
    && (if r.byRec.isNone then decide (now ≤ q.pix) && decide (q.pix < now + s.contribs.length) else q.pix == r.pix)) 0 (s.lcnt r.ctx r.lsl)

/-- Whether a replay's log seems to have contribution c as one of its party's that come after the close: the last of them do. -/
def State.seemsLate (s : State) (c : Contrib) : Bool :=
  let ks := s.kin c
  decide (ks.length - s.lateOnes c ≤ (ks.takeWhile (· != c)).length)

/-- Whether a replay keeps a contribution for after the window's close (R313): its log has as many merged as have come, or has this one as an atomic, unless
the window is closing and nothing else on its way could make up the logged count. DESIGN CHOICE (unsafe; log entry 126): the log does not say which
contributions a close has merged, and where it leaves that open the model takes those that came first. -/
def State.comesLate (s : State) (c : Contrib) (w : Window) : Bool :=
  let r := c.req
  if !(s.launch r.ctx r.lsl).follows then false else
  let full := match s.logNext r.ctx r.lsl (fun q => q.typ == 0x18 && q.obj == c.win && bitN q.arg 0) with
    | .found _ q => decide (fld q.arg 32 32 ≤ w.total)
    | _ => false
  full || (s.seemsLate c && !(w.closing.isSome && s.contribs.all (fun x => x.win != c.win || x.req.ctx != r.ctx || s.seemsLate x)))

/-- Whether the window of a contribution is still the one that covered its address at its issue. -/
def State.covered (s : State) (c : Contrib) : Bool :=
  let w := (s.ctx c.req.ctx).win c.win
  w.isOpen && fld c.req.ptr.toNat 0 50 == fld w.base.toNat 0 50 + 4 * c.elem

/-- The stack whose switch accumulates a contribution (R87): its own, or the lowest that holds the window's slots. -/
def State.switchOf (s : State) (c : Contrib) : Nat :=
  let w := (s.ctx c.req.ctx).win c.win
  if bitN w.stks c.req.stk then c.req.stk else (lowestSet w.stks 4).getD 0

/-- A contribution that its window's close has left out becomes an atomic at its home port (R89); one of C takes its number among C's logged events here
(R307). -/
def State.becomesAtom (s : State) (r : AtomReq) : State :=
  let B := s.berth r.berth
  if r.byRec.isNone && (s.launch r.ctx r.lsl).det then
    ({ s with atoms := s.atoms ++ [{ r with pix := B.pixc }] } : State).setBerth r.berth { B with pixc := B.pixc + 1 }
  else { s with atoms := s.atoms ++ [r] }

/-- REDUCTION_CONTRIBUTION_ARRIVE (R87, R89): contribution k reaches the switch of its stack, or of the lowest that holds the window's slots, and is
accumulated; those of one stack to another, whatever their window, arrive in issue order (R29). With its window closed it is an atomic at the home port. -/
def execReductionContributionArrive (s : State) : Out :=
  let k := s.arg.k
  match s.contribs[k]? with
  | none => .next s
  | some c =>
    let r := c.req
    let w := (s.ctx r.ctx).win c.win
    let s' := { s with contribs := s.contribs.eraseIdx k }
    let stk := s.switchOf c
    if !(s.covered c) then (if ((s.kin c).head?).any (· != c) then .next s else .next (s'.becomesAtom r))
    else if s.comesLate c w then .next s
    else if stk ≠ r.stk ∧ (s.contribs.take k).any (fun x => x.req.stk == r.stk && s.covered x && s.switchOf x == stk
        && !(s.comesLate x ((s.ctx x.req.ctx).win x.win))) then .next s
    else
      let key := 65536 * stk + c.elem
      .next ((s'.setWin r.ctx c.win { w with parts := AMap.put w.parts key ((AMap.get Acc.zero w.parts key).add w.op r.y.toNat r.pz) }).atomAnswer r 0)

/-- Every partial of element e of a window merged. -/
def Window.elem (w : Window) (e : Nat) : Acc :=
  (List.range 4).foldl (fun a k => a.merge (AMap.get Acc.zero w.parts (65536 * k + e)) w.op) Acc.zero

/-- The elements that received a contribution, each once. -/
def Window.touched (w : Window) : List Nat := (w.parts.map (fun p => p.1 % 65536)).eraseDups

/-- Merges one element at its home port, by the `rwclose` of berth b (R88), which reads the location and what is poisoned of it (R392, R394): an acquire that reads it comes after the `rwclose` (R77). A page that no
longer takes the write is a fault of the device's own access at the home port. -/
def State.mergeElem (s : State) (ctx b : Nat) (w : Window) (e : Nat) : State :=
  match s.walk ctx (fld w.base.toNat 0 50 + 4 * e) 0 with
  | .error f => s.deviceFault ctx f 12 (s.launchOf b).seq
  | .ok l =>
    let m := memNat s.mem l.pa 4
    let old := s.poisoned l.pa 4
    let a := (w.elem e)
    let r := (Acc.zero.add w.op m false).merge a w.op
    let s := if old then s.cki ctx 0 0xCC 0xFF true else s
    let s := s.storeBy (s.berth b).tid ctx l.pa (leBytes (r.read w.op) 4)
    let s := s.addRels l.pa 4 [⟨s.released b, 2, b, false⟩, ⟨s.released b, 2, b, true⟩]
    if a.pz then (s.setPoison l.pa 4).sentPoison ctx 0xCC 0xFF else s

/-- Whether every element of a window can be merged now: its home answers, and its frame is not being moved (R89, R92). -/
def State.mayMerge (s : State) (ctx : Nat) (w : Window) : Bool :=
  w.touched.all (fun e => match s.walk ctx (fld w.base.toNat 0 50 + 4 * e) 0 with
    | .error f => f.cls != 0
    | .ok l => !(s.held l.pa))

/-- WINDOW_MERGE (R88, R89, R313): the closing window is merged once every contribution that happens before the `rwclose` has been accumulated; its
slots are released and the `rwclose` is answered. Contributions still on their way become atomics at their home ports. -/
def execWindowMerge (s : State) : Out :=
  let ctx := s.arg.ctx
  let win := s.arg.win
  let w := (s.ctx ctx).win win
  match w.closing with
  | none => .next s
  | some b =>
    let mine := fun (c : Contrib) => c.req.ctx == ctx && c.win == win
    let K := s.released b
    if !w.isOpen || s.contribs.any (fun c => mine c && decide (c.req.iss ≤ AMap.get 0 K c.req.tid)) || !(s.mayMerge ctx w) then .next s else
    .next (match s.logC b 0x18 win (1 + 2 ^ 32 * (w.total % 2 ^ 32)) with
      | .go s =>
        let s := w.touched.foldl (fun s e => s.mergeElem ctx b w e) s
        let s := (maskList w.stks).foldl (fun s k => s.updStack k (fun t => { t with redSlots := t.redSlots - w.n })) s
        let late := s.contribs.filter mine
        let s := late.foldl (fun s c => s.becomesAtom c.req) ({ s with contribs := s.contribs.filter (fun c => !(mine c)) } : State)
        (s.setWin ctx win Window.zero).updBerth b (fun B => { B with answer := some 0 })
      | .hold => s
      | .bad s => s)

end Sys2Proof.Machine
end

