-- ==== Sys2Proof/Machine/Launch.lean ====
section
/-! DEFINITION. Launch queues: kicks and fetching (R331, R332, R441), the start of a launch (R36–R39, R53, R304, R311, R312, R317, R318,
R404, R430, R468), and the context registers with an effect of their own (R304, R394). -/

namespace Sys2Proof.Machine

/-! ## The host's port (R330, R335) -/

/-- Whether the port named by `act` works. -/
def State.portUp (s : State) : Bool := (s.stack s.act).image != [] && s.up s.act
/-- Whether the context windows are served: from the first view on (R335). -/
def State.windows (s : State) : Bool := s.vnum != 0 && s.portUp

/-! ## Reports in `ctx_flt` -/

/-- Writes `ctx_flt`, stops fetching and signals `mvec` when `men` is set (R371, R372). -/
def State.writeFlt (s : State) (ctx code berth seq : Nat) (nres : Bool) : State :=
  let v := 2 ^ 32 * (seq % 2 ^ 32) + 2 ^ 16 * berth + 2 ^ 8 * code + b2n nres * 4 + 1
  let s := s.updCtx ctx (fun c => { c with flt := BitVec.ofNat 64 v, stopFetch := true })
  let m := (s.ctx ctx).fltm.toNat
  if bitN m 11 then s.msix (fld m 0 11) else s

/-- A torn or refused launch: `svd` with nothing saved, what runs runs on; an earlier report stands (R372, R404, R441). -/
def State.reportOpen (s : State) (ctx code seq : Nat) : State :=
  let s := if bitN (s.ctx ctx).flt.toNat 0 then s.updCtx ctx (fun c => { c with stopFetch := true }) else s.writeFlt ctx code 0xFF seq true
  s.updCtx ctx (fun c => { c with svd := true, svdOpen := true })

/-! ## Fetching (R331, R332, R441) -/

/-- `lqlog` as a number of slots. -/
def Ctx.lqSlots (c : Ctx) : Nat := 2 ^ fld c.lqCfg.toNat 0 4
/-- Kicked records not fetched yet. -/
def Ctx.owed (c : Ctx) : Nat := lowI ((c.kicked : Int) - (c.fetched : Nat)) 32

/-- Whether the CRC-32C of a launch record with `chk` as zero is its `chk` (R332). -/
def chkOk (bs : List Byte) : Bool := crc32c (List.replicate 4 0 ++ (bs.take 384).drop 4) == leNat (bs.take 4)

/-- A fetched launch. -/
def Launch.fetched (w : Nat) : Launch := { Launch.none with rcd := w }

/-- Fetches record after record until none is owed, one must be read again, or fetching stops (R332). -/
def State.fetchLoop (s : State) (ctx : Nat) : Nat → State
  | 0 => s
  | fuel + 1 =>
    let c := s.ctx ctx
    if c.fetching || c.stopFetch || c.owed == 0 || decide (c.lqSlots < c.owed) then s else
    let sq := (c.fetched + 1) % 2 ^ 32
    match s.readVA ctx (512 * fld c.lqBase.toNat 9 41 + 512 * (sq % c.lqSlots)) 384 with
    | .error f => if f.cls = 0 then s.updCtx ctx (fun c => { c with fetching := true })
        else (s.updCtx ctx (fun c => { c with tries := 0 })).reportOpen ctx (f.devCode 14) sq
    | .ok bs =>
      if fld (leNat bs) 32 32 = sq ∧ chkOk bs then
        (s.updCtx ctx (fun c => { c with fetched := sq, tries := 0, launches := c.launches ++ [Launch.fetched (leNat bs)] })).fetchLoop ctx fuel
      else if c.tries = 8 then (s.updCtx ctx (fun c => { c with tries := 0 })).reportOpen ctx 0xEE sq
      else s.updCtx ctx (fun c => { c with tries := c.tries + 1, fetching := true })

/-- Goes on fetching what is owed. -/
def State.fetchOn (s : State) (ctx : Nat) : State := s.fetchLoop ctx (s.ctx ctx).owed

/-- LQ_KICK (R332): the host writes `arg.v` to `lq_kick` of context `arg.ctx`. -/
def execLqKick (s : State) : Out :=
  let c := s.ctx s.arg.ctx
  let k := fld s.arg.v.toNat 0 32
  .next (if !s.windows || !(bitN c.lqCfg.toNat 8) || k == c.kicked || decide (c.lqSlots < lowI ((k : Int) - (c.fetched : Nat)) 32) then s
  else (s.updCtx s.arg.ctx (fun c => { c with kicked := k })).fetchOn s.arg.ctx)

/-- LAUNCH_FETCH_RETRY (R332): 1 µs has passed since a failed read. -/
def execLaunchFetchRetry (s : State) : Out :=
  .next (if (s.ctx s.arg.ctx).fetching then (s.updCtx s.arg.ctx (fun c => { c with fetching := false })).fetchOn s.arg.ctx else s)

/-- LQ_CFG_WRITE (R331, R430): the host writes `arg.v` to `lq_cfg`. -/
def execLqCfgWrite (s : State) : Out :=
  let v := s.arg.v.toNat
  let ok := s.windows && (s.ctx s.arg.ctx).launches.all (fun l => l.recovery) && decide (1 ≤ fld v 0 4) && decide (fld v 0 4 ≤ 12)
  .next (if !ok then s
  else s.updCtx s.arg.ctx (fun c => { c with
    lqCfg := BitVec.ofNat 64 (2 ^ 32 * fld v 32 32 + 2 ^ 8 * fld v 8 1 + fld v 0 4),
    fetched := fld v 32 32, completed := fld v 32 32, skipLvl := false, rdnSeen := [] }))

/-- CTX_LOGC_WRITE (R304, R309): the host sets `lcnt` of the launch of parity `arg.par`. -/
def execCtxLogcWrite (s : State) : Out :=
  .next (if !s.windows then s
  else (s.updCtx s.arg.ctx (fun c => if s.arg.par = 0 then { c with logc0 := s.arg.v } else { c with logc1 := s.arg.v })).settleBars s.arg.ctx)

/-- CTX_CKI_CLEAR (R394). -/
def execCtxCkiClear (s : State) : Out := .next (if !s.windows then s else s.updCtx s.arg.ctx (fun c => { c with cki := 0 }))

/-! ## Levels and the tests of a launch (R36–R38, R316–R318, R404) -/

/-- Stacks that level v needs (R316). -/
def needStacks (v : Nat) : Nat := 4 - v

/-- The context level (R317). -/
def State.ctxLevel (s : State) (ctx : Nat) : Option Nat :=
  (List.range 4).find? (fun v => bitN (s.ctx ctx).lvls.toNat v && decide (needStacks v ≤ s.nlive))

/-- The lowest n stacks of a mask. -/
def lowestOf (m n : Nat) : Nat := ((maskList m).take n).foldl (fun v k => v + 2 ^ k) 0

/-- The stacks on which a launch runs (R318). -/
def State.runsOn (s : State) (l : Launch) : Nat := lowestOf (l.f 72 4 &&& s.live) (needStacks (l.f 68 2))

/-- Field limits and reserved bits of one stage descriptor (R37). -/
def Launch.stageOk (l : Launch) (i : Nat) : Bool :=
  let q := l.qlog i
  l.sf i 207 49 == 0 && l.sf i 88 40 == 0 && decide (4 ≤ q) && decide (q ≤ 14) && decide (l.sf i 192 15 ≤ 2 ^ q) && l.qbase i % 64 == 0
    && decide (1 ≤ l.smax i) && decide (l.smax i ≤ 128) && decide (l.smin i ≤ l.smax i) && l.entry i % 4 == 0

/-- Field limits and reserved bits of a launch record (R36, R37). -/
def Launch.limitsOk (l : Launch) : Bool :=
  l.f 704 320 == 0 && l.f 592 48 == 0 && l.f 587 4 == 0 && l.f 461 51 == 0 && l.f 261 59 == 0 && l.f 80 48 == 0 && l.f 70 2 == 0
    && decide (1 ≤ l.nst) && decide (l.nst ≤ 8) && l.f 512 64 % 8 == 0 && decide (l.ncpy ≤ 4096) && l.f 384 64 % 32 == 0
    && (!l.det || (decide (l.f 256 5 ≤ 25) && l.f 192 64 % 4096 == 0)) && (List.range l.nst).all l.stageOk

/-- Berths of the present cores on a set of stacks. -/
def State.berthCount (s : State) (mask : Nat) : Nat := ((maskList mask).map (fun k => 2 * popN (s.coreMask k) 16)).foldl (· + ·) 0

/-- The code with which a launch is refused, if it is (R404). -/
def State.refusal (s : State) (ctx : Nat) (l : Launch) : Option Nat :=
  let on := s.runsOn l
  if !l.limitsOk then some 0x59
  else if s.ctxLevel ctx ≠ some (l.f 68 2) ∨ on = 0 ∨ (l.f 128 64 ≠ 0 ∧ l.f 128 64 ≠ (s.shapeHash on).toNat) then some 0xD9
  else if s.berthCount on < l.sumMin then some 0xE9
  else none

/-- The stage queues of a launch when it is accepted: the owner is the home of the `qbase` page, and the host's records carry their
counts (R40–R44); one that cannot be read now is read when its task is to be granted (R468). -/
def State.openStages (s : State) (ctx : Nat) (l : Launch) : Nat → Except MFault (AMap StageQ)
  | 0 => .ok []
  | i + 1 => match s.openStages ctx l i with
    | .error f => .error f
    | .ok m => match s.xlate ctx (fld (l.qbase i) 0 50) (BitVec.ofNat 64 (l.qbase i)) .rd with
      | .error f => .error f
      | .ok p =>
        let n := l.sf i 192 15
        let slot := fun (j : Nat) => match s.readVA ctx (l.qbase i + 64 * j) 2 with
          | .ok bs => (⟨leNat bs, true, false, false, 0, [], false⟩ : TaskSlot)
          | .error _ => ⟨0, true, false, false, 0, [], true⟩
        .ok (AMap.put m i { StageQ.zero with tail := n, slots := (List.range n).foldl (fun t j => AMap.put t j (slot j)) [], owner := s.home p.pa })

/-! ## Redundant pairs that hold back a start (R326, R327) -/

/-- Valid entry i of a context's redundant table, as one number (R326). -/
def State.rdnEntry (s : State) (ctx i : Nat) : Option Nat :=
  let r := (s.ctx ctx).rdn.toNat
  if !(bitN r 63) || decide (fld r 0 6 < i) then none else
  match s.readVA ctx (4096 * fld r 12 38 + 64 * i) 64 with
  | .error _ => none
  | .ok bs => if bitN (leNat bs) 0 then some (leNat bs) else none

/-- The pair of entry word e at index i: its place and the numbers of its launches. -/
def rdnKey (e i : Nat) : Nat := i + 64 * fld e 32 64

/-- Whether the running launch with number `seq` is the later copy of a pair: no launch starts beside it (R327). -/
def State.pairRuns (s : State) (ctx seq : Nat) : Bool :=
  (List.range 64).any (fun i => match s.rdnEntry ctx i with
    | none => false
    | some e =>
      let seen := AMap.get (0, 0) (s.ctx ctx).rdnSeen (rdnKey e i)
      (fld e 64 32 == seq && seen.1 != 0) || (fld e 32 32 == seq && seen.2 != 0))

/-! ## LAUNCH_START -/

/-- Replaces the first launch of the context that has not started by f of it. -/
def State.updNext (s : State) (ctx : Nat) (f : Launch → List Launch) : State :=
  s.updCtx ctx (fun c =>
    let pre := c.launches.takeWhile (fun l => !(l.st == .queued))
    match c.launches.dropWhile (fun l => !(l.st == .queued)) with
    | [] => c
    | l :: r => { c with launches := pre ++ f l ++ r })

/-- A fetched launch of another level after a forced change of view ends without running (R430): `seq` + 2^33 goes to `cmpa`; a failed write is
that of R468, and one without an answer is made again. -/
def State.skip (s : State) (ctx : Nat) (l : Launch) : State :=
  let fin := fun (s : State) => (s.updNext ctx (fun _ => [])).updCtx ctx (fun c => { c with completed := l.seq })
  match s.writeVA2 ctx (l.f 512 64) (leBytes (2 ^ 33 + l.seq) 8) with
  | .ok s => fin s
  | .error f => if f.cls = 0 then s else fin (s.deviceFault ctx f 9 l.seq)

/-- The launch is accepted: it is bound to its stacks and its queues exist; it waits for its berths (R38, R42). -/
def State.accept (s : State) (ctx : Nat) (l : Launch) (early : Bool) : State :=
  match s.openStages ctx l l.nst with
  | .error f => s.deviceFault ctx f 9 l.seq
  | .ok m => s.updNext ctx (fun l => [{ l with st := .waitBerths, stks := s.runsOn l, stages := m, early := early, order := s.ev }])

/-- Record k of the two START records is what this replay expects (R311, R312). -/
def State.startMatches (s : State) (ctx lsl k : Nat) : Gate :=
  let l := s.launch ctx lsl
  match s.readVA ctx (l.logSlot k) 32 with
  | .error f => s.logFault ctx f 0xFF l.seq
  | .ok bs =>
    let (r, q) := logRead (leNat bs)
    if q ≠ k then .bad (s.diverge ctx lsl k r.typ 5)
    else if r.typ ≠ 1 ∨ r.obj ≠ s.reproSig.toNat ∨ r.arg % 2 ^ 32 ≠ l.seq then .bad (s.diverge ctx lsl k r.typ 6)
    else .go (s.updLog ctx lsl (fun g => { g with used := AMap.set false g.used k true, k := k + 1 }))

/-- START record k is written, or checked in a replay (R306–R308, R311). -/
def State.startRecord (s : State) (ctx lsl k : Nat) : Gate :=
  let l := s.launch ctx lsl
  if !l.det || decide (k < l.log.k) || l.log.brk then .go s
  else if l.rpl then (if s.lcnt ctx lsl ≤ k then .hold else s.startMatches ctx lsl k)
  else s.logGate ctx lsl ⟨1, s.reproSig.toNat, l.seq, 6, 0xFFFFFFFF, 0xFF, k⟩

/-- Whether the context's next launch may start now: after its predecessor has ended, or early on its `sms` (R39, R53, R54, R322, R327). -/
def State.mayStart (s : State) (ctx : Nat) (l : Launch) : Bool :=
  let c := s.ctx ctx
  let before := c.launches.takeWhile (fun l => !(l.st == .queued))
  let waits := match c.rdnWait with
    | some i => l.rdnC != some i
    | none => false
  s.vnum != 0 && !s.drn && !c.pnd && !c.frozen && !waits && match before with
    | [] => true
    | [p] => p.st == .running && p.sms && l.f 79 1 == 1 && p.seq % 2 != l.seq % 2 && !(s.pairRuns ctx p.seq)
    | _ => false

/-- Whether an accepted launch may start as it was accepted: its level, its stacks and their shape are still right (R318). -/
def State.stillRight (s : State) (ctx : Nat) (l : Launch) : Bool := s.runsOn l == l.stks && (s.refusal ctx l).isNone

end Sys2Proof.Machine
end

