-- ==== Sys2Proof/Machine/View.lean ====
section
/-! DEFINITION. Views and the agreement (R320–R324), suspect reports and fencing (R421–R425), what a loss aborts and what recovers
(R426–R431), discard (R373), and address-space teardown with the quarantine list (R432–R434). -/

namespace Sys2Proof.Machine

/-! ## Dropping what a context holds (R373, R427) -/

/-- A strand leaves its berth without a save. -/
def State.freeBerth (s : State) (b : Nat) : State := (s.disown b).setBerth b (s.berth b).empty

/-- Berths that a context holds, also in SAVE and RESTORE. -/
def State.heldBerths (s : State) (ctx : Nat) : List Nat := (s.berths.filter (fun b => b.2.st != .free && b.2.ctx == ctx)).map (·.1)

/-- Stores of a strand that have not reached memory: its own and its records'. -/
def Berth.unsent (B : Berth) : Mem := B.recs.foldl (fun m r => r.wr.foldl (fun m p => AMap.put m p.1 p.2) m) B.pend

/-- Which of them their home ports have accepted (R427, log entry 14). -/
def State.acceptedStores (s : State) (m : Mem) : Mem := m.filter (fun p => Config.storeAccepted s.ev (p.1 / 8))

/-- 64 KiB frames that the discarded stores, atomics and contributions of a context name (R433): those on their way, those buffered, those gathered in open
windows, and the host stores that its launches still owe. -/
def State.discardedFrames (s : State) (ctx : Nat) : List Nat :=
  let ptr := fun (p : Word) => match s.xlate ctx (fld p.toNat 0 50) p .at with
    | .ok l => [l.pa / 65536]
    | .error _ => []
  let st := (s.heldBerths ctx).flatMap (fun b => ((s.berth b).unsent.filter (fun p => !(Config.storeAccepted s.ev (p.1 / 8)))).map (fun p => p.1 / 65536))
  let bu := (s.heldBerths ctx).flatMap (fun b => (s.berth b).obuf.flatMap (fun o => ptr o.ptr))
  let held := (s.ctx ctx).wins.flatMap (fun w => w.2.parts.flatMap (fun p => ptr (w.2.base + BitVec.ofNat 64 (4 * (p.1 % 65536)))))
  let owed := (s.ctx ctx).launches.flatMap (fun l => l.hostw.map (fun p => p.1 / 65536))
  (st ++ bu ++ held ++ owed ++ (s.atoms.filter (fun a => a.ctx == ctx)).flatMap (fun a => ptr a.ptr)
    ++ (s.contribs.filter (fun a => a.req.ctx == ctx)).flatMap (fun a => ptr a.req.ptr)).eraseDups

/-- The reduction-store and matching-store slots of a context are released (R373, R427). -/
def State.releaseSlots (s : State) (ctx : Nat) : State :=
  let c := s.ctx ctx
  let ops := c.tags.flatMap (fun t => t.2.q0 ++ t.2.q1)
  let s := (ops.filter (·.stored)).foldl (fun s o => s.updStack o.lock (fun k => { k with meetSlots := k.meetSlots - 1 })) s
  if c.frozen then s else
  (c.wins.filter (fun w => w.2.isOpen)).foldl (fun s w =>
    (maskList w.2.stks).foldl (fun s k => s.updStack k (fun t => { t with redSlots := t.redSlots - w.2.n })) s) s

/-- The stores of a context so far are settled: each byte reads from now on as memory has it (R427). -/
def State.forgetCtx (s : State) (ctx : Nat) : State :=
  { s with hist := (s.hist.map (fun e => (e.1, e.2.filter (fun v => v.ctx != ctx)))).filter (fun e => e.2 != []) }

/-- Everything a context has running, on its way or saved is dropped; accepted stores are performed (R373, R427). -/
def State.dropCtx (s : State) (ctx : Nat) : State :=
  let s := (s.heldBerths ctx).foldl (fun s b =>
    let ov := s.acceptedStores (s.berth b).unsent
    ((s.layOv ov (s.berth b).wholeg).forget ov).freeBerth b) s
  let s := s.releaseSlots ctx
  let s := { s with atoms := s.atoms.filter (·.ctx != ctx), contribs := s.contribs.filter (·.req.ctx != ctx), tsubs := s.tsubs.filter (·.ctx != ctx),
                    deps := s.deps.filter (·.ctx != ctx), meets := s.meets.filter (·.ctx != ctx), mouts := s.mouts.filter (·.ctx != ctx),
                    rmsgs := s.rmsgs.filter (·.ctx != ctx), mcs := s.mcs.filter (·.ctx != ctx) }
  let s := (s.ctx ctx).savedBerths.foldl (fun s b => s.updBerth b (fun B => { B with bank := [] })) s
  (s.forgetCtx ctx).updCtx ctx (fun c => { c with
    launches := c.launches.filter (fun l => !l.resident), gangs := [], tags := [], wins := [], movUsed := [], pendFault := none, cfault := false,
    pnd := false, svd := false, svdOpen := false, resuming := false, arrivedStk := 0, savedBerths := [], savedState := [], savedCores := [],
    rdnWait := none, rdnRes := none })

/-- CTX_FLT_DSC (R373, R404, R415, R441): the host writes `dsc` while `svd` is set: the saved context, its resident launches and a
refused record are dropped, and fetching goes on. After a torn or a refused launch, which saved nothing, what runs runs on to completion. DEDUCED (unsafe;
log entry 54): R373 ends the resident launches and R441 lets them complete; here its own rule goes first. -/
def execCtxFltDsc (s : State) : Out :=
  let ctx := s.arg.ctx
  .next (if !s.windows || !(s.ctx ctx).svd then s
  else if (s.ctx ctx).svdOpen then (s.updCtx ctx (fun c => { c with
    svd := false, svdOpen := false, launches := c.launches.filter (fun l => l.st != .refused),
    flt := BitVec.ofNat 64 (setBitN c.flt.toNat 0 false), stopFetch := c.pendFault.isSome, fetching := false, tries := 0 })).fetchOn ctx
  else ((s.dropCtx ctx).updCtx ctx (fun c => { c with
    launches := c.launches.filter (fun l => l.st == .queued), flt := BitVec.ofNat 64 (setBitN c.flt.toNat 0 false), ldiv := 0,
    stopFetch := false, fetching := false, tries := 0 })).fetchOn ctx)

/-! ## Recovery (R428) -/

/-- The recovery entry of level v, when it is valid: its address and its launch record. -/
def State.recoveryEntry (s : State) (ctx v : Nat) : Option (Nat × Nat) :=
  let r := (s.ctx ctx).rcv.toNat
  let va := 4096 * fld r 12 38 + 512 * v
  if !(bitN r 63) then none else
  match s.readVA ctx va 384 with
  | .error _ => none
  | .ok bs => if fld (leNat bs) 68 2 = v ∧ chkOk bs then some (va, leNat bs) else none

/-- The context stops with nothing saved, until `dsc` (R428, R433). -/
def State.stopCtx (s : State) (ctx code seq : Nat) : State :=
  (s.writeFlt ctx code 0xFF seq true).updCtx ctx (fun c => { c with svd := true, svdOpen := false })

/-- After its abort a context runs its recovery launch, or stops with code 0xFD (R428). -/
def State.recover (s : State) (ctx lost before seq : Nat) : State :=
  let word := lost % 16 + 2 ^ 4 * (before % 16) + 2 ^ 32 * (seq % 2 ^ 32)
  let entry := (s.ctxLevel ctx).bind (fun v => s.recoveryEntry ctx v)
  match entry with
  | none => s.stopCtx ctx 0xFD seq
  | some (va, w) => match s.writeVA2 ctx (va + 400) (leBytes word 8) with
    | .error _ => s.stopCtx ctx 0xFD seq
    | .ok s => s.updCtx ctx (fun c => { c with
        launches := { Launch.fetched w with recovery := true } :: c.launches, stopFetch := c.stopFetch && bitN c.flt.toNat 0 })

/-- `seq` of the launch that an abort ends: the oldest resident one; with none the manual names no number (log entry 15). -/
def State.abortSeq (s : State) (ctx : Nat) : Nat :=
  match (s.ctx ctx).launches.find? (fun l => l.resident) with
  | some l => l.seq
  | none => Config.unstated s.ev 0 % 2 ^ 32

/-! ## What a change of view aborts (R426, R427) -/

/-- An operand of the context that has been sent and not yet paired. -/
def State.operandPending (s : State) (ctx : Nat) : Bool :=
  (s.ctx ctx).tags.any (fun t => t.2.q0 != [] || t.2.q1 != []) || s.meets.any (fun m => m.ctx == ctx)

/-- Whether a view that fences mask F affects the context; coord is the coordinating stack before it (R426). -/
def State.affected (s : State) (ctx F coord : Nat) : Bool :=
  let c := s.ctx ctx
  let on := fun (k : Nat) => bitN F k
  let op := s.operandPending ctx
  if F = 0 then op
  else op || c.wins.any (fun w => w.2.isOpen) || (s.heldBerths ctx).any (fun b => on (stackOf b))
    || c.launches.any (fun l => l.resident && (on (l.lead s.live) || (List.range l.nst).any (fun i => on (l.stage i).owner)))
    || (on coord && (c.gangs != [] || c.tags.any (fun t => t.2.alloc)))

/-- An affected context is aborted on every stack and recovers as R428 gives. -/
def State.abortRecover (s : State) (ctx lost before : Nat) : State :=
  let seq := s.abortSeq ctx
  (s.dropCtx ctx).recover ctx lost before seq

/-! ## The commit of a view (R320, R324, R421, R424, R430) -/

/-- Port of stack j that faces stack k (R12). -/
def portTo (j k : Nat) : Nat := (k + 3 - j) % 4

/-- The peers close their gates towards stack k and drop their traffic with it (R424). -/
def State.isolate (s : State) (k : Nat) : State :=
  ((List.range 4).filter (fun j => j != k && decide (j < s.shape.pkg))).foldl (fun s j => s.updStack j (fun t => { t with
    gates := setBitN t.gates (portTo j k) true, lrec := setBitN t.lrec k false,
    send := t.send.filter (fun e => e.1 / 8 != k), recv := t.recv.filter (fun e => e.1 / 8 != k) })) s

/-- The host-port fields (R335, R424). Until the first view `act` names stack 0 once its image has passed, the alternate once only that one's has; from
then on it moves to the other stack when its own is fenced. `altv` tells whether the other one's stack has been verified and is not fenced. DEDUCED
(unsafe; log entry 114): stack 0 that passes only after the first view is the alternate. -/
def State.ports (s : State) : State :=
  match s.shape.altPort with
  | none => { s with altv := false }
  | some a =>
    let other := if s.act = 0 then a else 0
    if s.vnum = 0 ∧ s.takesPart 0 then { s with act := 0, alt := a, altv := s.takesPart a }
    else if !(s.takesPart other) then { s with altv := false }
    else if !(s.takesPart s.act) then { s with act := other, alt := other, altv := false }
    else { s with alt := other, altv := true }

/-- Stack k is fenced with a cause code (R20, R421, R424). -/
def State.fence (s : State) (k code : Nat) : State :=
  let s := (s.updStack k (fun t => { t with fenced := true })).isolate k
  { s with svcSus := BitVec.ofNat 64 (2 ^ 24 * k + 2 ^ 16 * (code % 256)), wantFence := setBitN s.wantFence k false,
           wantShed := setBitN s.wantShed k false,
           pendShed := match s.pendShed with
             | some (r, x) => if x = k then none else some (r, x)
             | none => none }

/-- Zeroes n frames from frame f on and clears their poison (R434). -/
def State.scrubFrames (s : State) (f n : Nat) : State :=
  { s with mem := AMap.clearRange s.mem (65536 * f) (65536 * n), hist := AMap.clearRange s.hist (65536 * f) (65536 * n),
           poison := AMap.clearRange s.poison (2048 * f) (2048 * n) }
def State.scrubFrame (s : State) (f : Nat) : State := s.scrubFrames f 1

/-- The memory test of a stack that was shed because the quarantine list was full scrubs every frame of it (R434). The test of another shed stack leaves
its memory, which its base die keeps serving (R321). DEDUCED (unsafe; log entry 69). -/
def State.memTest (s : State) (k : Nat) : State := if (s.stack k).scrubs = [] then s else s.scrubFrames (2 ^ 27 * k) (2 ^ 27)

/-- A stack that returns to service: where the quarantine list was full for it, its list entries clear, with its frames scrubbed (R434). -/
def State.rejoin (s : State) (k : Nat) : State :=
  if (s.stack k).scrubs = [] then s.updStack k (fun t => { t with hostShed := false }) else
  let mine := s.qlist.filter (fun e => bitN e.2.toNat 63 && !(bitN e.2.toNat 45) && fld e.2.toNat 43 2 == k)
  let frames := mine.map (fun e => fld e.2.toNat 16 30) ++ (s.stack k).scrubs
  let s := { s with qlist := s.qlist.filter (fun e => !(mine.any (fun x => x.1 == e.1))) }
  (frames.foldl (fun s f => s.scrubFrame f) s).updStack k (fun t => { t with scrubs := [], hostShed := false })

/-- Whether every healthy stack would rise to 1.8 GHz at a quiescent point (R324). -/
def State.clocksRise (s : State) (live : Nat) : Bool :=
  (List.range 4).all (fun k => !(s.unfenced k && (s.stack k).tst)) && (maskList live).any (fun k => (s.stack k).clk == 900)

/-- The planned change that waits: the new healthy and shed masks, when it differs from the view in force (R322–R324). -/
def State.plan (s : State) : Option (Nat × Nat) :=
  let joins := (List.range 4).filter (fun k => s.up k && (s.stack k).tested && !(bitN s.live k)
    && (!(s.stack k).hostShed || s.pendShed == some (true, k)))
  let sheds := match s.pendShed with
    | some (false, k) => if bitN s.live k then [k] else []
    | _ => []
  let live := joins.foldl (fun m k => setBitN m k true) (sheds.foldl (fun m k => setBitN m k false) s.live)
  let shed := joins.foldl (fun m k => setBitN m k false) (sheds.foldl (fun m k => setBitN m k true) s.shed)
  if live ≠ s.live ∨ shed ≠ s.shed ∨ s.clocksRise live then some (live, shed) else none

/-- A planned change sets `drn` until it has taken effect (R322). -/
def State.drain (s : State) : State := { s with drn := s.vnum != 0 && s.plan.isSome }

/-- Whether a view carries out the host's request (R323). -/
def State.carriedOut (s : State) (p : Proposal) : Bool :=
  match s.pendShed with
  | some (false, k) => !p.forced && bitN p.shed k
  | some (true, k) => !p.forced && bitN p.live k
  | none => false

/-- The view takes effect in every instance in one step, `gen` counts it once (R320), then the contexts it affects are aborted and recover. -/
def State.commit (s : State) (p : Proposal) : State :=
  let before := s.live
  let first := s.vnum == 0
  let coord := s.coord
  let hit := (List.range 16).filter (fun n => p.forced && s.affected n p.fence coord)
  let newShed := (maskList p.shed).filter (fun k => !(bitN s.shed k))
  let back := (maskList p.live).filter (fun k => bitN s.shed k)
  let host := match s.pendShed with
    | some (false, k) => some k
    | _ => none
  let s := { s with live := p.live, shed := p.shed, vnum := s.vnum + 1, gen := (s.gen + 1) % 256, props := [],
                    svcTim := s.svcTimNew.getD s.svcTim, svcTimNew := none,
                    wantShed := newShed.foldl (fun m k => setBitN m k false) s.wantShed }
  let s := newShed.foldl (fun s k => s.updStack k (fun t => { t with tested := false, hostShed := !p.forced && host == some k })) s
  let s := back.foldl (fun s k => s.rejoin k) s
  let s := (maskList p.fence).foldl (fun s k => s.fence k p.code) s
  let s := s.ports
  let s := if s.carriedOut p then { s with pendShed := none } else s
  let s := if !p.forced && !first && s.clocksRise p.live then (maskList p.live).foldl (fun s k => s.updStack k (fun t => { t with clk := 1800 })) s else s
  let s := if p.forced then (List.range 16).foldl (fun s n => s.updCtx n (fun c => { c with skipLvl := true })) s else s
  (hit.foldl (fun s n => s.abortRecover n p.fence before) s.showTopo).drain

/-! ## Proposals (R320, R327, R423–R425) -/

/-- Whether the instance of stack k works. -/
def State.works (s : State) (k : Nat) : Bool := s.takesPart k && s.up k && !(s.stack k).halted

/-- The stacks that the reports held by one instance fence (R423). -/
def fencedBy (held : List (Nat × Nat × Nat)) (ok : Nat → Bool) : List Nat :=
  let hs := ((held.filter (fun h => ok h.2.1)).map (fun h => (h.1, h.2.1))).eraseDups
  let two := (List.range 4).filter (fun a => decide (2 ≤ (hs.filter (fun h => h.2 == a)).length))
  match hs with
  | [(a, b), (c, d)] => if a = d ∧ b = c ∧ a ≠ b then [max a b] else two
  | _ => two

/-- When the last live stack would be fenced, it stays: every context running on it takes a context fault with code 0xFD that cannot be resumed, and it
runs self-test (R424, R372, log entry 28). -/
def State.lastLive (s : State) : State :=
  let s := (List.range 16).foldl (fun s n =>
    if (s.heldBerths n).any (fun b => bitN s.live (stackOf b)) then s.ctxFault n 0xFD 0xFF (s.abortSeq n) true else s) s
  (maskList s.live).foldl (fun s k => s.updStack k (fun t => { t with tested := false, sus := [] })) s

/-- Whether instance k speaks for the device's own wishes: the lowest working instance in `live`, or the lowest of all, that is not to be fenced
itself (R423, R425). -/
def State.speaker (s : State) (k : Nat) : Bool :=
  let ok := fun (j : Nat) => s.works j && !(bitN s.wantFence j)
  match (maskList s.live).find? ok with
  | some j => j == k
  | none => (List.range 4).find? ok == some k

/-- Instance k proposes view number + 1 when what it holds asks for a forced change, or when no stack is live and a shed one has passed its
test, and it has no proposal out (R320, R327, R423). A proposal of its own that awaits a stack to be fenced too starts again, with that stack fenced
(R423). A stack that is to be fenced takes no part (R423). With one stack live no second reporter exists: one report against it is enough (log entry 28). -/
def State.consider (s : State) (k : Nat) : State :=
  if !(s.works k) || s.vnum == 0 || (AMap.find s.behind k).isSome then s else
  let held := (s.stack k).sus
  let accused := fencedBy held s.unfenced
  let accused := if popN s.live 4 = 1 ∧ held.any (fun h => bitN s.live h.2.1) then (accused ++ maskList s.live).eraseDups else accused
  let own := (AMap.find s.props k).map (·.fence)
  if own.any (fun f => accused.all (bitN f)) then s else
  let F := (accused ++ maskList (own.getD 0) ++ (if s.speaker k then maskList s.wantFence else [])).foldl (fun m k => setBitN m k true) 0
  let S := if s.speaker k then (maskList (s.wantShed &&& s.live)).filter (fun j => !(bitN F j)) else []
  let alone := s.live == 0 && s.speaker k && (maskList s.shed).any (fun j => (s.stack j).tested)
  if F = 0 ∧ S = [] ∧ !alone then s else
  let last := s.live != 0 && (maskList s.live).all (bitN F)
  if bitN F k && !last then s else
  let live := S.foldl (fun m j => setBitN m j false) ((maskList F).foldl (fun m j => setBitN m j false) s.live)
  let shed := S.foldl (fun m j => setBitN m j true) ((maskList F).foldl (fun m j => setBitN m j false) s.shed)
  if live = 0 ∧ S = [] ∧ s.live ≠ 0 ∧ (F &&& s.live) ≠ 0 then s.lastLive else
  let code := match (held.reverse.find? (fun h => accused.contains h.2.1)) with
    | some h => h.2.2
    | none => Config.unstated s.ev 1 % 256
  let back := if live = 0 then (maskList shed).find? (fun j => (s.stack j).tested && !(S.contains j)) else none
  let live := back.elim live (fun j => setBitN live j true)
  let shed := back.elim shed (fun j => setBitN shed j false)
  { s with props := AMap.put s.props k ⟨s.vnum + 1, live, shed, F, code, 0, 0, true⟩ }

/-- Every instance looks again at what it wants. -/
def State.reconsider (s : State) : State := (List.range 4).foldl (fun s k => s.consider k) s

/-- A suspect report: the reporter holds it and sends it to every other live instance (R422). -/
def State.suspect (s : State) (reporter accused code : Nat) : State :=
  let s := s.updStack reporter (fun t => { t with sus := t.sus.filter (fun h => !(h.1 == reporter && h.2.1 == accused)) ++ [(reporter, accused, code)] })
  let s := { s with reports := s.reports ++ ((maskList s.live).filter (· != reporter)).map (fun k => (k, reporter, accused, code)) }
  s.consider reporter

/-- SUSPECT_REPORT_RECEIVE (R422, R423): the report of stack `arg.rep` against `arg.acc` reaches the instance of stack `arg.stk`, after that reporter's
earlier ones (R29). -/
def execSuspectReportReceive (s : State) : Out :=
  let x := s.arg
  let r := (x.stk, x.rep, x.acc, x.code)
  .next (if !(s.reports.contains r) || (s.reports.takeWhile (· != r)).any (fun q => q.1 == x.stk && q.2.1 == x.rep) then s
  else
    let s := { s with reports := s.reports.erase r }
    if !(s.works x.stk) || !(s.unfenced x.rep) then s
    else (s.updStack x.stk (fun t => { t with
      sus := t.sus.filter (fun h => !(h.1 == x.rep && h.2.1 == x.acc)) ++ [(x.rep, x.acc, x.code)] })).consider x.stk)

/-- SUSPECT_REPORT_EXPIRY (R422): `twin` has passed since the instance of stack `arg.stk` took the report of `arg.rep` against `arg.acc`. -/
def execSuspectReportExpiry (s : State) : Out :=
  let x := s.arg
  .next (s.updStack x.stk (fun t => { t with sus := t.sus.filter (fun h => !(h.1 == x.rep && h.2.1 == x.acc)) }))

/-- VIEW_PROPOSAL_RECEIVE (R320): the proposal of stack `arg.src` reaches the instance of stack `arg.stk`, which acknowledges it
unless its own proposal of the same number wins; a losing proposal of its own is discarded. -/
def execViewProposalReceive (s : State) : Out :=
  let p := s.arg.src
  let j := s.arg.stk
  .next (match AMap.find s.props p with
  | none => s
  | some P =>
    let mine := (AMap.find s.props j).isSome
    if j = p ∨ !(s.works j) ∨ (AMap.find s.behind j).isSome ∨ bitN P.fence j ∨ bitN P.heard j ∨ (mine ∧ j < p) then s
    else { s with props := AMap.put (AMap.erase s.props j) p { P with heard := setBitN P.heard j true } })

/-- VIEW_ACK_RECEIVE (R320): the acknowledgement of stack `arg.src` reaches the proposer, stack `arg.dst`. -/
def execViewAckReceive (s : State) : Out :=
  .next (match AMap.find s.props s.arg.dst with
  | none => s
  | some P => if bitN P.heard s.arg.src then { s with props := AMap.put s.props s.arg.dst { P with acks := setBitN P.acks s.arg.src true } } else s)

/-- Whether no strand is resident, no window open and no operand pending in any context (R322). A berth that is reserved for a resume holds none (R280). -/
def State.quiescent (s : State) : Bool :=
  s.berths.all (fun b => b.2.st == .free || b.2.st == .restore) && s.ctxs.all (fun c => c.2.wins.all (fun w => !w.2.isOpen) && !(s.operandPending c.1))

/-- VIEW_COMMIT (R320, R322, R424): every participant has acknowledged the proposal of stack `arg.stk`: the view takes effect, and
the instances look again at what they still want. The commit message travels: until VIEW_COMMIT with `arg.flag` brings it to stack `arg.dst`, that
stack's instance shows the view before, and takes part in no further agreement (log entry 60). -/
def execViewCommit (s : State) : Out :=
  let p := s.arg.stk
  if s.arg.flag then
    .next (if (AMap.find s.behind s.arg.dst).isNone || !(s.up s.arg.dst) then s
    else ({ s with behind := AMap.erase s.behind s.arg.dst } : State).consider s.arg.dst)
  else .next (match AMap.find s.props p with
  | none => s
  | some P =>
    let all := (List.range 4).all (fun j => j == p || !(s.takesPart j) || bitN P.fence j || bitN P.acks j)
    if !(s.works p) || bitN P.fence p || P.num != s.vnum + 1 || !all || (!P.forced && !s.quiescent) then s
    else
      let js := (List.range 4).filter (fun j => j != p && s.takesPart j && !(bitN P.fence j))
      ({ s.commit P with behind := js.foldl (fun m j => AMap.put m j (s.shownAll j)) [] } : State).reconsider)

/-- QUIESCENT_POINT (R322–R324): a drain has reached a quiescent point, and the lowest live instance proposes the planned view. -/
def execQuiescentPoint (s : State) : Out :=
  .next (if !s.drn || !s.quiescent || s.props != [] then s
  else match s.plan, (List.range 4).find? s.speaker with
    | some (live, shed), some k => { s with props := AMap.put s.props k ⟨s.vnum + 1, live, shed, 0, 0, 0, 0, false⟩ }
    | _, _ => s)

/-! ## Requests of the host (R323, R421) -/

/-- SVC_CTL_SHED (R323). -/
def execSvcCtlShed (s : State) : Out :=
  let k := s.arg.stk
  .next (if !s.windows || s.shed != 0 || !(bitN s.live k) || s.nlive == 1 || s.pendShed.isSome then s
  else { s with pendShed := some (false, k), drn := true })

/-- SVC_CTL_RETURN (R323). -/
def execSvcCtlReturn (s : State) : Out :=
  let k := s.arg.stk
  .next (if !s.windows || !(bitN s.shed k) || !(s.stack k).hostShed || s.pendShed.isSome then s
  else { s with pendShed := some (true, k) }.drain)

/-- SVC_TIM_WRITE (R378, R421): `svc_tim` takes effect at the next commit. -/
def execSvcTimWrite (s : State) : Out :=
  .next (if !s.windows then s else { s with svcTimNew := some (BitVec.ofNat 64 (fld s.arg.v.toNat 0 48)) })

/-! ## Teardown and the quarantine list (R432–R434) -/

/-- Lists frame f for context ctx; when the list is full, its home stack is to be shed and scrub it. -/
def State.quarantine (s : State) (ctx f : Nat) : State :=
  if s.qlist.any (fun e => bitN e.2.toNat 63 && fld e.2.toNat 16 30 == f) then s else
  match (List.range 512).find? (fun k => !(bitN (AMap.get 0 s.qlist k).toNat 63)) with
  | some k => { s with qlist := AMap.set 0 s.qlist k (BitVec.ofNat 64 (2 ^ 63 + 2 ^ 16 * f + 2 ^ 12 * ctx)) }
  | none =>
    let h := s.home (65536 * f)
    { s with wantShed := setBitN s.wantShed h true }.updStack h (fun t => { t with scrubs := t.scrubs ++ [f] })

/-- TEARDOWN (R433): the context is aborted, the frames named are quarantined, `ctx_flt` takes the code and `svd` is set with nothing
saved; no recovery launch runs. -/
def State.teardown (s : State) (ctx code : Nat) (frames : List Nat) : State :=
  let seq := s.abortSeq ctx
  let fs := (frames ++ s.discardedFrames ctx).eraseDups
  let s := s.dropCtx ctx
  ((fs.foldl (fun s f => s.quarantine ctx f) s).stopCtx ctx code seq).reconsider

end Sys2Proof.Machine
end

