-- ==== Sys2Proof/Machine/Park.lean ====
section
/-! DEFINITION. The save area's place, registers parked on a core, and the placing of strands, which ends their parking (R69, R283, R284, R288, R294,
R384, R432, R433). -/

namespace Sys2Proof.Machine

/-- Base of the save area (R288). -/
def Ctx.saveBase (c : Ctx) : Nat := 2 ^ 21 * fld c.save.toNat 21 29

/-- Frames of the save area (R296, R433). -/
def State.saveFrames (s : State) (ctx : Nat) : List Nat :=
  let size := match s.shape with
    | .sx4 => 0x42000000
    | .sx2 => 0x22000000
    | .sx1 => 0x12000000
  (List.range (size / 65536)).filterMap (fun i => match s.walk ctx ((s.ctx ctx).saveBase + 65536 * i) 0 with
    | .ok l => some (l.pa / 65536)
    | .error _ => none)

/-- A double fault (R384, R432): the context is torn down with its save area. DEDUCED (unsafe; log entry 63): `svd` stays clear, as R384 has it for
this fault, where R433 sets it at a teardown. -/
def State.doubleFault (s : State) (ctx : Nat) : State := (s.teardown ctx 0xF8 (s.saveFrames ctx)).updCtx ctx (fun c => { c with svd := false })

/-! ## Parked registers (R294) -/

/-- Kind of a spill-map entry: 0 in memory, 1 parked in an accumulator, 2 in a register bank. -/
def spillKind (e : Word) : Nat := fld e.toNat 61 2
/-- Whether an entry shows a register that is parked. -/
def isParked (e : Word) : Bool := bitN e.toNat 63 && (spillKind e == 1 || spillKind e == 2)
/-- The berth whose bank holds the register. -/
def bankOf (e : Word) : Option Nat := if spillKind e = 2 then some (fld e.toNat 0 8) else none
/-- The entry of a register in memory. -/
def inMemory : Word := BitVec.ofNat 64 (2 ^ 63)
/-- The entry of register n parked in the bank of berth b. -/
def inBank (b n : Nat) : Word := BitVec.ofNat 64 (2 ^ 63 + 2 ^ 62 + 2 ^ 23 * n + b)
/-- The entry of a register parked at an accumulator byte address. -/
def inAcc (a : Nat) : Word := BitVec.ofNat 64 (2 ^ 63 + 2 ^ 61 + a)

/-- Virtual address of the strand record of berth b. -/
def Ctx.strandVa (c : Ctx) (b : Nat) : Nat := 0xC00000 + c.saveBase + 0x10000 * b

/-- The value of a register of berth b's saved strand that is parked. -/
def State.parkedValue (s : State) (b : Nat) (e : Word) : Word :=
  if spillKind e = 1 then BitVec.ofNat 64 (memNat (s.core (coreOf b)).acc (fld e.toNat 0 23) 8)
  else (AMap.get (0, 0, 0) (s.berth (fld e.toNat 0 8)).bank (fld e.toNat 23 6)).2.2

/-- Writes register n of berth b's saved strand, parked as e tells, into the save area and marks its entry as in memory; a write that fails is a
double fault (R294, R384). -/
def State.unparkReg (s : State) (ctx b n : Nat) (e : Word) : State :=
  let va := (s.ctx ctx).strandVa b
  let wr := match s.writeVA2 ctx (va + 0x100 + 8 * n) (leBytes (s.parkedValue b e).toNat 8) with
    | .error f => Except.error f
    | .ok s => s.writeVA2 ctx (va + 0x580 + 8 * n) (leBytes inMemory.toNat 8)
  match wr with
  | .error _ => s.doubleFault ctx
  | .ok s =>
    let s := match bankOf e with
      | some x => s.updBerth x (fun B => { B with bank := AMap.erase B.bank (fld e.toNat 23 6) })
      | none => s
    s.updCtx ctx (fun c => { c with savedState := c.savedState.map (fun x =>
      if x.1 = b then (x.1, { x.2 with spill := AMap.set 0 x.2.spill n inMemory }) else x) })

/-- The parked registers: context, berth of the saved strand, register, entry. -/
def State.parked (s : State) : List (Nat × Nat × Nat × Word) :=
  s.ctxs.flatMap (fun c => c.2.savedState.flatMap (fun x => (x.2.spill.filter (fun e => isParked e.2)).map (fun e => (c.1, x.1, e.1, e.2))))

/-- Writes out every parked register of which p holds, by the berth of its strand and its entry. -/
def State.unpark (s : State) (p : Nat → Word → Bool) : State :=
  (s.parked.filter (fun x => p x.2.1 x.2.2.2)).foldl (fun s x => if (s.ctx x.1).savedState = [] then s else s.unparkReg x.1 x.2.1 x.2.2.1 x.2.2.2) s

/-- PREEMPT_FLS (R288, R294): the host writes `fls`: every parked register of the context is written to the save area. -/
def execPreemptFls (s : State) : Out :=
  .next (if !s.windows then s else
    (s.parked.filter (fun x => x.1 == s.arg.ctx)).foldl (fun t x => if (t.ctx x.1).savedState = [] then t else t.unparkReg x.1 x.2.1 x.2.2.1 x.2.2.2) s)

/-! ## Placing strands (R69, R280, R283, R284) -/

/-- STRAND_PLACEMENT (R283, R284): a strand of stage `arg.stg` is placed, on stack `arg.stk`, in the berth that R283 chooses, unless a
stage that comes before it wants that berth; with no berth FREE, an idle surplus strand of a lesser stage is retired first. -/
def execStrandPlacement (s : State) : Out :=
  let ctx := s.arg.ctx
  let lsl := s.arg.lsl
  let stg := s.arg.stg
  if !(s.wants ctx lsl stg) || !(s.serves ctx s.arg.stk) then .next s else
  .next (match s.bestBerth ctx lsl stg with
  | some b => if stackOf b ≠ s.arg.stk ∨ s.rivalFor (ctx, lsl, stg) b then s else (s.unpark (fun _ e => bankOf e = some b)).placeStrand b ctx lsl stg
  | none => match s.retiree ctx lsl stg with
    | none => s
    | some v => if stackOf v ≠ s.arg.stk ∨ (s.retire v).rivalFor (ctx, lsl, stg) v then s else (s.retire v).placeStrand v ctx lsl stg)

/-- PLACE_ZEROING_DONE (R69, R280): the core of berth `arg.b` is zeroed for its new context, once what is parked there has been written
out (R294), and the strand is IDLE. -/
def execPlaceZeroingDone (s : State) : Out :=
  let b := s.arg.b
  let B := s.berth b
  .next (if B.st ≠ .place then s
  else
    let s := if (s.core (coreOf b)).held = some B.ctx then s
      else (s.unpark (fun x _ => coreOf x = coreOf b)).updCore (coreOf b) (fun c => c.zeroFor B.ctx)
    s.updBerth b (fun B => { B with st := .idle }))

end Sys2Proof.Machine
end

