-- ==== Sys2Proof/Machine/Engine.lean ====
section
/-! DEFINITION. What one issue of a record reads, checks and writes: copies and conversions, the matrix unit, vector operations and
reductions, transposition and gathers, the sampler, quantisation (R113–R117, R241–R258, R274–R278, R412). Every source element is read
before a destination is written (R227). -/

namespace Sys2Proof.Machine

/-! ## Indices and draws -/

/-- Index of slot k at issue point n. -/
def QRec.ix (r : QRec) (k n : Nat) : Int := slotIx r.r (recSlot r.r k) n
/-- Index of slot k at the first issue of n's reduction group (R252). -/
def QRec.ixG (r : QRec) (k n : Nat) : Int := slotIx r.r (recSlot r.r k) (n - n % recT0 r.r)
/-- Reserved draw i of a record, 0 when it does not round under SR (R106, R180, R238). -/
def QRec.draw (r : QRec) (i : Nat) : Nat := if r.r.round = 5 then draw16 r.key (BitVec.ofNat 64 (r.draw0 + i)) else 0
/-- Stream register of a slot, as C fixed it. -/
def QRec.stream (r : QRec) (k : Nat) : BitVec 256 := (r.slots.getD k ⟨0, 0, false, none⟩).stream
def QRec.uses (r : QRec) : List Use := Sys2Proof.Machine.uses r.q r.opn r.r r.stream

/-- A stream without its scales. -/
def Str.plain (t : Str) : Str := { t with v := BitVec.ofNat 256 (t.v.toNat - stSb t.v * 4) }
/-- A stream seen byte by byte from its base, without scales. -/
def Str.raw (t : Str) : Str := { t.plain with fmt := .int 8 false }
/-- Byte at which element e starts. -/
def Str.byteOf (t : Str) (e : Int) : Int := e * t.c / 8

/-! ## Sparsity groups (R112, R247, R412) -/

/-- The kept positions of group G, none when its metadata is malformed. -/
def State.spGroup (s : State) (b : Nat) (r : QRec) (G : Nat) : Option (List Nat) :=
  let t := s.str b r 3
  let off := sgnN r.r.sC.off.toNat 12
  let N := spN t.v
  match t.fmt with
  | .sparse _ false =>
    let m := s.code b r t (off + G)
    let ps := (List.range 24).filter (bitN m ·)
    if ps.length = N then some ps else none
  | _ =>
    let ps := (List.range N).map (fun (k : Nat) => s.code b r t (off + G * N + k))
    if ps.all (· ≤ 23) && (List.range (N - 1)).all (fun k => decide (ps.getD k 0 < ps.getD (k + 1) 0)) then some ps else none

/-- First groups of the rows of one `mma.sp` issue: row and group. -/
def spGroups (r : QRec) (n : Nat) : List (Nat × Nat) :=
  (List.range 32).flatMap (fun i =>
    let e := (r.ix 1 n).toNat + i * stCols (r.stream 1)
    (List.range 4).map (fun g => (i, e / 24 + g)))

/-! ## The sampler (R274, R275) -/

/-- Floor of a finite non-negative value. -/
def floorX (x : XVal) : Nat :=
  match x with
  | .fin _ n e d => let (a, b) := quotBy n e d 0; a / b
  | _ => 0

/-- One axis: the lower sample and the fraction; none outside the grid with `oob` 1. -/
def axisAt (t : XVal) (n : Nat) (oob : Bool) : Option (Nat × XVal) :=
  let low := xlt t xzero
  let high := xlt (xint (n - 1)) t
  if (low || high) && oob then none
  else
    let t := if low then xzero else if high then xint (n - 1) else t
    if n = 1 then some (0, xzero)
    else
      let k := min (floorX t) (n - 2)
      some (k, xadd false t (xint (-(k : Int))))

/-- The corners read and their weights: sample coordinates with a weight that is not zero; none for −infinity. -/
def corners (u v w : XVal) (dim : Nat × Nat × Nat) (oob : Bool) : Option (List (Nat × Nat × Nat × XVal)) :=
  match axisAt u dim.1 oob, axisAt v dim.2.1 oob, axisAt w dim.2.2 oob with
  | some (kx, fx), some (ky, fy), some (kz, fz) =>
    let wt := fun (f : XVal) (a : Nat) => if a = 1 then f else xadd false (xint 1) f.neg
    some (((List.range 8).map (fun i =>
      let a := i % 2
      let c := i / 2 % 2
      let d := i / 4
      (kx + a, ky + c, kz + d, xmul (xmul (wt fx a) (wt fy c)) (wt fz d)))).filter (fun x => !x.2.2.2.isZero))
  | _, _, _ => none

/-- Element of B that holds sample (x, y, z) (R274). -/
def gridElem (r : QRec) (x y z : Nat) : Int :=
  let d := gridN r.r.imm
  sgnN r.r.sB.off.toNat 12 + x + d.1 * (y + d.2.1 * z)

/-- `Sample(u, v, w)` (R275). -/
def State.sample (s : State) (b : Nat) (r : QRec) (u v w : XVal) : XVal :=
  if u.isNan || v.isNan || w.isNan then .nan
  else match corners u v w (gridN r.r.imm) (bitN r.r.imm.toNat 48) with
    | none => .inf true
    | some cs =>
      let t := s.str b r 2
      let vs := cs.map (fun c => (s.uval b r t (gridElem r c.1 c.2.1 c.2.2.1), c.2.2.2))
      let inf := fun (neg : Bool) => vs.any (fun x => x.1 == .inf neg)
      if vs.any (fun x => x.1.isNan) || (inf true && inf false) then .nan
      else if inf true then .inf true
      else if inf false then .inf false
      else vs.foldl (fun a x => xadd false a (xmul x.2 x.1)) (.fin true 0 0 1)

/-- Elements of B that a sample reads. -/
def sampleReads (r : QRec) (u v w : XVal) : List Int :=
  if u.isNan || v.isNan || w.isNan then []
  else match corners u v w (gridN r.r.imm) (bitN r.r.imm.toNat 48) with
    | none => []
    | some cs => cs.map (fun c => gridElem r c.1 c.2.1 c.2.2.1)

/-- The point at which disc m of pose j is sampled, and its radius (R278). -/
def State.discAt (s : State) (b : Nat) (r : QRec) (n j m : Nat) : XVal × XVal × XVal × XVal :=
  let A := s.str b r 1
  let C := s.str b r 3
  let p := fun (k : Nat) => s.uval b r A (r.ix 1 n + 4 * j + k)
  let d := fun (k : Nat) => s.uval b r C (r.ix 3 n + 4 * m + k)
  (xadd false (xadd false (p 0) (xmul (p 2) (d 0))) (xmul (p 3) (d 1)).neg,
   xadd false (xadd false (p 1) (xmul (p 3) (d 0))) (xmul (p 2) (d 1)), d 2, d 3)

/-- `hit(j)` (R278). DESIGN CHOICE (unsafe; log entry 133): a sample and a radius that are both −infinity are compared as s < r, which is false, although
the rule's comment lets −infinity always hit. -/
def State.poseHit (s : State) (b : Nat) (r : QRec) (n j : Nat) : Bool :=
  (List.range (fld r.r.ctl.toNat 12 4 + 1)).any (fun m =>
    let (x, y, z, rad) := s.discAt b r n j m
    let v := s.sample b r x y z
    v.isNan || rad.isNan || xlt v rad)

/-! ## The elements that an issue touches -/

/-- Lanes and elements of a used slot at issue point n. DESIGN CHOICE (unsafe; log entry 132): of a sweep, the samples of the poses up to the result count
as read; R278 lets the sampler test poses above it or skip them. -/
def State.slotElements (s : State) (b : Nat) (r : QRec) (n : Nat) (u : Use) : List (Nat × Int) :=
  let ix := useIx r.r u n
  let t := s.str b r u.slot
  let cols := stCols t.v
  let lanes := fun (k : Nat) => (List.range k).map (fun (v : Nat) => (v, ix + (v : Int)))
  let block := fun (w h : Nat) => (List.range h).flatMap (fun (i : Nat) => (List.range w).map (fun (j : Nat) => (i * w + j, ix + ((i * cols + j : Nat) : Int))))
  let off := s.uval b r (s.str b r 2)
  let shift := fun (x : XVal) => match x with
    | .fin neg m e _ => if neg then -((2 ^ e.toNat * m : Nat) : Int) else ((2 ^ e.toNat * m : Nat) : Int)
    | _ => 0
  match r.q, r.opn, u.slot with
  | 0, 1, 1 => (List.range u.span).map (fun (v : Nat) => (v, ix + shift (off (r.ix 2 n)) + v))
  | 1, 0, 1 => block 96 32
  | 1, 0, 2 => block 32 96
  | 1, 1, 1 => (spGroups r n).flatMap (fun g => (List.range (spN (r.stream 3))).map (fun k => (g.1 * 96, ((g.2 * spN (r.stream 3) + k : Nat) : Int))))
  | 1, 1, 2 => block 32 96
  | 1, 1, 3 => (spGroups r n).flatMap (fun g => (List.range (spPer t.v)).map (fun k =>
      (0, sgnN r.r.sC.off.toNat 12 + ((g.2 * spPer t.v + k : Nat) : Int))))
  | 1, 64, _ => block (trBlock r.r) (trBlock r.r)
  | 1, 65, 1 => (List.range u.span).map (fun (v : Nat) => (v, ix + shift (off (r.ix 2 n + v)) + v))
  | 1, 80, 1 => (List.range u.span).map (fun (v : Nat) => (v / 3, ix + v))
  | 1, 80, 2 => (List.range (recV r.r)).flatMap (fun (v : Nat) =>
      let A := s.str b r 1
      let p := fun (k : Nat) => s.uval b r A (r.ix 1 n + 3 * v + k)
      (sampleReads r (p 0) (p 1) (p 2)).map (fun e => (v, e)))
  | 1, 81, 1 => (List.range u.span).map (fun (v : Nat) => (v / 4, ix + v))
  | 1, 81, 3 => (List.range u.span).map (fun (v : Nat) => (v / 4, ix + v))
  | 1, 81, 2 =>
    let last := ((List.range (recNe r.r)).find? (s.poseHit b r n)).getD (recNe r.r - 1)
    (List.range (last + 1)).flatMap (fun j => (List.range (fld r.r.ctl.toNat 12 4 + 1)).flatMap (fun m =>
      let (x, y, z, _) := s.discAt b r n j m
      (sampleReads r x y z).map (fun e => (0, e))))
  | 2, 1, _ => if stBlock (r.stream 0) = 0 then lanes u.span else block (stBlock (r.stream 0)) (stBlock (r.stream 0))
  | 2, 2, 0 => (List.range u.span).map (fun (v : Nat) => (v, ix + shift (off (r.ix 2 n)) + v))
  | _, _, _ => lanes u.span

/-- `x.gth` reads element Ix(A, i) + U(B, Ix(B, i) + v) for lane v, without the lane itself (R255). -/
def gthLane (r : QRec) (u : Use) (x : Nat × Int) : Nat × Int :=
  if r.q = 1 ∧ r.opn = 65 ∧ u.slot = 1 then (x.1, x.2 - x.1) else x

/-- The mirror of a checkpoint stream in the region of stack p (R262). -/
def Str.mirror (t : Str) (w : Word) (own p : Nat) : Str :=
  let a : Int := (stAddr t.v : Int) + ((p : Int) - own) * 2 ^ ckLog w
  { t with v := BitVec.ofNat 256 (2 ^ 192 * (a.toNat % 2 ^ 64) + t.v.toNat % 2 ^ 192) }

/-- The partner of stack k: the first healthy stack after it (R262). -/
def State.partner (s : State) (k : Nat) : Option Nat := ([1, 2, 3].map (fun i => (k + i) % 4)).find? (bitN s.live ·)

/-- Bytes that an issue of `s.meet` or `s.ring` sends: byte of the stream and count. -/
def State.sendSpan (s : State) (b : Nat) (r : QRec) (n : Nat) : Int × Nat :=
  let t := s.str b r 1
  (t.byteOf (r.ix 1 n), if r.opn = 4 then (s.tag (s.berth b).ctx (r.r.imm.toNat % 4096)).bytes else cdiv (recNe r.r * t.c) 8)

/-- Everything issue n touches, slots in the order D, A, B, C and lanes ascending (R387). The lines of `l.pf` are not checked (R242). -/
def State.touches (s : State) (b : Nat) (r : QRec) (n : Nat) : List Touch :=
  if r.q = 0 ∧ r.opn = 6 then []
  else if r.q = 2 ∧ (r.opn = 4 ∨ r.opn = 6) then
    let (i, k) := s.sendSpan b r n
    (List.range k).map (fun (j : Nat) => ⟨(s.str b r 1).raw, 0, i + j, .rd, false⟩)
  else r.uses.flatMap (fun u =>
    if r.q = 0 ∧ r.opn = 2 ∧ u.slot = 0 then [] else
    let t := s.str b r u.slot
    let k : AKind := if r.q = 2 ∧ r.opn = 3 ∧ u.slot = 0 then .at else if u.wr then .wr else .rd
    let written := !u.ign0 || n % recT0 r.r + 1 == recT0 r.r
    let es := if written then (s.slotElements b r n u).map (gthLane r u) else []
    let own := es.map (fun x => (⟨t, x.1, x.2, k, u.whole⟩ : Touch))
    if r.q = 2 ∧ r.opn = 5 ∧ u.slot = 0 then
      match s.partner (stackOf b) with
      | some p =>
        let m := t.mirror (s.ctx (s.berth b).ctx).ckpt (stackOf b) p
        own ++ es.map (fun x => (⟨m, x.1, x.2, k, false⟩ : Touch))
      | none => own
    else own)

/-- Whether the touched element's scale word is read or written (R111, R254, R258). -/
def QRec.usesScale (r : QRec) (x : Touch) : Bool :=
  r.uses.any (fun u => u.slot == x.t.slot && u.num) || (r.q == 1 && r.opn == 64 && stSb (r.stream 1) != 0)

/-! ## What an issue writes -/

/-- The writes of an issue: elements with their codes, in lane order, and scale words. -/
structure Writes where
  els : List (Str × Int × Nat)
  words : List (Nat × Nat)
  gval : List XVal

/-- Whether a vector or reduction record works in integer form (R249). -/
def State.intForm (s : State) (b : Nat) (r : QRec) : Bool :=
  !(34 ≤ r.opn && r.opn ≤ 38) && r.uses.all (fun u => (s.str b r u.slot).fmt.cls == 1 && stSb (r.stream u.slot) == 0)

/-- The integer that an exact integer value is. -/
def XVal.toInt (x : XVal) : Int :=
  match x with
  | .fin s n e _ => if s then -((2 ^ e.toNat * n : Nat) : Int) else ((2 ^ e.toNat * n : Nat) : Int)
  | _ => 0

/-- An exact integer result in w bits: wrapped, or clamped under `sat` (R107, R249). -/
def intEnc (f : NFmt) (x : XVal) (sat : Bool) : Nat :=
  match f with
  | .int w sgn =>
    let i := x.toInt
    let lo : Int := if sgn then -(2 ^ (w - 1)) else 0
    let hi : Int := if sgn then 2 ^ (w - 1) - 1 else 2 ^ w - 1
    lowI (if sat then clampI i lo hi else i) w
  | _ => 0

/-- The result of a lane in either form (R250, R251). -/
def vLane (o : Nat) (rdn : Bool) (a b c : XVal) : XVal :=
  match o with
  | 16 => xadd rdn a b
  | 17 => xadd rdn a b.neg
  | 18 => xmul a b
  | 19 => xadd rdn (xmul a b) c
  | 20 => xmin a b
  | 21 => xmax a b
  | 22 => a.abs
  | 23 => a.neg
  | 34 => xexp2 a
  | 35 => xlog2 a
  | 36 => xrcp a
  | 37 => xrsqrt a
  | 38 => xtanh a
  | 39 => xmin (xmax a b) c
  | _ => a

/-- `a cc b` of `v.cmp` (R250). -/
def vCmpHolds (cc : Nat) (a b : XVal) : Bool :=
  match cc with
  | 0 => xeq a b
  | 1 => !(xeq a b)
  | 2 => xlt a b
  | 3 => xle a b
  | _ => a.isNan || b.isNan

/-- The code operations on containers (R250). -/
def vCode (o a b : Nat) : Nat :=
  match o with
  | 29 => a &&& b
  | 30 => a ||| b
  | _ => a ^^^ b

/-- One lane of a vector record: its code for D (R249–R251). DESIGN CHOICE (unsafe; log entry 129): `v.cvt` between class 1 streams is in integer form and
wraps without `sat`, as R249 says, where a conversion of R107 and R108 gives the minimum of the type or all ones. -/
def State.vecLane (s : State) (b : Nat) (r : QRec) (n v : Nat) (int : Bool) : Nat :=
  let D := s.str b r 0
  let A := s.str b r 1
  let B := s.str b r 2
  let C := s.str b r 3
  let o := r.opn
  let bi := recBi r.r
  let val := fun (t : Str) (e : Int) => if int then s.uval b r t e else s.val b r t e
  let imm : XVal := if int then xint r.r.imm.toInt else fp64.dec r.r.imm.toNat
  let eA := r.ix 1 n + v
  let eB := r.ix 2 n + v
  let eC := r.ix 3 n + v
  let codeB := if bi then r.r.imm.toNat % 2 ^ D.c else s.code b r B eB
  match o with
  | 24 => if (s.uval b r C eC).isZero then codeB else s.code b r A eA
  | 27 => s.code b r A eA
  | 29 => vCode o (s.code b r A eA) codeB
  | 30 => vCode o (s.code b r A eA) codeB
  | 31 => vCode o (s.code b r A eA) codeB
  | 32 =>
    let k := if bi then r.r.imm.toNat % 256 else s.code b r B eB
    if D.c ≤ k then 0 else 2 ^ k * s.code b r A eA % 2 ^ D.c
  | 33 =>
    let k := if bi then r.r.imm.toNat % 256 else s.code b r B eB
    lowI ((s.uval b r A eA).toInt / (2 ^ min k (max D.c A.c) : Nat)) D.c
  | 25 =>
    let y := if bi then imm else val B eB
    b2n (vCmpHolds (fld r.r.ctl.toNat 10 3) (val A eA) y)
  | _ =>
    let a := if o = 28 then (if bi then imm else val A (r.ix 1 n)) else val A eA
    let y := if vHasB o then (if bi then imm else val B eB) else a
    let z := if vHasC o then val C eC else a
    let x := vLane o (r.r.round == 3) a y z
    if int then intEnc D.fmt x r.r.sat else D.encode r.r x (r.draw (n * recV r.r + v))

/-- The exact combination of a reduction (R115–R117). -/
def combineAll (o : Nat) (xs : List XVal) : XVal :=
  match o with
  | 48 => xs.foldl (xadd false) (.fin true 0 0 1)
  | 50 => xs.foldl xmin (XVal.inf false)
  | 51 => (xs.map XVal.abs).foldl xmax xzero
  | _ => xs.foldl xmax (XVal.inf true)

/-- `r.argmax` (R117): the lowest index that holds the maximum, or a NaN. -/
def argMax (xs : List XVal) : XVal × Nat :=
  match xs.findIdx? XVal.isNan with
  | some i => (.nan, i)
  | none =>
    let m := xs.foldl xmax (XVal.inf true)
    (m, (xs.findIdx? (fun x => xeq x m)).getD 0xFFFFFFFF)

/-- Inserts a value and its position into a descending list: equal values keep ascending positions (R253). -/
def insDesc (x : XVal × Nat) : List (XVal × Nat) → List (XVal × Nat)
  | [] => [x]
  | y :: ys => if xlt y.1 x.1 then x :: y :: ys else y :: insDesc x ys

/-- `r.topk` (R253): NaNs by position, then numbers in descending order, padded. -/
def topK (xs : List XVal) (k : Nat) : List (XVal × Nat) :=
  let ps := xs.zipIdx
  let out := ps.filter (fun p => p.1.isNan) ++ (ps.filter (fun p => !p.1.isNan)).foldl (fun l p => insDesc p l) []
  (out ++ List.replicate k (XVal.inf true, 0xFFFFFFFF)).take k

/-- A reduction record's issue (R252, R253): the inputs read join the group's; after the last issue of the group it writes. `r.topk` writes
each value with `Enc` in either form (R253); the others wrap or clamp in integer form (R249). -/
def State.redWrites (s : State) (b : Nat) (r : QRec) (n : Nat) : Writes :=
  let D := s.str b r 0
  let A := s.str b r 1
  let C := s.str b r 3
  let int := s.intForm b r
  let xs := (List.range (recV r.r)).map (fun (v : Nat) => if int then s.uval b r A (r.ix 1 n + v) else s.val b r A (r.ix 1 n + v))
  let i0 := n % recT0 r.r
  let g := (if i0 = 0 then [] else r.gval) ++ xs
  if i0 + 1 < recT0 r.r then ⟨[], [], g⟩
  else
    let grp := n / recT0 r.r
    let put := fun (x : XVal) (i : Nat) =>
      if int then (match x with
        | .fin .. => intEnc D.fmt x r.r.sat
        | _ => D.fmt.enc x 0 r.r.sat false 0)
      else D.encode r.r x (r.draw i)
    let eD := r.ixG 0 n
    let eC := r.ixG 3 n
    match r.opn with
    | 52 => let (x, p) := argMax g; ⟨[(D, eD, put x grp), (C, eC, p)], [], []⟩
    | 53 =>
      let k := fld r.r.ctl.toNat 10 6 + 1
      let l := (topK g k).zipIdx
      let enc := fun (x : XVal) (i : Nat) => D.encode r.r x (r.draw i)
      ⟨l.map (fun x => (D, eD + x.2, enc x.1.1 (grp * k + x.2))) ++ l.map (fun x => (C, eC + x.2, x.1.2)), [], []⟩
    | o => ⟨[(D, eD, put (combineAll o g) grp)], [], []⟩

/-- One segment of R114: an FP32 code. -/
def mmaSegment (ps : List XVal) (sA sB : XVal) : Nat :=
  let inf := fun (neg : Bool) => ps.any (fun x => x == .inf neg)
  if ps = [] then 0
  else if ps.any XVal.isNan || sA.isNan || sB.isNan || (inf true && inf false) then fp32.nanCode
  else if inf true || inf false then
    (if sA.isZero || sB.isZero then fp32.nanCode else fp32.enc (.inf (inf true)) 0 false false 0)
  else
    let p := ps.foldl (xadd false) (.fin true 0 0 1)
    if p.isZero || sA.isZero || sB.isZero then (if ps.all XVal.sign then fp32.signBit else 0)
    else fp32.enc (xmul (xmul p sA) sB) 0 false false 0

/-- The values of row i of A over the granule, absent elements left out (R112, R247). -/
def State.mmaRow (s : State) (b : Nat) (r : QRec) (n i : Nat) : List (Option XVal) :=
  let A := s.str b r 1
  let e := r.ix 1 n + (i * stCols A.v : Nat)
  if r.opn = 0 then (List.range 96).map (fun (k : Nat) => some (s.uval b r A (e + k)))
  else
    let N := spN (r.stream 3)
    (List.range 4).flatMap (fun g =>
      let G := e.toNat / 24 + g
      let ps := (s.spGroup b r G).getD []
      (List.range 24).map (fun p => (ps.findIdx? (· == p)).map (fun q => s.uval b r A ((G * N + q : Nat) : Int))))

/-- Segment length g (R113). -/
def State.mmaSeg (s : State) (b : Nat) (r : QRec) : Nat :=
  let A := s.str b r 1
  let B := s.str b r 2
  if mmaKind A.fmt = 1 ∨ mmaKind B.fmt = 1 then 8 else if A.blk = 0 then 32 else A.blk

/-- One issue of `mma` or `mma.sp` (R114, R246, R247). -/
def State.mmaWrites (s : State) (b : Nat) (r : QRec) (n : Nat) : Writes :=
  let D := s.str b r 0
  let A := s.str b r 1
  let B := s.str b r 2
  let g := s.mmaSeg b r
  let rows := (List.range 32).map (s.mmaRow b r n)
  let colsB := (List.range 32).map (fun c => (List.range 96).map (fun k => s.uval b r B (r.ix 2 n + (k * stCols B.v + c : Nat))))
  let scA := fun (i seg : Nat) => s.scale b A (r.ix 1 n + (i * stCols A.v + seg : Nat))
  let scB := fun (seg c : Nat) => s.scale b B (r.ix 2 n + (seg * stCols B.v + c : Nat))
  let els := (rows.zipIdx).flatMap (fun row => (colsB.zipIdx).map (fun col =>
    let e := r.ix 0 n + (32 * row.2 + col.2 : Nat)
    let acc := (List.range (96 / g)).foldl (fun acc k =>
      let seg := k * g
      let ps := (List.zip ((row.1.drop seg).take g) ((col.1.drop seg).take g)).filterMap (fun x => x.1.map (fun a => xmul a x.2))
      let t := mmaSegment ps (scA row.2 seg) (scB seg col.2)
      fp32.enc (xadd false (fp32.dec acc) (fp32.dec t)) 0 false false 0) (s.code b r D e)
    (D, e, acc)))
  ⟨els, [], []⟩

/-- One issue of `s.quant` (R258). DESIGN CHOICE (unsafe; log entry 90): MaxD is 0 for a signed integer D of 1 bit, and m ÷ MaxD has no value in
the manual; the model takes it as infinite, so that a computed scale is the upper limit. -/
def State.quantWrites (s : State) (b : Nat) (r : QRec) (n : Nat) : Writes :=
  let D := s.str b r 0
  let A := s.str b r 1
  if D.blk = 0 then
    ⟨(List.range (recNe r.r)).map (fun (v : Nat) => (D, r.ix 0 n + v, D.encode r.r (s.val b r A (r.ix 1 n + v)) (r.draw (n * recNe r.r + v)))), [], []⟩
  else
    let bl := D.blk
    let at' := fun (t : Str) (k i : Nat) => r.ix k n + (i / bl * stCols t.v + i % bl : Nat)
    let xs := (List.range (bl * bl)).map (fun i => s.val b r A (at' A 1 i))
    let m := xs.foldl (fun m x => match x with
      | .fin .. => if xlt m x.abs then x.abs else m
      | _ => m) xzero
    let scm := fld r.r.ctl.toNat 12 2
    let q := xdiv m (D.fmt.dec D.fmt.maxMag)
    let sc := if xs.any XVal.isNan then 0xFFFFF
      else if scm = 1 then fld r.r.imm.toNat 0 20
      else if m.isZero then 0
      else if scm = 0 then scaleAbove q false 0xFEFFF
      else scaleAbove q true 0xFE000
    let els := xs.zipIdx.map (fun x =>
      let y := if sc = 0 then x.1 else if (decScale sc).isNan then .nan else xdiv x.1 (decScale sc)
      (D, at' D 0 x.2, D.encode r.r y (r.draw (n * (bl * bl) + x.2))))
    ⟨els, [(D.scaleAt (r.ix 0 n).toNat, sc)], []⟩

/-- One issue of `x.tr` (R254). -/
def State.trWrites (s : State) (b : Nat) (r : QRec) (n : Nat) : Writes :=
  let D := s.str b r 0
  let A := s.str b r 1
  let k := trBlock r.r
  let els := (List.range (k * k)).map (fun i =>
    let i0 := i / k
    let j0 := i % k
    (D, r.ix 0 n + (j0 * stCols D.v + i0 : Nat), s.code b r A (r.ix 1 n + (i0 * stCols A.v + j0 : Nat))))
  let w := leNat (s.spBytes b (A.scaleAt (r.ix 1 n).toNat) 4) % 2 ^ 20
  ⟨els, if A.blk = 0 then [] else [(D.scaleAt (r.ix 0 n).toNat, w)], []⟩

/-- The writes of issue n. -/
def State.issueWrites (s : State) (b : Nat) (r : QRec) (n : Nat) : Writes :=
  let D := s.str b r 0
  let A := s.str b r 1
  let ne := recNe r.r
  let V := recV r.r
  let iD := r.ix 0 n
  let iA := r.ix 1 n
  let slot := fun (k : Nat) => ((r.uses.find? (fun u => u.slot == k)).map (fun u => (s.slotElements b r n u).map (gthLane r u))).getD []
  let copy : Writes := ⟨(List.zip (slot 0) (slot 1)).map (fun x => (D, x.1.2, s.code b r A x.2.2)), [], []⟩
  match r.q with
  | 0 => match r.opn with
    | 2 => ⟨[], [], []⟩
    | 3 => ⟨(List.range ne).map (fun (v : Nat) => (D, iD + (v : Int), s.code b r A (iA + v) % 2 ^ 20)), [], []⟩
    | 5 => ⟨(List.range ne).map (fun (v : Nat) => (D, iD + (v : Int), 0)), [], []⟩
    | 6 => ⟨[], [], []⟩
    | 7 => ⟨(List.range ne).map (fun (v : Nat) => (D, iD + (v : Int), D.encode r.r (s.val b r A (iA + v)) (r.draw (n * ne + v)))), [], []⟩
    | _ => copy
  | 1 =>
    if r.opn ≤ 1 then s.mmaWrites b r n
    else if r.opn = 2 then ⟨(List.range 1024).map (fun (v : Nat) => (D, iD + (v : Int), 0)), [], []⟩
    else if r.opn = 3 then copy
    else if r.opn ≤ 39 then
      let int := s.intForm b r
      ⟨(List.range V).map (fun (v : Nat) => (D, iD + (v : Int), s.vecLane b r n v int)), [], []⟩
    else if r.opn ≤ 53 then s.redWrites b r n
    else if r.opn = 64 then s.trWrites b r n
    else if r.opn = 65 then copy
    else if r.opn = 80 then
      ⟨(List.range V).map (fun (v : Nat) =>
        let p := fun (k : Nat) => s.uval b r A (iA + 3 * v + k)
        (D, iD + (v : Int), D.fmt.enc (s.sample b r (p 0) (p 1) (p 2)) 0 r.r.sat false 0)), [], []⟩
    else ⟨[(D, iD, ((List.range ne).find? (s.poseHit b r n)).getD 0xFFFFFFFF)], [], []⟩
  | _ => match r.opn with
    | 0 => copy
    | 1 => s.quantWrites b r n
    | 2 => copy
    | 5 =>
      let m := match s.partner (stackOf b) with
        | some p => (List.range ne).map (fun (v : Nat) => (D.mirror (s.ctx (s.berth b).ctx).ckpt (stackOf b) p, iD + (v : Int), s.code b r A (iA + v)))
        | none => []
      ⟨copy.els ++ m, [], []⟩
    | _ => ⟨[], [], []⟩

/-- The bytes that the writes of an issue leave. -/
def State.writesBuf (s : State) (b : Nat) (r : QRec) (w : Writes) : Buf :=
  let buf := w.els.foldl (fun m x => s.setCode b r m x.1 x.2.1 x.2.2) ⟨[], [], []⟩
  w.words.foldl (fun m x => { m with sp := ovPut m.sp x.1 (leBytes x.2 4) }) buf

end Sys2Proof.Machine
end

