-- ==== Sys2Proof/Machine/Queue.lean ====
section
/-! DEFINITION. The queues of a strand: start, issue and retirement of records (R31, R32, R227–R239, R242–R244, R256–R263, R286, R366,
R392, R393, R397, R400, R405, R410, R412). -/

namespace Sys2Proof.Machine

/-! ## A queue and its head -/

/-- Head record of queue q. -/
def Berth.head (B : Berth) (q : Nat) : Option QRec := (B.queue q).head?
/-- Puts back a record that has changed. -/
def Berth.setRec (B : Berth) (x : QRec) : Berth := { B with recs := B.recs.map (fun r => if r.q == x.q && r.idx == x.idx then x else r) }
def State.setRec (s : State) (b : Nat) (x : QRec) : State := s.updBerth b (·.setRec x)

/-- Whether the queues of berth b run: the strand is resident and not cut, and its stack works (R365, R340). -/
def State.queueRuns (s : State) (b : Nat) : Bool :=
  let B := s.berth b
  let k := s.stack (stackOf b)
  (B.st == .run || B.st == .wait) && !B.cut && !B.dbg.stp && s.up (stackOf b) && !k.withhold

/-! ## Start (R231, R233, R234) -/

def QRec.bind (r : QRec) (k n : Nat) : QRec :=
  { r with slots := r.slots.modify k (fun u => { u with bound := some n }) }

/-- Owner code of a record of berth b (R72, R234). -/
def recOwner (b q : Nat) : Nat := 8 * (b % 2) + q + 1

/-- A record takes what a token or a slot tells: the acquire side of the pair (R77); the records that it names join it (R57). -/
def QRec.takes (r : QRec) (now : Nat) (t : Tok) : QRec :=
  { r with joins := r.joins ++ t.ids, clk := AMap.put (r.clk.both t.clk) 0 now }

/-- Takes all of a record's tokens together (R231); the records that they name have joined (R57, R58). -/
def State.takeTokens (s : State) (b : Nat) (r : QRec) : Option (State × QRec) :=
  if r.toks then some (s, r) else
  match (s.berth b).tokensFor (s.launchOf b).det r with
  | none => none
  | some ts =>
    let r := ts.foldl (fun r t => r.takes (s.ev + 1) t.2.2) { r with toks := true }
    let B := ts.foldl (fun B t => (B.setFifo t.1 ((B.fifo t.1).drop t.2.1)).joinAside t.2.2.ids) (s.berth b)
    some (s.setBerth b (B.setRec r), r)

/-- Binds the ring slot of slot k when it can be bound (R234): a source at a full head, a destination by a logged claim in the order of R199. A slot that
another strand's record filled does not join this record, but has joined its own strand (R57, R58); a claim takes what happened before the slot was freed (log entry 105). -/
def State.bindSlot (s : State) (b : Nat) (r : QRec) (k : Nat) : State × QRec :=
  let c := coreOf b
  let d := r.ringOf k
  let R := (s.core c).ring d
  if !(r.onRing k) || (r.boundAt k).isSome || (s.berth b).ringTaken r d then (s, r)
  else if k = 0 then
    if !(s.mayClaim (s.launchOf b).follows c d (ringPlace b (r.q + 1))) then (s, r) else
    let own := recOwner b r.q
    match s.logR b r.q r.idx 0x10 (s.ringObj c d) (ringArg R.tail own R.grants) with
    | .go s =>
      let (n, R') := R.claim own
      let r := (r.bind k n).takes (s.ev + 1) ⟨[], 0, R.freedBefore n⟩
      ((s.setRing c d R').setRec b r, r)
    | .hold => (s, r)
    | .bad s => (s, r)
  else if R.isFull R.head then
    let t := AMap.get Tok.empty R.pay R.head
    let own := t.src = (s.berth b).tid
    let r := (r.bind k R.head).takes (s.ev + 1) (if own then t else ⟨[], 0, t.clk⟩)
    let s := s.joinElse c b t
    ((if own then s.updBerth b (·.joinAside t.ids) else s).setRec b r, r)
  else (s, r)

/-- Whether slot k is a used ring slot that is not bound and whose ring is disabled. -/
def State.slotGone (s : State) (b : Nat) (r : QRec) (k : Nat) : Bool :=
  r.onRing k && (r.boundAt k).isNone && !(ringEn ((s.core (coreOf b)).ring (r.ringOf k)).desc)

/-- Whether a ring that the record would bind now is disabled: it binds nothing, and its next issue faults (R234, R400). -/
def State.ringGone (s : State) (b : Nat) (r : QRec) : Bool :=
  [0, 1, 2, 3].any (fun k => s.slotGone b r k && !((s.berth b).ringTaken r (r.ringOf k)))

/-- The record has passed its conditions. -/
def State.started (s : State) (b : Nat) (r : QRec) : State :=
  (s.setRec b { r with st := .started }).trace b 2 (r.q + 1) r.opn r.addr r.idx 0

/-- RECORD_START (R231): the head record of queue `arg.q` of berth `arg.b` takes its tokens, passes the range checker and binds its ring
slots, as far as each can be done. -/
def execRecordStart (s : State) : Out :=
  let b := s.arg.b
  .next (match (s.berth b).head s.arg.q with
  | none => s
  | some r =>
    if !(s.queueRuns b) || r.st != .waitTok then s else
    match s.takeTokens b r with
    | none => s
    | some (s, r) =>
      if !r.live then s.started b r
      else if (s.berth b).rangeHeld r then s
      else if s.ringGone b r then s.started b r
      else
        let (s, r) := [0, 1, 2, 3].foldl (fun x k => State.bindSlot x.1 b x.2 k) (s, r)
        if !r.unbound then s.started b r else s)

/-! ## Checks of an issue (R264, R366, R387, R392, R400, R405, R412) -/

/-- Whether a core holds a resident strand of a context (R280), its stores zeroed for it (R69). -/
def State.coreHas (s : State) (c ctx : Nat) : Bool := [2 * c, 2 * c + 1].any (fun b => (s.berth b).residentOf ctx)

/-- Receivers of an `l.mc` (R243). -/
def mcCores (b : Nat) (imm : Word) : List Nat :=
  (List.range (fld imm.toNat 48 4 + 1)).map (fun k => 16 * stackOf b + fld imm.toNat (4 * k) 4)

/-- Landing offset of an `l.mc` issue after `mcb`, and its bytes (R244). -/
def State.mcLanding (s : State) (b : Nat) (r : QRec) (n : Nat) : Int × Nat :=
  let t := s.str b r 0
  ((t.base : Int) + t.byteOf (r.ix 0 n), cdiv (recNe r.r * t.c) 8)

/-- ILLEGAL at queue q. -/
def sendIllegal (q : Nat) (addr val : Nat) (slot lane : Nat) : Option IFault :=
  some ⟨0x51 + q, BitVec.ofNat 64 addr, BitVec.ofNat 64 val, slot, lane, false⟩

/-- What stops a send. -/
def State.sendCheck (s : State) (b : Nat) (r : QRec) (n : Nat) : Option IFault :=
  let ctx := (s.berth b).ctx
  let imm := r.r.imm.toNat
  if r.q = 0 ∧ r.opn = 2 then
    let (lo, k) := s.mcLanding b r n
    match (mcCores b r.r.imm).find? (fun c => !(s.coreHas c ctx)) with
    | some _ => sendIllegal 0 0 imm 0 0
    | none => ((mcCores b r.r.imm).find? (fun c =>
        decide (lo < 0) || decide ((0x400000 : Int) < (s.core c).mcb.toNat + lo + k))).bind (fun c =>
          sendIllegal 0 ((s.core c).mcb.toNat + lo.toNat) imm 0 0)
  else if r.q = 2 ∧ (r.opn = 4 ∨ r.opn = 6) then
    let t := s.str b r 1
    let (i, k) := s.sendSpan b r n
    let room := if t.spc = 3 then t.size else cdiv (stLen t.v * t.c) 8
    if r.opn = 4 then
      let tag := imm % 4096
      if !((s.tag ctx tag).alloc) || decide ((room : Int) < i + k) || decide (i < 0) then sendIllegal 2 0 tag 1 0 else none
    else match handleOf r.r.imm with
      | none => sendIllegal 2 0 imm 1 0
      | some (c, _) => if !(s.coreHas c ctx) then sendIllegal 2 0 imm 1 0 else none
  else if r.q = 2 ∧ r.opn = 3 then
    let D := s.str b r 0
    let rop := fld r.r.ctl.toNat 12 4
    let host := fun (e : Int) => match s.walk ctx (fld (D.ptr (e.toNat * 4)).toNat 0 50) 0 with
      | .ok l => bitN l.pa 45
      | .error _ => false
    (List.range (recNe r.r)).findSome? (fun (v : Nat) =>
      let e := r.ix 0 n + (v : Int)
      let p := D.ptr (e.toNat * 4)
      match s.winAt ctx (fld p.toNat 0 50) with
      | some (w, _) => if ((s.ctx ctx).win w).op = rop then none else sendIllegal 2 p.toNat w 0 v
      | none => if host e && (rop != 0 || fld imm 0 2 != 3 || bitN imm 2) then sendIllegal 2 p.toNat rop 0 v else none)
  else none

/-- A malformed sparsity group of an `mma.sp` issue (R412). -/
def State.groupFault (s : State) (b : Nat) (r : QRec) (n : Nat) : Option IFault :=
  if r.q = 1 ∧ r.opn = 1 then
    ((spGroups r n).find? (fun g => (s.spGroup b r g.2).isNone)).map (fun g => ⟨0xA2, 0, BitVec.ofNat 64 (24 * g.2), 3, 0, false⟩)
  else none

/-- A ring slot that could not be bound (R400): the first whose ring is disabled. -/
def State.ringFault (s : State) (b : Nat) (r : QRec) : Option IFault :=
  let free := [0, 1, 2, 3].filter (fun k => r.onRing k && (r.boundAt k).isNone)
  (((free.find? (s.slotGone b r)).map some).getD free.head?).map (fun k =>
    ⟨0x51 + r.q, 0, (r.slots.getD k ⟨0, 0, false, none⟩).handle, k, 0, false⟩)

/-- Place of a fault's class in the order of R361 step 5: ALIGN, BOUNDS, TRANSLATION (with what the walk finds), PERMISSION, ILLEGAL, FORMAT. -/
def classRank (code : Nat) : Nat :=
  match code / 16 with
  | 3 => 0
  | 7 => 1
  | 9 => 3
  | 5 => 4
  | 10 => 5
  | _ => 2

/-- Place of a fault among those of one issue: slot, lane, class (R361, R387). -/
def IFault.key (f : IFault) : Nat := 8 * (65536 * f.slot + f.lane) + classRank f.code

/-- The first of the faults found. -/
def firstIFault (fs : List IFault) : Option IFault :=
  fs.foldl (fun m f => match m with
    | none => some f
    | some g => if f.key < g.key then some f else some g) none

/-- The first fault of issue n: slots in the order D, A, B, C, within a slot the lowest lane, there the first class (R361, R387). -/
def State.issueFault (s : State) (b : Nat) (r : QRec) (n : Nat) : Option IFault :=
  let bndb := (s.launchOf b).bndb
  firstIFault ((s.touches b r n).filterMap (fun x => match s.touchFault b r.q bndb x with
      | some f => some f
      | none => if r.usesScale x then scaleFault r.q x else none)
    ++ (s.ringFault b r).toList ++ (s.groupFault b r n).toList ++ (s.sendCheck b r n).toList)

/-- ENGINE ISSUE FAULT (R366, R385): the issue is abandoned whole, its queue stops in state 5, and the strand enters its handler asynchronously; or its
context faults, with the record in state 5 all the same (R372, R467). An access that gets no answer is made again. -/
def State.engineFault (s : State) (b : Nat) (r : QRec) (f : IFault) : State :=
  let tl := BitVec.ofNat 64 (65536 * f.slot + f.lane)
  let word := BitVec.ofNat 64 r.word0.toNat
  if f.code < 16 then s
  else if f.ctxf then
    if s.cBusy b then s else
    let s := ((s.setRec b { r with st := .faulted, fcode := f.code, faddr := f.addr, fval := f.val, flane := tl }).writeback b).dropWait b
    (s.haltAt b f.code true f.addr f.val word tl).ctxFault (s.berth b).ctx f.code b (s.launchOf b).seq false
  else (s.setRec b { r with st := .faulted, fcode := f.code, faddr := f.addr, fval := f.val, flane := tl }).enterFault b

/-- Whether issue n reads poison: its sources, and the accumulator that an `mma` adds to (R392). -/
def State.readsPoison (s : State) (b : Nat) (r : QRec) (n : Nat) : Bool :=
  (s.touches b r n).any (fun x => (x.k == .rd || (r.q == 1 && r.opn ≤ 1)) &&
    s.touchPoison b (if r.usesScale x then x else { x with t := x.t.plain }))

/-! ## Sends (R217, R243, R244, R259, R260, R263, R314) -/

/-- Bytes i to i + n − 1 of a stream's space, from byte i of the stream. -/
def State.strBytes (s : State) (b : Nat) (r : QRec) (t : Str) (i : Int) (n : Nat) : List Byte :=
  (List.range n).map (fun k => s.strByte b r t (i.toNat + k))

/-- The messages of an `l.mc` issue: one to each receiver, of the codes as A gives them now (R244). -/
def State.mcMsgs (s : State) (b : Nat) (r : QRec) (n : Nat) (pz : Bool) : List McMsg :=
  let A := s.str b r 1
  let (lo, k) := s.mcLanding b r n
  let ne := recNe r.r
  let v := packCodes ((List.range ne).map (fun (i : Nat) => s.code b r A (r.ix 1 n + i))) A.c
  (mcCores b r.r.imm).map (fun c =>
    ⟨(s.berth b).ctx, b, c, n, lo.toNat, leBytes v k, ne * A.c % 8, pz, n + 1 == recIssues r.r, fld r.r.ctl.toNat 12 4, r.clk⟩)

/-- The event in which C appended a record: what precedes it in program order precedes the record (R75). -/
def QRec.forkAt (r : QRec) : Nat := (r.tid - 8) / 4096

/-- What an atomic of a record releases by the `pub`s of its strand before the fork (R75, R77 row 2). -/
def QRec.pubRels (r : QRec) (B : Berth) (b : Nat) : List Rel :=
  (B.pubRels b).filter (fun p => decide (AMap.get 0 p.clk B.tid ≤ r.forkAt))

/-- Whether a contribution of record r to element e goes into the ordered buffer: it is ordered, and no open window covers it (R314). -/
def State.bufferedAt (s : State) (b : Nat) (r : QRec) (D : Str) (e : Nat) : Bool :=
  bitN r.r.imm.toNat 2 && (s.winAt (s.berth b).ctx (fld (D.ptr (e * 4)).toNat 0 50)).isNone

/-- One contribution of an `s.red` (R259, R87, R314): to the switch of an open window, into the ordered buffer, or as an atomic. -/
def State.contribute (s : State) (b : Nat) (r : QRec) (D : Str) (e : Nat) (val : Word) (pz : Bool) : State :=
  let B := s.berth b
  let imm := r.r.imm.toNat
  let fn := opFn (fld r.r.ctl.toNat 12 4)
  let p := D.ptr (e * 4)
  let req : AtomReq := {
    berth := b, ctx := B.ctx, stk := stackOf b, fn := fn, w := 4, ptr := p, y := val, cmp := 0, reply := false, pz := pz, byRec := some 2, ordB := none,
    handle := B.handle, pix := r.idx, lsl := B.lsl, tid := r.tid, iss := s.ev + 1, clk := r.clk, rels := r.pubRels B b, acq := none, words := 0 }
  match s.winAt B.ctx (fld p.toNat 0 50) with
  | some (w, k) => { s with contribs := s.contribs ++ [⟨req, w, k⟩] }
  | none =>
    if bitN imm 2 then
      s.updBerth b (fun B => { B with obuf := B.obuf ++ [⟨fn, imm % 4, false, val, p, B.batch, pz, some r.idx, r.tid, s.ev + 1, r.clk⟩] })
    else { s with atoms := s.atoms ++ [req] }

/-- Makes the contributions of an issue that are left, in lane order, until one finds the ordered buffer full: the 33rd entry makes the buffer leave, and
waits (R314). -/
def State.contributeLeft (s : State) (b : Nat) (r : QRec) (D : Str) : List (Nat × Nat × Bool) → State
  | [] => s.setRec b { r with left := [] }
  | x :: xs =>
    if s.bufferedAt b r D x.1 && decide (32 ≤ (s.berth b).obuf.length) then
      let s := s.setRec b { r with left := x :: xs }
      if s.mayFlush b then s.sendBatch b else s
    else (s.contribute b r D x.1 (BitVec.ofNat 64 x.2.1) x.2.2).contributeLeft b r D xs

/-- The contributions of an `s.red` issue, in lane order: element, value and whether it is poisoned. -/
def State.redVals (s : State) (b : Nat) (r : QRec) (n : Nat) : List (Nat × Nat × Bool) :=
  let A := s.str b r 1
  (List.range (recNe r.r)).map (fun (v : Nat) =>
    ((r.ix 0 n + (v : Int)).toNat, s.code b r A (r.ix 1 n + v), s.touchPoison b ⟨A.plain, v, r.ix 1 n + v, .rd, false⟩))

/-- Whether an `s.red` issue that is not ordered names an address that a buffered entry names (R314). -/
def State.redFlushes (s : State) (b : Nat) (r : QRec) (n : Nat) : Bool :=
  let D := s.str b r 0
  !(bitN r.r.imm.toNat 2) && (List.range (recNe r.r)).any (fun (v : Nat) =>
    let va := fld (D.ptr ((r.ix 0 n + (v : Int)).toNat * 4)).toNat 0 50
    (s.winAt (s.berth b).ctx va).isNone && (s.berth b).obuf.any (fun e =>
      decide (fld e.ptr.toNat 0 50 < va + 4) && decide (va < fld e.ptr.toNat 0 50 + (if e.wide then 8 else 4))))

/-- The operand of an `s.meet` issue, which leaves for its lock; the send is a release at .dev (R260, R217, R77). -/
def State.meetMsg (s : State) (b : Nat) (r : QRec) (n : Nat) (pz : Bool) : MeetMsg :=
  let (i, k) := s.sendSpan b r n
  let ctx := (s.berth b).ctx
  let tag := r.r.imm.toNat % 4096
  ⟨ctx, tag, b2n (bitN r.r.imm.toNat 12), s.strBytes b r (s.str b r 1) i k, pz, b, stackOf b, s.lockOf ctx tag, false, true, s.ev + 1⟩

/-- The message of an `s.ring` issue: the bytes of one slot leave for the ring's core (R263). -/
def State.ringMsgs (s : State) (b : Nat) (r : QRec) (n : Nat) (pz : Bool) : List RingMsg :=
  let (i, k) := s.sendSpan b r n
  match handleOf r.r.imm with
  | none => []
  | some (c, d) => [⟨(s.berth b).ctx, c, d, s.strBytes b r (s.str b r 1) i k, pz, b, (s.berth b).lsl, s.ev + 1, r.clk⟩]

/-! ## Releases of a record (R74, R76, R77, R82, R314) -/

/-- Whether a record e has joined record r: itself, or one whose token or slot r, or a record that joined it, has taken, and those before it in its
queue (R57). -/
def QRec.joined (r e : QRec) : Bool :=
  (e.q == r.q && e.idx == r.idx) ||
    ((e.st == .retired || e.st == .pushing) && e.named r.joins)

/-- The stores of the records that satisfy p and that a publish at scope sc sends reach memory. -/
def State.pubRecs (s : State) (b sc : Nat) (p : QRec → Bool) : State :=
  let B := s.berth b
  let out := (B.recs.filter p).foldl (fun m r => (r.wr.filter (fun x => s.goesAt sc x.1)).foldl (fun m x => AMap.put m x.1 x.2) m) []
  (s.letOut b out).updBerth b (fun B => { B with recs := B.recs.map (fun r =>
    if p r then { r with wr := r.wr.filter (fun x => !(s.goesAt sc x.1)) } else r) })

/-- What a release by record r at scope sc publishes: the strand's stores, its own, and those of the records that have joined it (R58, R76). -/
def State.recPublish (s : State) (b : Nat) (r : QRec) (sc : Nat) : State := (s.publish b sc).pubRecs b sc r.joined

/-- Whether a release by record r at scope sc has still to wait: for a batch of the strand (R314), for an atomic that precedes the fork (R82), or for a
home that cannot acknowledge (R74). -/
def State.recWaits (s : State) (b : Nat) (r : QRec) (sc : Nat) : Bool :=
  let B := s.berth b
  let early := fun (a : AtomReq) => a.ofC b && a.tid == B.tid && decide (a.iss ≤ r.forkAt)
  s.batchOut b || s.atoms.any early || s.contribs.any (fun c => early c.req) || !(s.mayPublish b sc)
    || B.recs.any (fun e => r.joined e && e.wr.any (fun x => s.goesAt sc x.1 && s.paDead x.1))

/-- Whether a store that record r has to publish has lost its home to a fence (R424 step 5). -/
def State.recLost (s : State) (b : Nat) (r : QRec) : Bool := (s.berth b).recs.any (fun e => r.joined e && e.wr.any (fun x => s.paFenced x.1))

/-- The release of record r finds such stores: they are gone, and its queue takes the fault (R366, R424). DESIGN CHOICE (safe; log entry 119): `taddr` is
a free value. -/
def State.recFenced (s : State) (b : Nat) (r : QRec) : State :=
  let s := s.updBerth b (fun B => { B with recs := B.recs.map (fun e => if r.joined e then { e with wr := e.wr.filter (fun x => !(s.paFenced x.1)) } else e) })
  match ((s.berth b).head r.q) with
  | some r => (s.setRec b { r with st := .faulted, fcode := 0x81 + r.q, faddr := BitVec.ofNat 64 (Config.unstated s.ev 5), fval := 5, flane := 0 }).enterFault b
  | none => s

/-- Runs a release by record r: the ordered buffer leaves first (R314). -/
def State.recRelease (s : State) (b : Nat) (r : QRec) (sc : Nat) (k : State → State) : State :=
  if (s.berth b).obuf ≠ [] then (if s.mayFlush b then s.sendBatch b else s)
  else if s.recWaits b r sc then s else if s.recLost b r then s.recFenced b r else k (s.recPublish b r sc)

/-! ## An issue (R227, R286) -/

/-- Whether a record's operation is a send, of which one is outstanding at a time for `s.meet` and `s.ring` (log entry 23). -/
def QRec.single (r : QRec) : Bool := r.q == 2 && (r.opn == 4 || r.opn == 6)

/-- Whether queue q of berth b has an issue to make. -/
def State.issueReady (s : State) (b q : Nat) : Bool :=
  s.queueRuns b && match (s.berth b).head q with
  | none => false
  | some r => r.st == .started && r.left == [] && r.live && !r.skip && decide (r.point < recIssues r.r) && !(r.single && decide (0 < r.sent))

/-- Whether R286 lets queue q of berth b issue before that of the other berth of its core. -/
def State.engineTurn (s : State) (b q : Nat) : Bool :=
  let o := b ^^^ 1
  let key := fun (x : Nat) => (s.launchOf x).prio (s.berth x).stage + (s.berth x).xAge.getD q 0
  let last := fun (x : Nat) => (s.berth x).xLast.getD q 0
  !(s.issueReady o q) || decide (key o < key b) || (key o == key b && (decide (last b < last o) || (last b == last o && decide (b < o))))

/-- The ages after queue q of berth b has been chosen. -/
def State.engineAged (s : State) (b q : Nat) : State :=
  let o := b ^^^ 1
  let s := if s.issueReady o q then s.updBerth o (fun B => { B with xAge := B.xAge.modify q (fun a => min 15 (a + 1)) }) else s
  s.updBerth b (fun B => { B with xAge := B.xAge.set q 0, xLast := B.xLast.set q s.ev })

/-- Global bytes of a checkpoint's mirror, which are no write of the record's own (R262). -/
def State.mirrorOf (s : State) (b : Nat) (r : QRec) (w : Writes) : Mem :=
  if r.q = 2 ∧ r.opn = 5 then (s.writesBuf b r { w with els := w.els.filter (fun x => x.1.v != (s.str b r 0).v) }).gl else []

/-- The effects of an issue that passed its checks: all sources are read before anything is written (R227). -/
def State.performIssue (s : State) (b : Nat) (r : QRec) : State :=
  let n := r.point
  let q := r.q
  let ctx := (s.berth b).ctx
  let pz := s.readsPoison b r n
  let w := s.issueWrites b r n
  let buf := s.writesBuf b r w
  let mirror := s.mirrorOf b r w
  let own := buf.gl.filter (fun p => (AMap.find mirror p.1).isNone)
  let sends := (q == 0 && r.opn == 2) || (q == 2 && (r.opn == 3 || r.opn == 4 || r.opn == 6))
  let r' := { r with point := n + 1, gval := w.gval, poisoned := r.poisoned || pz, clk := AMap.put r.clk r.tid (s.ev + 1),
                     wr := buf.gl.foldl (fun m p => AMap.put m p.1 p.2) r.wr }
  let s' := (s.record r.tid (s.ev + 1) ctx own).record (r.tid + 2) (s.ev + 1) ctx mirror
  let s' := if pz then s'.sawPoison b (q + 1) else s'
  let s' := if pz && (sends || buf.gl != []) then s'.sentPoison ctx (0xC1 + q) b else s'
  let s' := (s'.flush b buf pz).setRec b r'
  if q = 0 ∧ r.opn = 2 then
    ({ s' with mcs := s'.mcs ++ s.mcMsgs b r' n pz } : State).setRec b { r' with sent := r.sent + (mcCores b r.r.imm).length }
  else if q = 2 ∧ r.opn = 3 then s'.contributeLeft b { r' with sent := r.sent + recNe r.r } (s.str b r 0) (s.redVals b r n)
  else if q = 2 ∧ r.opn = 4 then ({ s' with meets := s'.meets ++ [s.meetMsg b r n pz] } : State).setRec b { r' with sent := r.sent + 1 }
  else if q = 2 ∧ r.opn = 6 then
    ({ s' with rmsgs := s'.rmsgs ++ s.ringMsgs b r' n pz } : State).setRec b { r' with sent := r.sent + (s.ringMsgs b r' n pz).length }
  else s'

/-- What comes before the effects of an issue (R76, R314): a send to a lock or a ring is a release; a contribution waits for the batches before it. -/
def State.beforeIssue (s : State) (b : Nat) (r : QRec) (k : State → State) : State :=
  if r.q = 2 ∧ r.opn = 4 then s.recRelease b r 2 k
  else if r.q = 2 ∧ r.opn = 6 then s.recRelease b r (if ((handleOf r.r.imm).map (·.1)) = some (coreOf b) then 0 else 2) k
  else if r.q = 2 ∧ r.opn = 3 then
    if s.redFlushes b r r.point then (if s.mayFlush b then s.sendBatch b else s) else if s.batchOut b then s else k s
  else k s

/-- Whether an issue of queue q has contributions left to make: it goes on whatever the queue does, once the batches before it have been performed
(R314). -/
def State.goesOn (s : State) (b q : Nat) : Option QRec := match (s.berth b).head q with
  | some r => if r.left ≠ [] ∧ s.up (stackOf b) then some r else none
  | none => none

/-- RECORD_ISSUE (R227, R366): the next issue of the record that queue `arg.q` of berth `arg.b` has started, or what is left of its last one. -/
def execRecordIssue (s : State) : Out :=
  let b := s.arg.b
  let q := s.arg.q
  .next (match s.goesOn b q with
  | some r => if s.batchOut b then s else s.contributeLeft b r (s.str b r 0) r.left
  | none => match (s.berth b).head q with
  | none => s
  | some r =>
    if !(s.issueReady b q) || !(s.engineTurn b q) then s else
    match s.issueFault b r r.point with
    | some f => s.engineFault b r f
    | none => s.beforeIssue b r (fun s => ((s.engineAged b q).performIssue b (((s.berth b).head q).getD r))))

/-! ## Retirement (R232, R233, R393, R397) -/

/-- What a record of strand `tid` hands on: its position and those that have joined it, and what happened before it (R57, R77). -/
def QRec.tok (r : QRec) (tid : Nat) : Tok := ⟨(r.q, r.idx) :: r.joins, tid, r.out⟩

/-- Step 1 of R232: pops the source slots that are not kept. -/
def State.popSources (s : State) (b : Nat) (r : QRec) : State :=
  [1, 2, 3].foldl (fun s k =>
    let c := coreOf b
    let d := r.ringOf k
    let R := (s.core c).ring d
    if r.onRing k && (r.boundAt k).isSome && !(bitN r.r.ctl.toNat (15 + k)) && R.isFull R.head then s.setRing c d (R.pop r.out) else s) s

/-- Step 2 of R232: releases the destination slot. -/
def State.fillDest (s : State) (b : Nat) (r : QRec) : State :=
  match r.boundAt 0 with
  | some n =>
    let c := coreOf b
    let d := r.ringOf 0
    s.setRing c d (((s.core c).ring d).fill n (r.tok (s.berth b).tid))
  | none => s

/-- Error code of a record's arrival (R393, R397). -/
def QRec.arriveErr (r : QRec) : Option Nat := if r.skip then some r.fcode else if r.poisoned then some (0xC1 + r.q) else none

/-- The barrier at which a record arrives when it retires. -/
def QRec.arrivesAt (r : QRec) (b : Nat) : Option BarId :=
  if r.live && bitN r.r.ctl.toNat 19 then some (barId (fld r.r.ctl.toNat 20 12) (coreOf b)) else none

/-- Step 3 of R232: the arrival; at the barrier of a gang that does not exist nothing is counted and the context faults (R400). -/
def State.arriveRec (s : State) (b : Nat) (r : QRec) : Gate :=
  let B := s.berth b
  let v := fld r.r.ctl.toNat 20 12
  match r.arrivesAt b with
  | none => .go s
  | some i =>
    let none? := match i with
      | .gang g => !(s.gangExists B.ctx g)
      | .core .. => false
      | .bad => true
    if none? then
      .go ((s.haltAt b (0x51 + r.q) true 0 (BitVec.ofNat 64 v) (BitVec.ofNat 64 r.word0.toNat) 0).ctxFault B.ctx (0x51 + r.q) b (s.launchOf b).seq false)
    else s.afterDue B.ctx i (fun s =>
      let ph := (s.bar B.ctx i).phase
      let s := s.updBerth b (fun B => { B with
        arrs := B.arrs ++ [(r.q, r.idx, v, ph)]
        recs := B.recs.map (fun x => if x.q == r.q && x.idx == r.idx then { x with arrived := some (v, ph) } else x) })
      match s.logR b r.q r.idx 0x11 (s.barObj i) (arriveArg (s.bar B.ctx i) false) with
      | .go s => s.arrive B.ctx B.lsl i false r.arriveErr (r.q + 1) r.out
      | x => x)

/-- Steps 4 and 5 of R232: pushes what the FIFOs have room for; after the last push the sequence number increments. DEDUCED (unsafe; log entry 124): of a
record with `hl` and `hr` the push of `hl` comes first, and that of `hr` stays behind it while its FIFO is full; R232 does not say whether it goes ahead. -/
def State.pushTokens (s : State) (b q : Nat) : State :=
  match (s.berth b).head q with
  | none => s
  | some r =>
    let (B, r) := (r.pushes.drop r.pushed).foldl (fun (x : Berth × QRec) p =>
      let F := x.1.fifo p.1
      if F.count < 15 ∧ x.2.pushed < r.pushes.length ∧ r.pushes[x.2.pushed]? = some p then
        (x.1.setFifo p.1 { F with done := F.done ++ [(p.2, r.tok (s.berth b).tid)] }, { x.2 with pushed := x.2.pushed + 1 })
      else x) (s.berth b, r)
    if r.pushed < r.pushes.length then s.setBerth b (B.setRec r)
    else
      let B := B.setRec { r with st := .retired }
      let B := { B with qsn := B.qsn.modify q (· + 1) }
      (s.setBerth b (if r.joinAtEnd then B.join q r.idx else B)).trace b 3 (q + 1) r.opn r.addr r.idx 0

/-- Whether every send and contribution of a record has been acknowledged (R232, R259). -/
def QRec.acked (r : QRec) : Bool := r.sent == 0

/-- Whether a record that has made its issues waits only for contributions that are still in the ordered buffer: they leave then (log entry 106). -/
def Berth.keepsBuffered (B : Berth) (r : QRec) : Bool := B.obuf.any (fun o => o.byRec == some r.idx) && r.q == 2

/-- The scope at which what remains of a record's retirement releases, if it does (R76, R77, R232). -/
def QRec.relScope (r : QRec) (b : Nat) : Option Nat :=
  let rings := [0, 1, 2, 3].any (fun k => r.onRing k && (r.boundAt k).isSome)
  match r.st, r.arrivesAt b with
  | .started, some i => some i.scope
  | .started, none => if rings || r.pushes != [] then some 0 else none
  | _, _ => if r.pushed < r.pushes.length then some 0 else none

/-- Runs what remains of a retirement, after the release that it is part of. -/
def State.afterRelease (s : State) (b : Nat) (r : QRec) (k : State → State) : State :=
  match r.relScope b with
  | none => k s
  | some sc => s.recRelease b r sc k

/-- The retirement of a record whose accesses are done (R232): a checkpoint first publishes its two writes (R262). -/
def State.retireRec (s : State) (b : Nat) (r : QRec) : State :=
  if !r.live then (s.setRec b { r with st := .pushing }).pushTokens b r.q
  else
    let s := if r.q = 2 ∧ r.opn = 5 then s.pubRecs b 2 (fun e => e.q == r.q && e.idx == r.idx) else s
    match ((s.popSources b r).fillDest b r).arriveRec b r with
    | .go s => (s.updBerth b (fun B => { B with recs := B.recs.map (fun x =>
        if x.q == r.q && x.idx == r.idx then { x with st := .pushing } else x) })).pushTokens b r.q
    | .hold => s
    | .bad _ => match s.arriveRec b r with
      | .bad s => s
      | _ => s

/-- Whether the retirement of a checkpoint must wait for a home that cannot acknowledge (R74, R262). -/
def State.ckptWaits (s : State) (r : QRec) : Bool := r.q == 2 && r.opn == 5 && r.wr.any (fun x => s.paDead x.1)

/-- RECORD_RETIRE (R232): the head record of queue `arg.q` of berth `arg.b`, its last issue performed and its sends acknowledged, retires;
one whose predicate is false only pushes its tokens and counts. -/
def execRecordRetire (s : State) : Out :=
  let b := s.arg.b
  let q := s.arg.q
  .next (match (s.berth b).head q with
  | none => s
  | some r =>
    if !(s.queueRuns b) then s
    else match r.st with
      | .started =>
        if r.live && !r.skip && decide (r.point < recIssues r.r) then s
        else if r.live && !r.acked then (if (s.berth b).keepsBuffered r && r.left == [] && s.mayFlush b then s.sendBatch b else s)
        else if s.ckptWaits r then s
        else s.afterRelease b r (fun s => s.retireRec b (((s.berth b).head q).getD r))
      | .pushing => s.afterRelease b r (fun s => s.pushTokens b q)
      | _ => s)

end Sys2Proof.Machine
end

