-- ==== Sys2Proof/Machine/Preempt.lean ====
section
/-! DEFINITION. Pre-emption, save and resume (R223, R288–R300, R315, R370, R372, R373, R383–R385, R431, R450). -/

namespace Sys2Proof.Machine

/-! ## The save area's memory (R288, R296, R384) -/

/-- Writes bytes lo to hi − 1 of image m at lo + va: every page must be writable and pinned. -/
def State.saveRange (s : State) (ctx va lo hi : Nat) (m : Mem) : Nat → Except MFault State
  | 0 => .ok s
  | fuel + 1 =>
    if hi ≤ lo then .ok s else
    let n := min (hi - lo) (65536 - (lo + va) % 65536)
    match s.xlate ctx (fld (lo + va) 0 50) (BitVec.ofNat 64 (lo + va)) .wr with
    | .error f => .error f
    | .ok l =>
      if !(bitN l.ent 6) then .error ⟨9, none, BitVec.ofNat 64 (lo + va), 1, false⟩ else
      let mem := AMap.overlay 0 (AMap.clearRange s.mem l.pa n) (AMap.window m lo n l.pa)
      let poison := AMap.clearRange s.poison ((l.pa + 31) / 32) ((l.pa + n) / 32 - (l.pa + 31) / 32)
      ({ s with mem := mem, hist := AMap.clearRange s.hist l.pa n, poison := poison } : State).saveRange ctx va (lo + n) hi m fuel

/-- Writes a whole image of n bytes at va. -/
def State.saveAll (s : State) (ctx va n : Nat) (m : Mem) : Except MFault State := s.saveRange ctx va 0 n m (n / 65536 + 2)

/-- Reads bytes lo to hi − 1 of the image at va; poison there is a fault as any other (R384, R467). -/
def State.loadRange (s : State) (ctx va lo hi : Nat) : Nat → Except MFault Mem
  | 0 => .ok []
  | fuel + 1 =>
    if hi ≤ lo then .ok [] else
    let n := min (hi - lo) (65536 - (lo + va) % 65536)
    match s.xlate ctx (fld (lo + va) 0 50) (BitVec.ofNat 64 (lo + va)) .rd with
    | .error f => .error f
    | .ok l =>
      if !(bitN l.ent 6) then .error ⟨9, none, BitVec.ofNat 64 (lo + va), 0, false⟩
      else if s.poisoned l.pa n then .error ⟨12, none, BitVec.ofNat 64 (lo + va), 0, false⟩ else
      match s.loadRange ctx va (lo + n) hi fuel with
      | .error f => .error f
      | .ok r => .ok (AMap.window s.mem l.pa n lo ++ r)

/-- Puts an n-byte little-endian value into an image. -/
def imgPut (m : Mem) (off n v : Nat) : Mem := memPut m off (leBytes v n)
/-- Puts values of w bytes one after another. -/
def imgPuts (m : Mem) (off w : Nat) (vs : List Nat) : Mem := memPut m off (vs.flatMap (fun v => leBytes v w))
/-- Reads an n-byte value of an image. -/
def imgNat (m : Mem) (off n : Nat) : Nat := memNat m off n

/-! ## Live maps (R295, R383) -/

/-- One range descriptor: none when it is malformed. -/
def liveRange (d : Nat) : Option (Bool × Nat × Nat) :=
  let acc := bitN d 63
  let ln := fld d 0 17
  let nl := fld d 20 18
  if fld d 38 25 ≠ 0 ∨ fld d 17 3 ≠ 0 ∨ nl = 0 ∨ 131072 < nl ∨ (if acc then 131072 else 65536) < ln + nl then none else some (acc, ln, ln + nl)

/-- Live map `idx` for code at pc; none when there is none or it is malformed (R383). -/
def State.liveMap (s : State) (ctx pc idx : Nat) : Option LiveMap :=
  match (s.ctx ctx).livemaps.find? (fun e => decide (e.1 ≤ pc) && decide (pc < e.2.1)) with
  | none => none
  | some (_, _, va, size) =>
    let rd := fun (a n : Nat) => match s.readVA ctx a n with
      | .ok bs => some (leNat bs)
      | .error _ => none
    match rd va 4 with
    | none => none
    | some m => if m ≤ idx then none else
      match rd (va + 4 + 4 * idx) 4 with
      | none => none
      | some off => match rd (va + off) 32 with
        | none => none
        | some h =>
          let n := fld h 104 8
          if fld h 112 144 ≠ 0 ∨ size < off + 32 + 8 * n then none else
          match rd (va + off + 32) (8 * n) with
          | none => none
          | some d =>
            let rs := (List.range n).map (fun i => liveRange (fld d (64 * i) 64))
            if rs.all Option.isSome then some ⟨fld h 0 64, fld h 64 8, fld h 72 16, fld h 88 16, rs.filterMap id⟩ else none

/-! ## Switch points (R290, R291, R450) -/

/-- The strand on berth b has reached its switch point: C stops before its unit, the queues stand at the cut (R291). -/
def State.reach (s : State) (b : Nat) (live : Option (Nat × LiveMap)) : State :=
  let s := ((s.writeback b).dropWait b).trace b 6 0 0 (s.berth b).unitPc 0 0
  s.updBerth b (fun B => { B with st := .save, pc := B.unitPc, pfx := none, cut := true,
                                  sw := { B.sw with before := B.st, live := live, cutWas := B.cut } })

/-- Whether a strand that the request has reached is at its switch point by itself: idle, stopped or halted, waiting, or running when it
need not wait for a hint. -/
def State.switchNow (s : State) (b : Nat) : Bool :=
  let B := s.berth b
  B.sw.asked && s.up (stackOf b) && B.pq.isNone && match B.st with
    | .idle => true
    | .wait => !(s.cBusy b) && (B.dbg.stp || B.haltF || (s.gangWait b).isNone)
    | .run => !(s.cBusy b) && (B.dbg.stp || B.haltF || B.sw.hintOver || (s.ctx B.ctx).cfault)
    | _ => false

/-- Whether every other member of gang g is at its switch point or waits on its barrier (R290). -/
def State.gangReady (s : State) (ctx g : Nat) : Bool :=
  (s.gang ctx g).members.all (fun m => (s.berth m).st == .save || ((s.berth m).sw.asked && s.gangWait m == some g && !(s.cBusy m)))

/-- Every strand of the context that is at its switch point switches; members that wait on their gang's barrier switch together. -/
def State.switchAll (s : State) (ctx : Nat) : State :=
  let s := ((s.ctxBerths ctx).filter s.switchNow).foldl (fun s b => s.reach b none) s
  let ms := (s.ctxBerths ctx).filter (fun b => match s.gangWait b with
    | some g => (s.berth b).st == .wait && s.gangReady ctx g
    | none => false)
  ms.foldl (fun s b => s.reach b none) s

/-- `plive map` (R223, R290, R383): a pre-emption that has reached the stack is taken after it, with what the map names. -/
def execPlive (s : State) : Out :=
  let s := s.writeback s.cur
  let B := s.me
  .next (if !B.sw.asked then s.done 8
  else match s.liveMap B.ctx B.unitPc.toNat s.imm32.toNat with
    | none => s.done 8
    | some m => (s.done 8).reach s.cur (some (s.imm32.toNat, m)))

/-- PREEMPT_PRE (R288, R289): the host writes `pre`. -/
def execPreemptPre (s : State) : Out :=
  let c := s.ctx s.arg.ctx
  .next (if !s.windows || c.pnd || c.svd || c.resuming then s
  else s.updCtx s.arg.ctx (fun c => { c with pnd := true, arrivedStk := 0, cfault := false }))

/-- PREEMPT_REQUEST_ARRIVE (R289, R290): the request reaches stack `arg.stk`, whose strands of the context are asked to switch. -/
def execPreemptRequestArrive (s : State) : Out :=
  let ctx := s.arg.ctx
  let k := s.arg.stk
  let c := s.ctx ctx
  .next (if !c.pnd || bitN c.arrivedStk k || !(s.up k) then s
  else
    let s := s.updCtx ctx (fun c => { c with arrivedStk := setBitN c.arrivedStk k true })
    let atOnce := fld c.pbnd.toNat 0 32 == 0
    let s := ((s.heldBerths ctx).filter (fun b => stackOf b == k)).foldl (fun s b => s.updBerth b (fun B => { B with
      sw := { B.sw with asked := true, hintOver := atOnce } })) s
    s.switchAll ctx)

/-- PREEMPT_HINT_BOUND_EXPIRY (R290): `ctx_pbnd` cycles have passed on the stack of berth `arg.b` without a `plive`. -/
def execPreemptHintBoundExpiry (s : State) : Out :=
  let B := s.berth s.arg.b
  .next (if !B.sw.asked || !(B.holds) then s
  else (s.updBerth s.arg.b (fun B => { B with sw := { B.sw with hintOver := true } })).switchAll B.ctx)

/-! ## The save (R291–R293, R296–R299) -/

/-- Sends of a record that a save takes as they stand: contributions in the ordered buffer (R315), and an operand that is held at its switch, which the
save moves into the overflow region (R293, R407). -/
def State.owed (s : State) (b : Nat) (r : QRec) : Nat :=
  let B := s.berth b
  if r.q = 2 ∧ r.opn = 3 then (B.obuf.filter (fun o => o.byRec == some r.idx)).length
  else if r.q = 2 ∧ r.opn = 4 then
    let here := fun (q : List MeetOp) => (q.filter (fun o => o.berth == b && !o.kept)).length
    ((s.ctx B.ctx).tags.map (fun t => here t.2.q0 + here t.2.q1)).foldl (· + ·) 0
  else 0

/-- Everything of the strand that must end before its save has ended (R291 steps 3–5). -/
def State.quiet (s : State) (b : Nat) : Bool :=
  let B := s.berth b
  B.st == .save && s.up (stackOf b) && B.recs.all (fun r => r.sent == s.owed b r && r.left == []) && !(s.rawBusy b) && s.atoms.all (·.berth != b) && s.contribs.all (·.req.berth != b)
    && s.mcs.all (·.berth != b) && s.rmsgs.all (·.berth != b) && B.unsent.all (fun p => !(s.paDead p.1))

/-- Whether the whole context can be saved now: the request has reached every stack, every strand is quiet, and no message, released copy
or unaccepted operand is on its way. -/
def State.canSave (s : State) (ctx : Nat) : Bool :=
  let c := s.ctx ctx
  c.pnd && (List.range 4).all (fun k => !(s.up k) || bitN c.arrivedStk k) && (s.heldBerths ctx).all s.quiet
    && s.deps.all (·.ctx != ctx) && s.tsubs.all (·.ctx != ctx) && s.meets.all (·.ctx != ctx)
    && c.launches.all (fun l => !l.resident || l.copies.all (fun e => !e.2.released || e.2.done))

/-- Registers that the save of a strand writes (R290, R292). -/
def State.liveRegs (s : State) (b : Nat) : LiveMap :=
  let B := s.berth b
  match B.sw.live with
  | some i => i.2
  | none => if B.sw.before = .idle && !B.dbg.stp then ⟨0, 0, 0, 0, []⟩ else ⟨2 ^ 64 - 1, 255, 65535, 65535, []⟩

/-- Berth state code of a strand record, in the order of R280 (R297). -/
def BState.code : BState → Nat
  | .free => 0
  | .place => 1
  | .idle => 2
  | .run => 3
  | .wait => 4
  | .save => 5
  | .restore => 6

/-- `dbg_st` (R446). -/
def Dbg.st (d : Dbg) : Nat := b2n d.dlw + b2n d.stp * 2 + b2n d.err * 8 + 2 ^ 5 * d.why + 2 ^ 8 * d.bcode

/-- A reduction cut in a group runs the group again from its first issue (R239). -/
def QRec.groupStart (r : QRec) : Nat :=
  if r.q = 1 ∧ 48 ≤ r.opn ∧ r.opn ≤ 53 then r.point - recIx r.r r.point 0 else r.point

/-- Reserved draws that a record has still to use when it goes on (R180, R238, R239). -/
def QRec.drawsLeft (r : QRec) : Nat :=
  let (k, grp) := drawUnit r.q r.opn r.r r.stream
  r.draws - k * (if grp then r.groupStart / recT0 r.r else r.point)

/-- The resume cursor of a record (R239, R297; places within its 64 bytes: log entry 25). -/
def QRec.cursor (r : QRec) : Nat :=
  let pt := fun (n : Nat) => recIx r.r n 0 + 2 ^ 16 * recIx r.r n 1 + 2 ^ 32 * recIx r.r n 2 + 2 ^ 48 * recIx r.r n 3
  let bound := (List.range 4).foldl (fun v k => match (r.slots.getD k ⟨0, 0, false, none⟩).bound with
    | some n => v + 2 ^ (16 * k) * (2 ^ 15 + 2 ^ 8 * fld (r.slots.getD k ⟨0, 0, false, none⟩).handle.toNat 0 5 + n % 256)
    | none => v) 0
  pt r.point + 2 ^ 64 * b2n (r.toks && r.pops != []) + 2 ^ 128 * bound + 2 ^ 192 * (r.drawsLeft % 2 ^ 64) + 2 ^ 256 * pt r.groupStart

/-- The strand record (R297, R315, R370, R450): the trap registers where a trap is recorded; registers where its spill map has them in memory. -/
def State.strandRecord (s : State) (b : Nat) : Mem :=
  let B := s.berth b
  let L := s.liveRegs b
  let full := B.sw.live.isNone && (B.sw.before != .idle || B.dbg.stp)
  let det := B.seg
  let m := imgPuts [] 0 8 [B.pc.toNat,
    B.sw.before.code + b2n full * 8 + 2 ^ 4 * (((B.sw.live.map (·.1)).getD 0) % 2 ^ 32) + 2 ^ 48 * (B.stage + 2 ^ 8 * B.lsl),
    (B.preds.toNat &&& (L.pm ||| 1)), B.rngk.toNat, B.rngc.toNat,
    (List.range 6).foldl (fun v f => v + 2 ^ (4 * f) * (B.fifo f).count) 0,
    B.gang.getD 0 + 2 ^ 8 * b2n B.gang.isSome + 2 ^ 9 * b2n B.arrivedPh.isSome, B.handle.toNat]
  let m := imgPuts m 0x40 8 ((List.range 3).map (fun q => (B.app.getD q 0).toNat + 2 ^ 32 * (B.qsn.getD q 0).toNat))
  let m := imgPuts m 0x58 8 ((List.range 3).map (fun q => 2 ^ 16 * (B.queue q).length))
  let m := imgPut m 0x70 8 B.dbg.st
  let m := if det.isOpen then imgPuts m 0x80 8 [1 + b2n det.disarmed * 2 + 2 ^ 32 * det.crc.toNat, det.addr.toNat, det.il.toNat + 2 ^ 32 * det.ix.toNat,
    det.is.toNat + 2 ^ 32 * det.bound.toNat, det.cycles.toNat] else m
  let m := imgPut m 0xA8 8 det.acc.toNat
  let m := imgPuts m 0x100 8 ((List.range 64).map (fun n => if AMap.get 0 B.spill n = inMemory then (B.getG (BitVec.ofNat 6 n)).toNat else 0))
  let m := imgPuts m 0x300 32 ((List.range 16).map (fun n => if bitN L.sm n then (B.getS (BitVec.ofNat 4 n)).toNat else 0))
  let m := imgPuts m 0x500 8 ((List.range 16).map (fun n => if bitN L.qm n then (B.getQ n).toNat else 0))
  let m := imgPuts m 0x580 8 ((List.range 64).map (fun n => (AMap.get 0 B.spill n).toNat))
  let m := if !B.trapped then m else imgPuts m 0x780 8 ((List.range 15).map (fun k => (B.trap.reg k).toNat))
  let m := imgPuts m 0x800 32 ((List.range 32).map (fun i => match B.obuf[i]? with
    | some o => o.batch % 2 ^ 32 + 2 ^ 64 * o.ptr.toNat + 2 ^ 128 * o.val.toNat + 2 ^ 192 * (if o.wide then 0 else 1) + 2 ^ 194 * o.scope + 2 ^ 196 * o.fn
    | none => 3 * 2 ^ 192))
  (List.range 3).foldl (fun m q =>
    let rs := B.queue q
    let m := imgPuts m (0x1000 + 0x400 * q) 4 (rs.flatMap (fun r => (Sys2Proof.recWords q r.opn r.r).map (·.toNat)))
    match rs.head? with
    | some r => if r.st = .waitTok ∧ !r.toks then m else imgPut m (0x1C00 + 64 * q) 64 r.cursor
    | none => m) m

/-- Saved ranges of a core, in bytes of the two stores (R292). -/
def State.savedSet (s : State) (c : Nat) (bs : List Nat) : List (Bool × Nat × Nat) :=
  let K := s.core c
  let live := bs.flatMap (fun b =>
    let B := s.berth b
    if B.sw.before = .idle && !B.dbg.stp then []
    else match B.sw.live with
      | some _ => (s.liveRegs b).ranges.map (fun r => (r.1, 64 * r.2.1, 64 * r.2.2))
      | none => [(false, 0, 0x400000), (true, 0, 0x800000)])
  let hull := bs.flatMap (fun b => ((s.berth b).recs.filter (fun r => r.live && r.st != .retired)).flatMap (fun r =>
    r.ranges.map (fun g => (g.spc == 2, g.lo / 64 * 64, (g.hi + 63) / 64 * 64))))
  let ring := K.rings.flatMap (fun r =>
    let R := r.2
    if !(ringEn R.desc) then [] else
    ((List.range (ringN R.desc)).filter (fun k => R.isFull k || (AMap.find R.owner k).isSome)).map (fun k =>
      (false, ringSlot R.desc k, ringSlot R.desc k + ringSz R.desc)))
  live ++ hull ++ ring

/-- One ring's state in a core record (places within its 256 bytes: log entry 25). -/
def Ring.image (m : Mem) (off : Nat) (r : Ring) : Mem :=
  let m := imgPuts m off 8 [r.desc.toNat, r.head + 2 ^ 8 * r.tail + 2 ^ 16 * r.claimed, r.grants]
  let m := imgPut m (off + 0x20) 32 (r.full.foldl (fun v p => v + 2 ^ p.1 * b2n p.2) 0)
  imgPut m (off + 0x40) 128 (r.owner.foldl (fun v p => v + 2 ^ (4 * p.1) * (p.2 % 16)) 0)

/-- One barrier: six words, then its error state (R297, R396). -/
def Bar.image (m : Mem) (off : Nat) (v : Bar) : Mem := imgPuts m off 4 [v.phase, lowI v.e 32, v.x, v.a, v.d, v.j]
/-- Its error state. -/
def Bar.errWord (v : Bar) : Nat := 2 ^ 63 * b2n v.ev + 2 ^ 40 * v.ecode + v.ephase

/-- One priority queue: entries, bitmap, insertion counter (R297). -/
def Pq.image (m : Mem) (off : Nat) (p : Pq) : Mem :=
  let m := imgPuts m off 4 (p.ents.flatMap (fun e => [e.key, e.pay, e.ins, 1]))
  let bytes := p.inv.foldl (fun (t : AMap Byte) e => if e.2 then AMap.set 0 t (e.1 / 8) (BitVec.ofNat 8 ((AMap.get 0 t (e.1 / 8)).toNat + 2 ^ (e.1 % 8))) else t) []
  let m := bytes.foldl (fun m e => AMap.set 0 m (0x20000 + off + e.1) e.2) m
  imgPut m (0x22000 + off) 8 p.ctr

/-- The part of a core record behind its images (R297). -/
def Core.tables (K : Core) : Mem :=
  let m := (List.range 4).foldl (fun m k => (AMap.get Pq.zero K.pqs k).image m (0xC00000 + 0x40000 * k)) []
  let m := (List.range 32).foldl (fun m d => (K.ring d).image m (0xD00000 + 256 * d)) m
  let m := (List.range 16).foldl (fun m n =>
    let v := AMap.get Bar.zero K.bars n
    imgPut (v.image m (0xD02000 + 32 * n)) (0xD02000 + 32 * n + 24) 8 v.errWord) m
  imgPut m 0xD02200 8 K.mcb.toNat

/-- The line bitmap of one store as image bytes (R297). -/
def lineBitmap (rs : List (Bool × Nat × Nat)) (acc : Bool) (bytes : Nat) : List Byte :=
  let mine := rs.filter (fun r => r.1 == acc)
  (List.range bytes).map (fun i => BitVec.ofNat 8 ((List.range 8).foldl (fun v j =>
    let a := 64 * (8 * i + j)
    v + 2 ^ j * b2n (mine.any (fun r => decide (r.2.1 < a + 64) && decide (a < r.2.2)))) 0))

/-- Writes the core record of core c (R292, R297). -/
def State.saveCore (s : State) (ctx c : Nat) (bs : List Nat) : Except MFault State :=
  let va := 0x02000000 + (s.ctx ctx).saveBase + 0x1000000 * c
  let K := s.core c
  let rs := s.savedSet c bs
  let images := rs.foldl (fun (o : Except MFault State) r => match o with
    | .error f => .error f
    | .ok s => if r.1 then s.saveRange ctx (0x400000 + va) r.2.1 r.2.2 K.acc (r.2.2 / 65536 + 2)
        else s.saveRange ctx va r.2.1 r.2.2 K.sp (r.2.2 / 65536 + 2)) (.ok s)
  match images with
  | .error f => .error f
  | .ok s => match s.saveRange ctx va 0xC00000 0xD10000 K.tables 32 with
    | .error f => .error f
    | .ok s =>
      let bm := memPut (memPut [] 0xD10000 (lineBitmap rs false 0x2000)) 0xD12000 (lineBitmap rs true 0x4000)
      s.saveRange ctx va 0xD10000 0xD16000 bm 4

/-- A window's partial slot in the exact form of R118 (places within its 64 bytes: log entry 25). -/
def Acc.image (a : Acc) : Nat :=
  lowI a.sum 320 + 2 ^ 320 * b2n a.nan + 2 ^ 321 * b2n a.pinf + 2 ^ 322 * b2n a.ninf + 2 ^ 323 * b2n a.allNegZero + 2 ^ 324 * b2n a.pz
    + 2 ^ 384 * (a.count % 2 ^ 64) + 2 ^ 448 * (a.comb % 2 ^ 64)

/-- The context header, gangs, windows, tags and their states (R296, R298, R396; membership masks and places: log entry 25). -/
def State.ctxImage (s : State) (ctx : Nat) : Mem :=
  let c := s.ctx ctx
  let res := c.launches.filter (·.resident)
  let lg := res.find? (·.det)
  let st := match lg with
    | some l => 1 + b2n l.rpl * 2 + b2n l.log.brk * 4
    | none => 0
  let m := imgPuts [] 0 8 [1, (s.shapeHash s.live).toNat, s.live, (lg.map (fun l => l.log.k)).getD 0, st, c.cki.toNat, c.savedBerths.length,
    (res[0]?.map Launch.seq).getD 0, (res[1]?.map Launch.seq).getD 0]
  let m := c.gangs.foldl (fun m g =>
    let v := g.2.bar
    let m := imgPuts (v.image m (0x1000 + 32 * g.1)) (0x1000 + 32 * g.1 + 24) 4 [g.2.members.length, 0x10000 + 16 * g.1]
    let m := imgPut m (0x4000 + 8 * g.1) 8 v.errWord
    imgPut m (0x10000 + 16 * g.1) 16 (g.2.members.foldl (fun x b => x + 2 ^ b) 0)) m
  let m := c.wins.foldl (fun m w => imgPuts m (0x3000 + 128 * w.1) 8 [w.2.base.toNat, w.2.n, w.2.op, b2n w.2.isOpen, w.2.stks]) m
  c.tags.foldl (fun m t => imgPuts m (0x20000 + 32 * t.1) 8 [b2n t.2.alloc, t.2.ctl.toNat, t.2.dest.toNat, t.2.delivered]) m

/-- Strands of a stage that the save writes (R299): they are all in SAVE. -/
def State.savedStrands (s : State) (ctx lsl stg : Nat) : Nat :=
  ((s.ctx ctx).savedBerths.filter (fun b => (s.berth b).lsl == lsl && (s.berth b).stage == stg)).length

/-- The launch state of stage i (R299). -/
def State.stageImage (s : State) (ctx : Nat) (l : Launch) (i : Nat) : Mem :=
  let q := l.stage i
  let total := ((List.range l.nst).map l.nTasks).foldl (· + ·) 0
  let m := imgPuts [] 0 8 ([q.head % l.cap i, q.tail % l.cap i, q.tail / l.cap i % 16384, q.age, s.savedStrands ctx (l.seq % 2) i, l.nTasks i]
    ++ (if i = 0 then [total, l.shares + 2 ^ 32 * l.quads] else []))
  q.slots.foldl (fun m t => imgPut m (0x1000 + 4 * t.1) 4
    (t.2.cnt % 2 ^ 16 + 2 ^ 16 * b2n t.2.committed + 2 ^ 17 * b2n t.2.granted + 2 ^ 18 * b2n t.2.ended)) m

/-- Runs f over a list while it succeeds. -/
def eachOk (xs : List α) (s : State) (f : State → α → Except MFault State) : Except MFault State :=
  xs.foldl (fun o x => match o with
    | .error e => .error e
    | .ok s => f s x) (.ok s)

/-- Writes the context-wide state (R293). -/
def State.saveContext (s : State) (ctx : Nat) : Except MFault State :=
  let c := s.ctx ctx
  let base := c.saveBase
  match s.saveRange ctx base 0 0x40000 (s.ctxImage ctx) 8 with
  | .error f => .error f
  | .ok s => match eachOk ((c.launches.filter (·.resident)).flatMap (fun l => (List.range l.nst).map (fun i => (l, i)))) s (fun s x =>
      s.saveAll ctx (0x200000 + base + 0x20000 * (x.1.seq % 2 * 8 + x.2)) 0x20000 (s.stageImage ctx x.1 x.2)) with
    | .error f => .error f
    | .ok s =>
      let open' := c.wins.filter (fun w => w.2.isOpen)
      eachOk open' s (fun s w =>
        let first := ((open'.takeWhile (fun v => v.1 != w.1)).map (fun v => v.2.n)).foldl (· + ·) 0
        eachOk (maskList w.2.stks) s (fun s k =>
          let m := w.2.parts.foldl (fun (m : Mem) p => if p.1 / 65536 = k then imgPut m (64 * (p.1 % 65536)) 64 p.2.image else m) []
          s.saveAll ctx (0x400000 + base + 0x200000 * k + 64 * first) (64 * w.2.n) m))

/-- Waiting operands move to the overflow region (R293, R407); none when it has no room. -/
def State.spillAll (s : State) (ctx : Nat) : Option State :=
  let ops := (s.ctx ctx).tags.flatMap (fun t => t.2.q0.map (fun o => (t.1, 0, o)) ++ t.2.q1.map (fun o => (t.1, 1, o)))
  let out := (ops.filter (fun x => x.2.2.spilled.isNone)).foldl (fun o x => o.bind (fun s => (s.spillOp ctx x.1 x.2.1 x.2.2).map (fun s =>
    if x.2.2.stored then s else s.accepted x.2.2.berth))) (some s)
  out.map (fun s => (ops.filter (fun x => x.2.2.stored)).foldl (fun s x => s.storeSlotFreed x.2.2.lock) s)

/-- Every store of a strand completes at its home (R291 step 4). -/
def State.drainStores (s : State) (b : Nat) : State :=
  let out := (s.berth b).unsent
  (s.letOut b out).updBerth b (fun B => { B with pend := [], recs := B.recs.map (fun r => { r with wr := [] }) })

/-- The poison marks of a core within a saved set. -/
def Core.keepPoison (K : Core) (rs : List (Bool × Nat × Nat)) : Core :=
  { K with spz := K.spz.filter (fun p => rs.any (fun r => !r.1 && decide (r.2.1 < 64 * p.1 + 64) && decide (64 * p.1 < r.2.2))),
           accz := K.accz.filter (fun p => rs.any (fun r => r.1 && decide (r.2.1 < 4096 * p.1 + 4096) && decide (4096 * p.1 < r.2.2))) }

/-- An accumulator place outside the saved ranges of a core for the registers of one of its two strands: the first half of a free kilobyte for the
lower berth, the second for the upper one. -/
def accRoom (rs : List (Bool × Nat × Nat)) (b : Nat) : Option Nat :=
  ((List.range 8192).find? (fun k => !(rs.any (fun r => r.1 && decide (r.2.1 < 1024 * k + 1024) && decide (1024 * k < r.2.2))))).map
    (fun k => 1024 * k + 512 * (b % 2))

/-- The spill map of a strand as its save leaves it (R294, R295): the registers of `mask` that are saved are parked where there is room, in the accumulator
store or in the bank of the berth itself, which the switch frees. -/
def State.spillMap (s : State) (b : Nat) (mask : Word) (acc : Bool) (rs : List (Bool × Nat × Nat)) : AMap Word :=
  let L := s.liveRegs b
  let room := if acc then accRoom rs b else none
  (List.range 64).foldl (fun m n =>
    if n = 0 ∨ !(bitN L.gm n) then m
    else AMap.set 0 m n (if !(mask.getLsbD n) then inMemory else if acc then (room.map (fun a => inAcc (a + 8 * n))).getD inMemory else inBank b n)) []

/-- Every strand of the context takes its spill map. -/
def State.spillMaps (s : State) (bs : List Nat) (mask : Word) (acc : Bool) : State :=
  let sets := bs.map (fun b => (b, s.spillMap b mask acc (s.savedSet (coreOf b) (bs.filter (fun x => coreOf x == coreOf b)))))
  sets.foldl (fun s x => s.updBerth x.1 (fun B => { B with spill := x.2 })) s

/-- The registers of a saved strand go to where its spill map parks them. -/
def State.parkRegs (s : State) (b : Nat) (B : Berth) : State :=
  (B.spill.filter (fun e => isParked e.2)).foldl (fun s e =>
    let v := B.getG (BitVec.ofNat 6 e.1)
    match bankOf e.2 with
    | some x => s.updBerth x (fun X => { X with bank := AMap.set (0, 0, 0) X.bank e.1 (b, e.1, v) })
    | none => s.updCore (coreOf b) (fun c => { c with acc := memPut c.acc (fld e.2.toNat 0 23) (leBytes v.toNat 8) })) s

/-- The save of a whole context in memory: operands, strands, cores, context (R291–R293). -/
def State.saveMem (s : State) (ctx : Nat) (bs : List Nat) : Except MFault (Option State) :=
  let base := (s.ctx ctx).saveBase
  match s.spillAll ctx with
  | none => .ok none
  | some s => match eachOk bs s (fun s b => s.saveAll ctx (0xC00000 + base + 0x10000 * b) 0x10000 (s.strandRecord b)) with
    | .error f => .error f
    | .ok s => match eachOk ((bs.map coreOf).eraseDups) s (fun s c => s.saveCore ctx c (bs.filter (fun b => coreOf b == c))) with
      | .error f => .error f
      | .ok s => match s.saveContext ctx with
        | .error f => .error f
        | .ok s => .ok (some s)

/-- The slots of open windows are freed, or reserved again (R293, R300). -/
def State.windowSlots (s : State) (ctx : Nat) (take : Bool) : State :=
  ((s.ctx ctx).wins.filter (fun w => w.2.isOpen)).foldl (fun s w => (maskList w.2.stks).foldl (fun s k =>
    s.updStack k (fun t => { t with redSlots := if take then t.redSlots + w.2.n else t.redSlots - w.2.n })) s) s

/-- CONTEXT_SAVE_COMPLETE (R292–R294, R372, R384): strands at their switch points switch; once all are quiet the save is written, the
berths are free, `svd` is set, and a context fault is reported. The registers of `arg.v` are parked, with `arg.flag` in the accumulator store. -/
def execContextSaveComplete (s : State) : Out :=
  let ctx := s.arg.ctx
  if !(s.ctx ctx).pnd then .next s else
  let s0 := s.switchAll ctx
  if !(s0.canSave ctx) then .next s0 else
  let bs := s0.heldBerths ctx
  let s1 := (bs.foldl (fun s b => s.drainStores b) (s0.updCtx ctx (fun c => { c with savedBerths := bs }))).spillMaps bs s.arg.v s.arg.flag
  .next (match s1.saveMem ctx bs with
  | .error f => if f.cls = 0 then s0 else s0.doubleFault ctx
  | .ok none => s0.doubleFault ctx
  | .ok (some s2) =>
    let cs := (bs.map coreOf).eraseDups
    let kept := bs.map (fun b => (b, s2.berth b))
    let cores := cs.map (fun c => (c, (s2.core c).keepPoison (s2.savedSet c (bs.filter (fun b => coreOf b == c)))))
    let s3 := kept.foldl (fun s x => s.parkRegs x.1 x.2) (bs.foldl (fun s b => s.freeBerth b) (s2.windowSlots ctx false))
    let s4 := s3.updCtx ctx (fun c => { c with
      savedState := kept, savedCores := cores, svd := true, svdOpen := false, pnd := false, cfault := false, arrivedStk := 0, pendFault := none,
      launches := c.launches.map (fun l => if l.st = .running then { l with st := .saved } else l) })
    match (s1.ctx ctx).pendFault with
    | some (code, b, seq, nres) => if bitN (s4.ctx ctx).flt.toNat 0 then s4 else s4.writeFlt ctx code b seq nres
    | none => s4)

/-! ## Resume (R300, R431) -/

/-- `ctx_flt` tells that a saved berth's core is not there; the saved state stays (R431). -/
def State.noBerth (s : State) (ctx : Nat) : State := s.writeFlt ctx 0xE9 0xFF (s.abortSeq ctx) true

/-- Whether a saved strand's core is absent or fenced. -/
def State.lostBerth (s : State) (ctx : Nat) : Bool := (s.ctx ctx).savedBerths.any (fun b => !(s.corePresent (coreOf b)))

/-- PREEMPT_RES (R288, R300, R373, R431): the host writes `res`. -/
def execPreemptRes (s : State) : Out :=
  let ctx := s.arg.ctx
  let c := s.ctx ctx
  .next (if !s.windows || !c.svd || c.svdOpen || c.resuming || (bitN c.flt.toNat 0 && bitN c.flt.toNat 2) then s
  else if s.lostBerth ctx then s.noBerth ctx
  else s.updCtx ctx (fun c => { c with resuming := true, rsd := false }))

/-- Reserves the saved berths that are FREE and whose core no other context uses, and writes out what is parked on their cores (R69, R294, R300 steps 1
and 2); while a drain is in progress none (R322). -/
def State.reserve (s : State) (ctx : Nat) : State :=
  if s.drn then s else (s.ctx ctx).savedBerths.foldl (fun s b =>
    let sib := s.berth (b ^^^ 1)
    if (s.berth b).st = .free ∧ (sib.st = .free ∨ sib.ctx = ctx) then
      (s.unpark (fun x _ => coreOf x == coreOf b)).updBerth b (fun B => { B with st := .restore, ctx := ctx })
    else s) s

/-! ### What the records hold (R296–R299); what their layout has no place for stays as it was kept (log entry 21) -/

/-- A priority queue of a core record. -/
def Pq.ofImage (m : Mem) (off : Nat) (kept : Pq) : Pq :=
  let es := (m.filter (fun e => off ≤ e.1 && e.1 < off + 0x20000 && e.1 % 16 == 12 && bitN e.2.toNat 0)).map (fun e =>
    let a := e.1 - 12
    (⟨imgNat m a 4, imgNat m (a + 4) 4, imgNat m (a + 8) 4⟩ : PqEnt))
  let inv := (m.filter (fun e => off + 0x20000 ≤ e.1 && e.1 < off + 0x22000)).flatMap (fun e =>
    ((List.range 8).filter (bitN e.2.toNat ·)).map (fun j => (8 * (e.1 - (off + 0x20000)) + j, true)))
  { kept with ents := es, inv := inv, ctr := imgNat m (off + 0x22000) 8 }

/-- A ring of a core record; what its filled and freed slots tell is kept. -/
def Ring.ofImage (m : Mem) (off : Nat) (kept : Ring) : Ring :=
  let w := imgNat m (off + 8) 8
  let full := imgNat m (off + 0x20) 32
  let own := imgNat m (off + 0x40) 128
  { kept with
    desc := BitVec.ofNat 64 (imgNat m off 8), head := fld w 0 8, tail := fld w 8 8, claimed := fld w 16 48, grants := imgNat m (off + 16) 8,
    full := ((List.range 256).filter (bitN full ·)).map (fun k => (k, true)),
    owner := ((List.range 256).filter (fun k => fld own (4 * k) 4 != 0)).map (fun k => (k, fld own (4 * k) 4)) }

/-- A barrier and its error state; what its arrivals tell is kept. -/
def Bar.ofImage (m : Mem) (off err : Nat) (kept : Bar) : Bar :=
  let w := fun (k : Nat) => imgNat m (off + 4 * k) 4
  let e := imgNat m err 8
  { kept with phase := w 0, e := sgnN (w 1) 32, x := w 2, a := w 3, d := w 4, j := w 5, ev := bitN e 63, ecode := fld e 40 8, ephase := fld e 0 32 }

/-- A core restored from its record (R300 step 2). -/
def State.loadCore (s : State) (ctx c : Nat) (kept : Core) : Except MFault State :=
  let va := 0x02000000 + (s.ctx ctx).saveBase + 0x1000000 * c
  match s.loadRange ctx va 0xC00000 0xD16000 32 with
  | .error f => .error f
  | .ok t =>
    let lines := fun (off n : Nat) => t.flatMap (fun e => if e.1 < off || off + n ≤ e.1 then [] else
      ((List.range 8).filter (fun j => bitN e.2.toNat j)).map (fun j => 64 * (8 * (e.1 - off) + j)))
    let img := fun (off : Nat) (ls : List Nat) => ls.foldl (fun (o : Except MFault Mem) a => match o with
      | .error f => .error f
      | .ok m => match s.loadRange ctx (off + va) a (a + 64) 2 with
        | .error f => .error f
        | .ok x => .ok (m ++ x)) (.ok [])
    match img 0 (lines 0xD10000 0x2000) with
    | .error f => .error f
    | .ok sp => match img 0x400000 (lines 0xD12000 0x4000) with
      | .error f => .error f
      | .ok acc =>
        let K := s.core c
        .ok (s.setCore c { K.zeroFor ctx with
          sp := sp, acc := acc, spz := kept.spz, accz := kept.accz, mcb := BitVec.ofNat 64 (imgNat t 0xD02200 8),
          rings := (List.range 32).foldl (fun m d => AMap.set Ring.zero m d (Ring.ofImage t (0xD00000 + 256 * d) (kept.ring d))) [],
          bars := (List.range 16).foldl (fun m n =>
            AMap.set Bar.zero m n (Bar.ofImage t (0xD02000 + 32 * n) (0xD02000 + 32 * n + 24) (AMap.get Bar.zero kept.bars n))) [],
          pqs := (List.range 4).foldl (fun m k => AMap.set Pq.zero m k (Pq.ofImage t (0xC00000 + 0x40000 * k) (AMap.get Pq.zero kept.pqs k))) [] })

/-- The issue point of four indices. -/
def recPoint (r : Rec) (v : Nat) : Nat :=
  fld v 0 16 + (r.t0.toNat + 1) * (fld v 16 16 + (r.t1.toNat + 1) * (fld v 32 16 + (r.t2.toNat + 1) * fld v 48 16))

/-- A record as its cursor tells: a reduction runs its group again from the first issue (R239). One that has made its last issue has no next one, and
stays so. -/
def QRec.resume (r : QRec) (v : Nat) : QRec :=
  let last := decide (recIssues r.r ≤ r.point)
  let r := { r with
    point := if last then r.point else recPoint r.r (fld v 0 64), toks := bitN v 64 || r.pops == [], gval := []
    slots := r.slots.zipIdx.map (fun (x : SlotUse × Nat) =>
      { x.1 with bound := if bitN v (143 + 16 * x.2) then some (fld v (128 + 16 * x.2) 8) else none }) }
  let r := { r with point := if last then r.point else recPoint r.r (fld v 256 64) }
  { r with draws := r.draws - r.drawsLeft + fld v 192 64 }

/-- The records of a strand: those of each queue as the record area has them, from the head, and the head's cursor; after its context fault each issue is
made again (R300, R373), while a fault that came at the switch stands, for its trap (R385). -/
def Berth.loadRecs (B : Berth) (m : Mem) (h : Bool) : List QRec :=
  B.recs.map (fun r =>
    if r.st = .retired then r else
    let i := (B.queue r.q).findIdx (fun x => x.idx == r.idx)
    let r := { r with r := recOf (fun k => imgNat m (0x1000 + 0x400 * r.q + 64 * i + 4 * k) 4) }
    let cut := i = 0 ∧ !(r.st = .waitTok ∧ !r.toks)
    let r := if cut then r.resume (imgNat m (0x1C00 + 64 * r.q) 64) else r
    if r.st = .faulted ∧ B.haltF ∧ !h then { r with st := if r.unbound && r.point == 0 then .waitTok else .started } else r)

/-- A token FIFO with as many tokens as its count tells. -/
def Fifo.resize (f : Fifo) (n : Nat) : Fifo := { f with done := f.done.take n ++ List.replicate (n - f.done.length) (f.npush, Tok.empty) }

/-- The ordered-atomic buffer of a strand record (R315). -/
def Berth.loadOrd (B : Berth) (m : Mem) : List OrdAt :=
  ((List.range 32).filter (fun i => fld (imgNat m (0x800 + 32 * i) 32) 192 2 != 3)).map (fun i =>
    let v := imgNat m (0x800 + 32 * i) 32
    let o := B.obuf.getD i ⟨0, 0, false, 0, 0, 0, false, none, B.tid, 0, B.clk⟩
    { o with fn := fld v 196 4, scope := fld v 194 2, wide := fld v 192 2 == 0, val := BitVec.ofNat 64 (fld v 128 64), ptr := BitVec.ofNat 64 (fld v 64 64),
             batch := fld v 0 32 })

/-- Berth states by their code. -/
def BState.ofCode : Nat → BState
  | 1 => .place
  | 2 => .idle
  | 3 => .run
  | 4 => .wait
  | 5 => .save
  | 6 => .restore
  | _ => .free

/-- A strand restored from its record (R300 steps 4–6, R373). Its next load reads memory as it then stands (R291). -/
def State.loadStrand (s : State) (ctx b : Nat) (kept : Berth) : Except MFault State :=
  match s.loadRange ctx ((s.ctx ctx).strandVa b) 0 0x2000 2 with
  | .error f => .error f
  | .ok m =>
    let w := fun (off : Nat) => BitVec.ofNat 64 (imgNat m off 8)
    let f := fun (off lo n : Nat) => fld (w off).toNat lo n
    let half := fun (off lo : Nat) => BitVec.ofNat 32 (f off lo 32)
    let spill := (List.range 64).foldl (fun t n => AMap.set 0 t n (w (0x580 + 8 * n))) []
    let g := (List.range 64).foldl (fun g n => if n ≠ 0 ∧ bitN (w (0x580 + 8 * n)).toNat 63 then AMap.set 0 g n (w (0x100 + 8 * n)) else g) []
    let sr := (List.range 16).foldl (fun t n => AMap.set 0 t n (BitVec.ofNat 256 (imgNat m (0x300 + 32 * n) 32))) []
    let qr := (List.range 16).foldl (fun t n => AMap.set 0 t n (w (0x500 + 8 * n))) []
    let T := fun (k : Nat) => w (0x780 + 8 * k)
    let trap : TrapRegs := if kept.trapped then ⟨T 0, T 1, T 2, T 3, T 4, T 5, T 6, T 7, T 8, T 9, T 10, T 11, T 12, T 13, T 14⟩ else kept.trap
    let dbg : Dbg := { kept.dbg with dlw := bitN (w 0x70).toNat 0, stp := bitN (w 0x70).toNat 1, err := bitN (w 0x70).toNat 3, why := f 0x70 5 3, bcode := f 0x70 8 8 }
    let now := s.berth b
    let mine := now.lastOcc == some ctx
    let h := trap.tcause.getLsbD 11
    let seg : Seg := ⟨bitN (w 0x80).toNat 0, bitN (w 0x80).toNat 1, half 0x80 32, w 0x88, half 0x90 0, half 0x90 32, half 0x98 0, half 0x98 32, w 0xA0,
      half 0xA8 0⟩
    let B := { kept with
      st := BState.ofCode (f 0x08 0 3), stage := f 0x08 48 8, lsl := f 0x08 56 8, pc := w 0, rngk := w 0x18, rngc := w 0x20, g := g, s := sr, q := qr,
      fifos := kept.fifos.zipIdx.map (fun (x : Fifo × Nat) => x.1.resize (f 0x28 (4 * x.2) 4)), gang := if bitN (w 0x30).toNat 8 then some (f 0x30 0 8) else none,
      arrivedPh := if bitN (w 0x30).toNat 9 then some (kept.arrivedPh.getD 0) else none, handle := half 0x38 0,
      app := [0, 1, 2].map (fun k => half (0x40 + 8 * k) 0), qsn := [0, 1, 2].map (fun k => half (0x40 + 8 * k) 32), seg := seg, spill := spill, trap := trap,
      obuf := kept.loadOrd m, recs := kept.loadRecs m h, cut := dbg.stp || (kept.sw.cutWas && h), haltF := false, dbg := dbg, pfx := none, answer := none,
      bank := [], clk := AMap.put kept.clk 0 (s.ev + 1), sw := ⟨false, false, none, .free, false⟩, issueAge := now.issueAge, lastIssue := now.lastIssue,
      xAge := now.xAge, xLast := now.xLast, yielded := false, stalled := false, lastOcc := some ctx, profAt := if mine then now.profAt else s.ev,
      profStop := now.profStop, awaited := if mine then now.awaited else [] }
    .ok (s.setBerth b (B.setPreds (w 0x10)))

/-- The stage queues of a launch from their states (R299): the part of `head` and `tail` that the header holds. -/
def StageQ.ofImage (q : StageQ) (m : Mem) (cap : Nat) : StageQ :=
  let w := fun (k : Nat) => imgNat m (8 * k) 8
  { q with
    head := q.head - q.head % cap + w 0, tail := q.tail - q.tail % (16384 * cap) + cap * w 2 + w 1, age := w 3
    slots := q.slots.map (fun t =>
      let v := imgNat m (0x1000 + 4 * t.1) 4;
      (t.1, { t.2 with cnt := fld v 0 16, committed := bitN v 16, granted := bitN v 17, ended := bitN v 18 })) }

/-- A reduction slot from its exact form. -/
def Acc.ofImage (v : Nat) : Acc :=
  { sum := sgnN (fld v 0 320) 320, nan := bitN v 320, pinf := bitN v 321, ninf := bitN v 322, allNegZero := bitN v 323, pz := bitN v 324,
    count := fld v 384 64, comb := fld v 448 64 }

/-- Gangs, windows, tags, and what the header holds, from the context's image (R298, R396); the partial slots follow. -/
def Ctx.ofImage (c : Ctx) (m : Mem) : Ctx :=
  let nat := imgNat m
  { c with
    cki := BitVec.ofNat 64 (nat 0x28 8)
    gangs := c.gangs.map (fun g => (g.1, (⟨Bar.ofImage m (0x1000 + 32 * g.1) (0x4000 + 8 * g.1) g.2.bar,
      g.2.members.filter (fun b => bitN (nat (0x10000 + 16 * g.1) 16) b)⟩ : Gang)))
    wins := c.wins.map (fun w =>
      let x := fun (k : Nat) => nat (0x3000 + 128 * w.1 + 8 * k) 8;
      (w.1, { w.2 with base := BitVec.ofNat 64 (x 0), n := x 1, op := x 2, isOpen := x 3 != 0, stks := x 4 }))
    tags := c.tags.map (fun t =>
      let x := fun (k : Nat) => nat (0x20000 + 32 * t.1 + 8 * k) 8;
      (t.1, { t.2 with alloc := x 0 != 0, ctl := BitVec.ofNat 64 (x 1), dest := BitVec.ofNat 64 (x 2), delivered := x 3 }))
    launches := c.launches.map (fun l => if l.resident && l.det then { l with log := { l.log with k := nat 0x18 8, brk := bitN (nat 0x20 8) 2 } } else l) }

/-- The context-wide state is restored (R300 step 3). -/
def State.loadContext (s : State) (ctx : Nat) : Except MFault State :=
  let base := (s.ctx ctx).saveBase
  match s.loadRange ctx base 0 0x40000 8 with
  | .error f => .error f
  | .ok m =>
    let s := s.updCtx ctx (·.ofImage m)
    let stages := ((s.ctx ctx).launches.filter (·.resident)).flatMap (fun l => (List.range l.nst).map (fun i => (l.seq % 2, i, l.cap i)))
    match eachOk stages s (fun s x => match s.loadRange ctx (0x200000 + base + 0x20000 * (x.1 * 8 + x.2.1)) 0 0x20000 4 with
      | .error f => .error f
      | .ok m => .ok (s.updLaunch ctx x.1 (fun l =>
          let l := l.updStage x.2.1 (fun q => q.ofImage m x.2.2)
          if x.2.1 = 0 then { l with shares := imgNat m 56 4, quads := imgNat m 60 4 } else l))) with
    | .error f => .error f
    | .ok s =>
      let open' := (s.ctx ctx).wins.filter (fun w => w.2.isOpen)
      eachOk open' s (fun s w =>
        let first := ((open'.takeWhile (fun v => v.1 != w.1)).map (fun v => v.2.n)).foldl (· + ·) 0
        eachOk (maskList w.2.stks) s (fun s k => match s.loadRange ctx (0x400000 + base + 0x200000 * k + 64 * first) 0 (64 * w.2.n) (64 * w.2.n / 65536 + 2) with
          | .error f => .error f
          | .ok m => .ok (s.setWin ctx w.1 { (s.ctx ctx).win w.1 with parts := ((s.ctx ctx).win w.1).parts.map (fun p =>
              if p.1 / 65536 = k then (p.1, Acc.ofImage (imgNat m (64 * (p.1 % 65536)) 64)) else p) })))

/-- Whether the slots of the context's open windows can be reserved again. -/
def State.windowRoom (s : State) (ctx : Nat) : Bool :=
  let ws := (s.ctx ctx).wins.filter (fun w => w.2.isOpen)
  (List.range 4).all (fun k => decide ((s.stack k).redSlots + ((ws.filter (fun w => bitN w.2.stks k)).map (fun w => w.2.n)).foldl (· + ·) 0 ≤ 32768))

/-- RESUME_COMPLETE (R300): the saved berths are reserved as they become FREE; once all are, cores and strands are restored and go on. -/
def execResumeComplete (s : State) : Out :=
  let ctx := s.arg.ctx
  let c := s.ctx ctx
  if !c.resuming then .next s else
  if s.lostBerth ctx then .next ((c.savedBerths.foldl (fun s b => if (s.berth b).st = .restore ∧ (s.berth b).ctx = ctx then s.freeBerth b else s) s
    |>.updCtx ctx (fun c => { c with resuming := false })).noBerth ctx) else
  let s0 := s.reserve ctx
  if s0.drn || !(c.savedBerths.all (fun b => (s0.berth b).st == .restore && (s0.berth b).ctx == ctx)) || !(s0.windowRoom ctx) then .next s0 else
  .next (match (match eachOk c.savedCores s0 (fun s x => s.loadCore ctx x.1 x.2) with
    | .error f => Except.error f
    | .ok s => s.loadContext ctx) with
  | .error f => if f.cls = 0 then s0 else s0.doubleFault ctx
  | .ok s1 => match eachOk c.savedState s1 (fun s x => s.loadStrand ctx x.1 x.2) with
    | .error f => if f.cls = 0 then s0 else s0.doubleFault ctx
    | .ok s2 =>
      ((s2.windowSlots ctx true).updCtx ctx (fun c => { c with
        resuming := false, svd := false, rsd := true, stopFetch := false, savedBerths := [], savedState := [], savedCores := [],
        launches := c.launches.map (fun l => if l.st = .saved then { l with st := .running } else l) })).fetchOn ctx
      |>.settleBars ctx)

end Sys2Proof.Machine
end

