-- ==== Sys2Proof/Machine/Raw.lean ====
section
/-! DEFINITION. The raw packet port (R182–R187, R439). -/

namespace Sys2Proof.Machine

/-- Window size in bytes and base of `ctx_raw` (R182). -/
def Ctx.rawSize (c : Ctx) : Nat := 2 ^ 20 * fld c.raw.toNat 0 12
def Ctx.rawBase (c : Ctx) : Nat := 2 ^ 20 * fld c.raw.toNat 20 26

/-- A granule where R182 lets the window lie: in device memory of a stack of the shape. -/
def State.rawOk (s : State) (pa : Nat) : Bool := decide (pa < 2 ^ 45) && !(s.paBad pa)

/-- The tag that the next packet of core c takes (R184). -/
def Core.freeTag (c : Core) : Option Nat := (List.range 8).find? (fun t => !(AMap.get RawTag.zero c.raw t).busy)

/-- Sends a packet: its operand checks, a home that has been fenced, its tag, and what its issue does (R183, R184, R424 step 5). -/
def State.rawSend (s : State) (d a b : GReg) (write : Bool) : Out :=
  let c := s.ctx s.myCtx
  let off := fld (s.G a).toNat 0 32
  let m := fld (s.G a).toNat 32 32
  let x := (s.G b).toNat
  if c.rawSize = 0 ∨ off % 32 ≠ 0 ∨ c.rawSize ≤ off ∨ (!write && m != 0) then .next (s.illegal 0 (s.G a))
  else if x % 32 ≠ 0 ∨ 0x400000 ≤ x then .next (s.illegal 0 (s.G b))
  else if !(s.rawOk (c.rawBase + off)) then .fault .rawWindow
  else if s.paFenced (c.rawBase + off) then .next (s.trapC 8 (s.G a) 5)
  else .next (s.ranged 1 x 32 (!write) (fun s =>
    match s.myCore.freeTag with
    | none => s.stall
    | some t =>
      let data := if write then s.spBytes s.cur x 32 else []
      let s := if write && s.myCore.spPoison x 32 then s.sawPoison s.cur 0 else s
      let other := s.cur ^^^ 1
      let s := s.updCore (coreOf s.cur) (fun k =>
        { k with raw := AMap.put k.raw t ⟨true, s.cur, write, c.rawBase + off, m, x, data, s.ev, true⟩ })
      let s := s.updBerth other (fun B => { B with rawBack := AMap.erase B.rawBack t })
      ((s.upd (fun B => { B with rawBack := AMap.erase B.rawBack t })).setG d (BitVec.ofNat 64 t)).done 4))

/-- `rpw` (R183, R184): the 32 bytes are read at issue. -/
def execRpw (d a b : GReg) (s : State) : Out := (s.writeback s.cur).rawSend d a b true
/-- `rpr` (R183, R184). -/
def execRpr (d a b : GReg) (s : State) : Out := (s.writeback s.cur).rawSend d a b false

/-- `rpt` (R183, R187, R381): waits for the packet this berth last issued on the tag since its task started, and returns the status of the packet that it
has waited for; without one it returns 0 at once. What the packet landed is then seen. -/
def execRpt (d a : GReg) (s : State) : Out :=
  let s := s.writeback s.cur
  let v := s.G a
  let t := v.toNat
  let back := fun (st : Word) => ((s.upd (fun B => { B with landing := B.landing.filter (fun l => l.1 != t) })).setG d st).done 4
  .next (match s.me.answer with
  | some st => back st
  | none =>
    if (s.ctx s.myCtx).rawSize = 0 ∨ 8 ≤ t then s.illegal 0 v
    else
      let r := AMap.get RawTag.zero s.myCore.raw t
      if r.busy && r.berth == s.cur && r.mine then s.waitFor (.raw t)
      else back (BitVec.ofNat 64 (AMap.get 0 s.me.rawBack t - 1)))

/-- Counts a correctable or uncorrectable error of stack k (R439). -/
def State.countEcc (s : State) (k : Nat) (ue : Bool) : State :=
  s.updStack k (fun t => if ue then { t with ucc := min 65535 (t.ucc + 1) } else { t with ecc := min 65535 (t.ecc + 1) })

/-- Merges the bytes whose mask bit is set (R186). -/
def maskMerge (old new : List Byte) (m : Nat) : List Byte :=
  (List.range 32).map (fun i => if bitN m i then new.getD i 0 else old.getD i 0)

/-- A packet whose home stack has been fenced: its tag is free, and its strand, while resident, traps at the `rpt` that waits for it or at
its next unit (R424 step 5). -/
def State.rawLost (s : State) (c t : Nat) (r : RawTag) : State :=
  let B := s.berth r.berth
  if r.mine ∧ (B.pfx.isSome ∨ s.cBusy r.berth) then s else
  let s := s.updCore c (fun k => { k with raw := AMap.put k.raw t { r with busy := false } })
  if !r.mine then s else
  let off := r.pa - (s.ctx B.ctx).rawBase
  ((s.writeback r.berth).dropWait r.berth).trapAt r.berth 0x80 false B.unitPc (BitVec.ofNat 64 off) 5 0 0

/-- RAW_PACKET_COMPLETE (R184–R187, R424, R439): the packet on tag `arg.tag` of core `arg.core` is performed and completes, after every
earlier packet of its core to its granule. `arg.ecc` is the number of wrong symbols its read finds: 0, 1, or more. -/
def execRawPacketComplete (s : State) : Out :=
  let c := s.arg.core
  let t := s.arg.tag
  let K := s.core c
  let r := AMap.get RawTag.zero K.raw t
  if !r.busy || K.raw.any (fun x => x.2.busy && x.2.pa == r.pa && decide (x.2.order < r.order)) || s.paDead r.pa then .next s else
  if s.paFenced r.pa then .next (s.rawLost c t r) else
  let part := r.write && r.mask != 0 && r.mask != 0xFFFFFFFF
  let reads := !r.write || part
  let ce := reads && s.arg.ecc == 1
  let ue := reads && decide (2 ≤ s.arg.ecc)
  let old := memBytes s.mem r.pa 32
  let s1 := if ce then s.countEcc (s.home r.pa) false else s
  let s1 :=
    if r.write then
      (if r.mask = 0 ∨ ue then s1
       else if part then ({ s1 with mem := memPut s1.mem r.pa (maskMerge old r.data r.mask) } : State).forget (ovPut [] r.pa r.data)
       else s1.storeAt r.pa r.data)
    else
      let bytes := if ue then (List.range 32).map (Config.uncorrected s.ev) else old
      let before := (List.range 32).foldl (fun m i => AMap.put m (r.dst + i) (AMap.get 0 K.sp (r.dst + i))) []
      let s2 := s1.updCore c (fun k => k.spWrite r.dst bytes false)
      if !r.mine then s2 else s2.updBerth r.berth (fun B => { B with landing := B.landing ++ [(t, before)] })
  let n := (K.cseq + 1) % 256
  let status := 1 + b2n part * 2 + b2n ce * 4 + b2n ue * 8 + 2 ^ 8 * n
  let s1 := s1.updCore c (fun k => { k with cseq := n, raw := AMap.put k.raw t { r with busy := false } })
  .next (if !r.mine then s1 else s1.updBerth r.berth (fun B => { B with
    rawBack := AMap.set 0 B.rawBack t (status + 1), answer := if B.waiting = .raw t then some (BitVec.ofNat 64 status) else B.answer }))

end Sys2Proof.Machine
end

