-- ==== Sys2Proof/Machine/Package.lean ====
section
/-! DEFINITION. The package as a whole: boot and self-test (R20, R323–R325, R334–R336, R424, R425), links and heartbeats (R418–R422),
errors in the stores (R438–R440), power caps (R340), attestation, debug tokens and the life cycle (R337–R339), and the quarantine list
(R434). -/

namespace Sys2Proof.Machine

/-! ## Boot and self-test -/

/-- Stack k fails at boot (R20): it is fenced, which `svc_sus` shows; R421 states no cause code for it, so that one is a free value (log entry 115). -/
def State.bootFence (s : State) (k : Nat) : State := s.fence k (Config.unstated s.ev 3 % 256)

/-- `gen` counts a change of `topo_host` that no commit has counted (R23). -/
def State.regen (s t : State) : State := if s.topo 7 == t.topo 7 then t else { t with gen := (t.gen + 1) % 256 }

/-- Header and body of a firmware image, as its length field gives the body (R336). -/
def imageWhole (img : List Byte) : List Byte := img.take (4096 + leNat ((img.drop 8).take 8))

/-- Whether an image passes verification (R336). -/
def Stack.imageOk (t : Stack) (img : List Byte) : Bool :=
  let w := imageWhole img
  let key := (w.take 1328).drop 16
  let sig := (w.take 3748).drop 1328
  sha3 key == t.vendorHash && Config.mldsaVerify key (sha3 (w.take 1328 ++ w.drop 4096)) sig
    && decide (t.rollback ≤ leNat ((w.drop 4).take 4))

/-- STACK_POWER_UP (R334–R336): the rail of stack `arg.stk` comes up and its ROM verifies image `arg.img`; a stack whose image fails is
fenced and powered down, else its self-test begins, its host port, if it has one, is up, and the instances agree on its links, which are (R27). -/
def execStackPowerUp (s : State) : Out :=
  let k := s.arg.stk
  let t := s.stack k
  .next (if !(s.unfenced k) || t.power || t.image != [] then s
  else if t.imageOk s.arg.img then
    s.regen (s.setStack k { t with power := true, image := sha3 (imageWhole s.arg.img), tst := true, tested := false, clk := 900 }).ports.agreeTopo
  else s.regen ((s.setStack k { t with tst := false }).bootFence k).ports.agreeTopo)

/-- The end of a boot self-test (R20, R324): with at least 12 cores left the stack is ready to form the first view or to join, else it is
fenced and powered down. -/
def State.bootTest (s : State) (k : Nat) (pass : Bool) (cores : Nat) : State :=
  let t := s.stack k
  let present := t.fuseCores &&& cores
  if pass && decide (12 ≤ popN present 16) then
    let s1 := s.setStack k { t with tst := false, tested := true, present := present }
    if s.vnum = 0 then { s1 with props := AMap.put s1.props k ⟨1, 2 ^ k, 0, 0, 0, 0, 0, false⟩ } else s1.drain
  else
    let s1 := ((s.setStack k { t with tst := false, failed := true, power := false, gates := 7, present := present }).bootFence k).ports
    (s.regen s1.agreeTopo).drain

/-- Every stack reads as fenced (R424). -/
def State.allFenced (s : State) : State :=
  let t : State := ((List.range 4).filter s.unfenced).foldl (fun (s : State) j => s.updStack j (fun t => { t with fenced := true, failed := true }))
    { s with live := 0, shed := 0, props := [] }
  s.regen t.ports.agreeTopo

/-- SELF_TEST_COMPLETE (R20, R323, R324, R327, R424, R425, R434): the self-test of stack `arg.stk` ends with `arg.flag` for a pass; a boot test
leaves the cores of mask `arg.n`. -/
def execSelfTestComplete (s : State) : Out :=
  let k := s.arg.stk
  let t := s.stack k
  .next (if !(s.takesPart k) || !t.power then s
  else if t.tst then s.bootTest k s.arg.flag s.arg.n
  else if t.tested then s
  else if bitN s.shed k then
    if s.arg.flag then ((s.memTest k).setStack k { t with tested := true }).reconsider.drain
    else ({ s.setStack k { t with failed := true } with wantFence := setBitN s.wantFence k true } : State).reconsider
  else if bitN s.live k then
    if s.arg.flag then
      { s.setStack k { t with tested := true, halted := false } with props := AMap.put s.props k ⟨s.vnum + 1, 2 ^ k, s.shed, 0, 0, 0, 0, true⟩ }
    else s.allFenced
  else s)

/-- STACK_POWER_LOSS (R420): stack `arg.stk` loses its rail or clock and falls silent. -/
def execStackPowerLoss (s : State) : Out := .next (s.updStack s.arg.stk (fun t => { t with power := false }))

/-- FENCED_STACK_POWER_DOWN (R424 step 3): the fenced stack `arg.stk` closes its own gates and powers its rail down. -/
def execFencedStackPowerDown (s : State) : Out :=
  .next (s.updStack s.arg.stk (fun t => if t.fenced then { t with power := false, gates := 7 } else t))

/-- LOCKSTEP_MISMATCH (R422): the instance of stack `arg.stk` reports itself and halts. -/
def execLockstepMismatch (s : State) : Out :=
  let k := s.arg.stk
  .next (if !(s.works k) then s else (s.suspect k k 0xDD).updStack k (fun t => { t with halted := true }))

/-! ## Links (R418–R420) -/

/-- Credits of a class (R29). -/
def credits (c : Nat) : Nat := [64, 64, 32, 16, 8, 16].getD c 0

/-- Two stacks with a link between them that is up at both ends. -/
def State.linked (s : State) (a b : Nat) : Bool :=
  a != b && s.linkState a (portTo a b) == 1 && s.linkState b (portTo b a) == 1

/-- The sender's part of stack k for a destination and class. -/
def State.sender (s : State) (k dst cls : Nat) : Sender := AMap.get Sender.zero (s.stack k).send (8 * dst + cls)
def State.setSender (s : State) (k dst cls : Nat) (v : Sender) : State :=
  s.updStack k (fun t => { t with send := AMap.put t.send (8 * dst + cls) v })

/-- Sends one message of a class, if a credit is left (R29, R418). -/
def State.sendMsg (s : State) (k dst cls : Nat) : State :=
  let S := s.sender k dst cls
  if credits cls ≤ S.unacked.length then s
  else s.setSender k dst cls { S with next := (S.next + 1) % 65536, unacked := S.unacked ++ [S.next] }

/-- FABRIC_MESSAGE_RECEIVE (R419): message `arg.msg` from stack `arg.src` arrives at stack `arg.dst`. One that bears `ack` is the event
FABRIC_ACK_RECEIVE. A halted instance is silent (R422). -/
def execFabricMessageReceive (s : State) : Out :=
  let x := s.arg
  let m := x.msg
  let t := s.stack x.dst
  let key := 8 * x.src + m.cls
  let E := AMap.get 0 t.recv key
  let q := m.seq
  let ack := fun (s : State) (n : Nat) => { s with lacks := s.lacks ++ [(x.dst, x.src, m.cls, n)] }
  .next (if !(s.linked x.src x.dst) || !t.power || t.halted then s
  else if !m.crcOk || !(m.fits x.src x.dst) then s.setStack x.dst { t with lrec := setBitN t.lrec x.src true }
  else if m.ack then s
  else if q = E then ack (s.setStack x.dst { t with recv := AMap.put t.recv key ((E + 1) % 65536) }) E
  else if lowI ((E : Int) - (q : Nat)) 16 ≤ 32768 then ack s (lowI ((E : Int) - 1) 16)
  else if bitN t.lrec x.src || !(s.works x.dst) then s
  else s.suspect x.dst x.src 0xBB)

/-- FABRIC_ACK_RECEIVE (R418): the acknowledgement of number `arg.seq`, class `arg.cls`, from stack `arg.src` reaches the sender, stack
`arg.dst`: every message up to it is acknowledged. -/
def execFabricAckReceive (s : State) : Out :=
  let x := s.arg
  let m := (x.src, x.dst, x.cls, x.seq)
  let S := s.sender x.dst x.src x.cls
  .next (if !(s.lacks.contains m) then s
  else
    let s := { s with lacks := s.lacks.erase m }
    if !(S.unacked.contains x.seq) || !(s.stack x.dst).power then s
    else
      let left := (S.unacked.dropWhile (fun n => n != x.seq)).drop 1
      s.setSender x.dst x.src x.cls { S with unacked := left, rtx := S.rtx - (S.unacked.length - left.length) })

/-- ACK_TIMEOUT (R418): `tack` has passed for the messages of class `arg.cls` from stack `arg.src` to stack `arg.dst`: they are sent again
once; if one of those is still unacknowledged, the sender reports the destination. -/
def execAckTimeout (s : State) : Out :=
  let x := s.arg
  let S := s.sender x.src x.dst x.cls
  .next (if S.unacked = [] ∨ !(s.works x.src) then s
  else if S.rtx = 0 then s.setSender x.src x.dst x.cls { S with rtx := S.unacked.length }
  else s.suspect x.src x.dst 0xEB)

/-- LINK_RECOVERY_EXPIRY (R419): the recovery of stack `arg.stk` on its link with stack `arg.src` ends. -/
def execLinkRecoveryExpiry (s : State) : Out :=
  .next (s.updStack s.arg.stk (fun t => { t with lrec := setBitN t.lrec s.arg.src false }))

/-- HEARTBEAT_TIMER (R420): the instance of stack `arg.stk` sends a heartbeat to every other live instance. -/
def execHeartbeatTimer (s : State) : Out :=
  let k := s.arg.stk
  .next (if !(s.works k) || s.vnum == 0 then s
  else ((maskList s.live).filter (fun j => j != k)).foldl (fun s j => s.sendMsg k j 4) s)

/-! ## Errors in the stores (R438–R440) -/

/-- An uncorrectable error of a granule: 0xFF in every byte, poisoned (R439). -/
def State.spoil (s : State) (pa : Nat) : State := (s.storeAt (pa / 32 * 32) (List.replicate 32 0xFF)).setPoison (pa / 32 * 32) 32

/-- PATROL_SCRUB (R438, R439): the controller reads the granule at `arg.pa` and finds `arg.ecc` wrong symbols: one is corrected, more
cannot be. R439 gives an ordinary read that meets an error the same effect before its bytes are delivered, and the write back comes before any other
access: it is this event just before the read (log entry 116). -/
def execPatrolScrub (s : State) : Out :=
  let h := s.home s.arg.pa
  .next (if bitN s.arg.pa 45 || s.paBad s.arg.pa || !(s.up h) || s.arg.ecc == 0 then s
  else if s.arg.ecc = 1 then s.countEcc h false
  else (s.spoil s.arg.pa).countEcc h true)

/-- Bytes that an uncorrectable error leaves in place (log entry 4). -/
def wrongBytes (ev n : Nat) : List Byte := (List.range n).map (Config.uncorrected ev)

/-- ON_DIE_UNCORRECTABLE_ERROR (R432, R440). -/
def execOnDieUncorrectableError (s : State) : Out :=
  .next (match s.arg.err with
  | .cacheClean _ => s
  | .cacheDirty ctx pa => (s.spoil pa).teardown ctx 0xFC [pa / 65536]
  | .scratch c line => s.updCore c (fun k =>
      { k with sp := memPut k.sp (64 * line) (wrongBytes s.ev 64), spz := AMap.set false k.spz line true })
  | .acc c tile => s.updCore c (fun k =>
      { k with acc := memPut k.acc (4096 * tile) (wrongBytes s.ev 4096), accz := AMap.set false k.accz tile true })
  | .matching ctx => s.teardown ctx 0xF5 []
  | .reduction ctx => s.teardown ctx 0xF5 []
  | .unit b site =>
    let B := s.berth b
    if B.st = .free then s
    else (s.haltAt b (0xC0 + site % 4) (decide (site % 4 ≠ 0)) 0 0 0 0).ctxFault B.ctx (0xC0 + site % 4) b (s.launchOf b).seq true
  | .pqueue c => match (s.core c).held with
    | none => s
    | some n => s.ctxFault n 0xC6 0xFF (s.abortSeq n) true)

/-- DV_ECC_CLEAR (R439). -/
def execDvEccClear (s : State) : Out :=
  .next (if !s.portUp then s else { s with stks := s.stks.map (fun k => (k.1, { k.2 with ecc := 0 })) })
/-- DV_UCC_CLEAR (R439). -/
def execDvUccClear (s : State) : Out :=
  .next (if !s.portUp then s else { s with stks := s.stks.map (fun k => (k.1, { k.2 with ucc := 0 })) })

/-! ## Power caps (R340) -/

/-- The cap of one stack at reset. -/
def Shape.capW : Shape → Nat
  | .sx4 => 70
  | .sx2 => 72
  | .sx1 => 75

/-- DV_PCAP_WRITE: a cap above the reset value becomes the reset value. -/
def execDvPcapWrite (s : State) : Out :=
  .next (if !s.portUp then s
  else { s with pcap := BitVec.ofNat 64 (perStack 16 (fun k => if k < s.shape.pkg then min (fld s.arg.v.toNat (16 * k) 16) s.shape.capW else 0)) })

/-- POWER_CAP_EXCEEDED: stack `arg.stk` withholds issue slots. -/
def execPowerCapExceeded (s : State) : Out := .next (s.updStack s.arg.stk (fun t => { t with withhold := true }))
/-- POWER_FALLS_BELOW_CAP: stack `arg.stk` issues again. -/
def execPowerFallsBelowCap (s : State) : Out := .next (s.updStack s.arg.stk (fun t => { t with withhold := false }))

/-! ## Attestation, debug tokens, life cycle (R337–R339) -/

/-- Stacks of the shape that are fenced: `dv_boot`[7:4]. -/
def State.fencedMask (s : State) : Nat := (List.range s.shape.pkg).foldl (fun m k => m + 2 ^ k * b2n (s.stack k).fenced) 0

/-- A byte string cut or filled with zeros to n bytes. -/
def fit (n : Nat) (bs : List Byte) : List Byte := (bs ++ List.replicate n 0).take n

/-- Bytes 0 to 1,487 of a report (R338). -/
def State.reportBody (s : State) : List Byte :=
  fit 32 s.nonce ++ leBytes (s.shapeHash s.live).toNat 8 ++ leBytes (s.live + 2 ^ 8 * s.fencedMask + 2 ^ 16 * s.life + 2 ^ 24 * ((s.stack s.act).rollback % 256)) 8
    ++ (List.range 4).flatMap (fun k => if s.takesPart k then fit 32 (s.stack k).image else List.replicate 32 0) ++ fit 1312 (Config.identityKey s.seed)

/-- ATTESTATION_REQUEST (R337, R338): the host writes 1 to `dv_atrq`. -/
def execAttestationRequest (s : State) : Out :=
  .next (if !s.portUp || s.repBusy || s.life == 2 then s else { s with repBusy := true, repReady := false })

/-- ATTESTATION_REPORT_READY (R338): the report is signed. -/
def execAttestationReportReady (s : State) : Out :=
  .next (if !s.repBusy then s
  else if s.life = 2 then { s with repBusy := false }
  else { s with repBusy := false, repReady := true, report := s.reportBody ++ fit 2420 (Config.mldsaSign s.seed (sha3 s.reportBody)) })

/-- `dv_tnce`: the current challenge (R337). -/
def State.challenge (s : State) : List Byte := (List.range 32).map (Config.debugChallenge s.challenges)

/-- Whether the token in `dv_tok` matches (R339). -/
def State.tokenOk (s : State) : Bool :=
  let t := memBytes s.token 0 2496
  t.take 32 == sha3 (fit 1312 (Config.identityKey s.seed)) && (t.drop 32).take 32 == s.challenge && leNat ((t.drop 72).take 4) == 1
    && Config.mldsaVerify (s.stack s.act).debugHash (sha3 (t.take 76)) (t.drop 76)

/-- DEBUG_TOKEN_SUBMIT (R337, R339, R444): a token that matches opens its features, in place of the earlier ones, and renews the
challenge. -/
def execDebugTokenSubmit (s : State) : Out :=
  .next (if !s.portUp || !s.tokenOk then s
  else { s with features := BitVec.ofNat 64 (memNat s.token 64 8 % 64), challenges := s.challenges + 1 })

/-- LIFE_CYCLE_ADVANCE (R339): the life-cycle state moves upward to `arg.n`; RETIRED erases the identity seed. -/
def execLifeCycleAdvance (s : State) : Out :=
  let n := s.arg.n
  .next (if s.life < n ∧ n ≤ 2 then { s with life := n, seed := if n = 2 then List.replicate 32 0 else s.seed } else s)

/-! ## The quarantine list (R434) -/

/-- DV_QSCR_WRITE: the host asks for the frame of entry `arg.v`[8:0] to be scrubbed. -/
def execDvQscrWrite (s : State) : Out :=
  let k := fld s.arg.v.toNat 0 9
  .next (if !s.portUp || s.scrub.isSome || !(bitN (AMap.get 0 s.qlist k).toNat 63) then s else { s with scrub := some k })

/-- QUARANTINE_SCRUB_DONE: the home port has zeroed the frame, and `v` of its entry is clear; the rest of the entry stays. -/
def execQuarantineScrubDone (s : State) : Out :=
  .next (match s.scrub with
  | none => s
  | some k =>
    let f := fld (AMap.get 0 s.qlist k).toNat 16 30
    if !(bitN (AMap.get 0 s.qlist k).toNat 63) then { s with scrub := none } else
    if !(s.up (s.home (65536 * f))) then s
    else ({ s with scrub := none, qlist := AMap.set 0 s.qlist k (BitVec.ofNat 64 (setBitN (AMap.get 0 s.qlist k).toNat 63 false)) } : State).scrubFrame f)

end Sys2Proof.Machine
end

