-- ==== Sys2Proof/Machine/Debug.lean ====
section
/-! DEFINITION. Debug, trace and profiling (R386, R444–R450, R454). -/

namespace Sys2Proof.Machine

/-! ## The strand behind a debug block (R446) -/

/-- Whether berth b holds a strand of context n; one that a resume has only reserved for it does not (R280, R300). -/
def State.holdsHere (s : State) (n b : Nat) : Bool := (s.berth b).st != .free && (s.berth b).st != .restore && (s.berth b).ctx == n

/-- The saved strand of context n on berth b, as its save area now has it, put into the berth with its core as it was saved. -/
def State.savedView (s : State) (n b : Nat) : Option (Berth × State) :=
  let c := s.ctx n
  match c.savedState.find? (fun x => x.1 == b) with
  | none => none
  | some (_, kept) => match s.loadStrand n b kept with
    | .error _ => none
    | .ok t =>
      let K := ((c.savedCores.find? (fun x => x.1 == coreOf b)).map (·.2)).getD Core.zero
      let mcb := match s.readVA n (0x02D02200 + c.saveBase + 0x1000000 * coreOf b) 8 with
        | .ok bs => BitVec.ofNat 64 (leNat bs)
        | .error _ => K.mcb
      some (kept, t.setCore (coreOf b) { K with mcb := mcb })

/-- The live map of a switch with every predicate, stream register and handle in it: what it left out is saved as it is resumed, as zero. -/
def Switch.widen (w : Switch) : Switch := { w with live := w.live.map (fun x => (x.1, { x.2 with pm := 255, sm := 65535, qm := 65535 })) }

/-- The spill map with the registers that hold something and that it left out. -/
def Berth.widenSpill (B : Berth) : AMap Word := (List.range 64).foldl (fun m n =>
  if AMap.get 0 m n = 0 ∧ B.getG (BitVec.ofNat 6 n) ≠ 0 then AMap.set 0 m n inMemory else m) B.spill

/-- What a debug access leaves of a saved strand goes back into the save area, a register that its live map left out as well; the berth and the core stay
as they are. -/
def State.putBack (s : State) (n b : Nat) (kept : Berth) (u : State) : State :=
  let B := u.berth b
  let k := { B with st := kept.st, recs := kept.recs, cut := kept.cut, haltF := kept.haltF, pfx := kept.pfx, answer := kept.answer, sw := kept.sw.widen,
                    clk := kept.clk, spill := B.widenSpill }
  let K := u.core (coreOf b)
  let v := ((u.setBerth b (s.berth b)).setCore (coreOf b) (s.core (coreOf b))).updCtx n (fun c => { c with
    savedState := c.savedState.map (fun x => if x.1 = b then (b, k) else x),
    savedCores := c.savedCores.map (fun x => if x.1 = coreOf b then (x.1, K) else x) })
  let base := (v.ctx n).saveBase
  match v.saveRange n (0xC00000 + base + 0x10000 * b) 0 0x1000 ((v.setBerth b k).strandRecord b) 3 with
  | .error _ => v
  | .ok w => match w.saveRange n (0x02D02200 + base + 0x1000000 * coreOf b) 0 8 (imgPut [] 0 8 K.mcb.toNat) 2 with
    | .error _ => w
    | .ok w => w

/-- Runs a debug access on the strand that the block of berth b shows to context n; without one the access is dropped (R446). What is parked of a saved
strand goes into the save area first (R294). -/
def State.atStrand (s : State) (n b : Nat) (f : State → State) : State :=
  if s.holdsHere n b then f s
  else
    let s := (s.parked.filter (fun x => x.1 == n && x.2.1 == b)).foldl (fun t x => t.unparkReg x.1 x.2.1 x.2.2.1 x.2.2.2) s
    match s.savedView n b with
    | none => s
    | some (kept, t) => s.putBack n b kept (f t)

/-- The strands of context n, resident or saved. -/
def State.debugged (s : State) (n : Nat) : List Nat := (s.heldBerths n ++ (s.ctx n).savedState.map (·.1)).eraseDups

/-- A refused access sets `err` (R444, R446). -/
def State.refuse (s : State) (b : Nat) : State := s.updBerth b (fun B => { B with dbg := { B.dbg with err := true } })

/-- An access that is carried out clears `err`, which tells of the last one (R446). DESIGN CHOICE (unsafe; log entry 136): only `dbg_ctl`, `dbg_pc` and
`dbg_dat`, whose accesses can be refused, count as accesses here. -/
def State.heed (s : State) (b : Nat) : State := s.updBerth b (fun B => { B with dbg := { B.dbg with err := false } })

/-- A debug access that needs feature k (R444). -/
def State.needing (s : State) (k n b : Nat) (f : State → State) : State :=
  if !s.windows then s else s.atStrand n b (fun s => if s.feature k then f (s.heed b) else s.refuse b)

/-! ## Stopping, running, stepping (R447, R448) -/

/-- The strand stops before its unit, what that unit waits for is withdrawn; a unit that can no longer restart ends first. -/
def State.stopStrand (s : State) (b why : Nat) : State :=
  let B := s.berth b
  if B.dbg.stp then s
  else if s.cBusy b then
    s.setBerth b { B with dbg := { B.dbg with due := if B.dbg.due = 0 then why else min B.dbg.due why } }
  else ((s.dropWait b).updBerth b (fun B => { B with pc := B.unitPc, pfx := none })).stopAt b why 0

/-- Releases a stopped strand; `due` is the stop that is to follow the next unit, if any. -/
def State.release' (s : State) (b due : Nat) : State :=
  let B := s.berth b
  if !B.dbg.stp then s
  else s.setBerth b { B with cut := B.inHandler || B.haltF, dbg := { B.dbg with stp := false, why := 0, bcode := 0, due := due, skipBp := true } }

/-- DBG_CTL_STOP (R447, R448): `stop` for berth `arg.b` of context `arg.ctx`. -/
def execDbgCtlStop (s : State) : Out := let x := s.arg; .next (s.needing 0 x.ctx x.b (fun s => s.stopStrand x.b 1))
/-- DBG_CTL_RUN (R448). -/
def execDbgCtlRun (s : State) : Out := let x := s.arg; .next (s.needing 0 x.ctx x.b (fun s => s.release' x.b 0))
/-- DBG_CTL_STEP (R448): exactly one unit. -/
def execDbgCtlStep (s : State) : Out := let x := s.arg; .next (s.needing 0 x.ctx x.b (fun s => s.release' x.b 4))

/-- `sall` (R445, R447): every strand of context n stops. -/
def State.stopEvery (s : State) (n : Nat) : State :=
  if !(s.feature 0) then s else (s.debugged n).foldl (fun s b => s.atStrand n b (fun s => s.stopStrand b 5)) s

/-- `rall` (R445, R448): every stopped strand of context n runs. -/
def State.runEvery (s : State) (n : Nat) : State :=
  if !(s.feature 0) then s else (s.debugged n).foldl (fun s b => s.atStrand n b (fun s => s.release' b 0)) s

/-- DBG_CCTL_SALL: the host writes `sall`. -/
def execDbgCctlSall (s : State) : Out := .next (if !s.windows then s else s.stopEvery s.arg.ctx)

/-- DBG_CCTL_RALL: the host writes `rall`. -/
def execDbgCctlRall (s : State) : Out := .next (if !s.windows then s else s.runEvery s.arg.ctx)

/-- DBG_ST_CLEAR (R446): 1 in bits 3 and 0 of `arg.v` clears `err` and `dlw`. -/
def execDbgStClear (s : State) : Out :=
  let x := s.arg
  .next (if !s.windows then s else s.atStrand x.ctx x.b (fun s => s.updBerth x.b (fun B =>
    { B with dbg := { B.dbg with err := B.dbg.err && !(bitN x.v.toNat 3), dlw := B.dbg.dlw && !(bitN x.v.toNat 0) } })))

/-! ## Reading and writing a stopped strand (R446, R449) -/

/-- Class, number and address of `dbg_sel` (R446). -/
def Dbg.cls (d : Dbg) : Nat := fld d.sel.toNat 0 4
def Dbg.num (d : Dbg) : Nat := fld d.sel.toNat 4 12
def Dbg.addr (d : Dbg) : Nat := fld d.sel.toNat 16 25

/-- Feature that an access of the selected class needs beside RREG or WREG is open. -/
def State.memOk (s : State) (d : Dbg) : Bool := !(d.cls == 3 || d.cls == 4) || s.feature 3

/-- Word w of a stream register. -/
def streamWord (x : BitVec 256) (w : Nat) : Word := BitVec.ofNat 64 (fld x.toNat (64 * w) 64)
/-- A stream register with word w replaced. -/
def setStreamWord (x : BitVec 256) (w : Nat) (v : Word) : BitVec 256 :=
  BitVec.ofNat 256 (x.toNat - 2 ^ (64 * w) * fld x.toNat (64 * w) 64 + 2 ^ (64 * w) * v.toNat)

/-- Whether classes 3 and 4 name eight aligned bytes of a store of n bytes. -/
def Dbg.memSel (d : Dbg) (n : Nat) : Bool := d.num == 0 && d.addr % 8 == 0 && decide (d.addr + 8 ≤ n)

/-- The selected item; none when the access is refused. -/
def State.dbgItem (s : State) (b : Nat) : Option Word :=
  let B := s.berth b
  let d := B.dbg
  let K := s.core (coreOf b)
  match d.cls with
  | 0 => if d.num < 64 then some (B.getG (BitVec.ofNat 6 d.num)) else none
  | 1 => if d.num < 64 then some (streamWord (B.getS (BitVec.ofNat 4 (d.num / 4))) (d.num % 4)) else none
  | 2 => s.readSys b d.num
  | 3 => if d.memSel 0x400000 then some (BitVec.ofNat 64 (memNat K.sp d.addr 8)) else none
  | 4 => if d.memSel 0x800000 then some (BitVec.ofNat 64 (memNat K.acc d.addr 8)) else none
  | _ => none

/-- A write of the selected item; none when it is refused. -/
def State.dbgPut (s : State) (b : Nat) (v : Word) : Option State :=
  let B := s.berth b
  let d := B.dbg
  match d.cls with
  | 0 =>
    if 64 ≤ d.num then none
    else
      let hit := match B.outLoad with
        | some o => o.d.toNat == d.num
        | none => false
      let B := if hit then { B with outLoad := none, dbg := { d with dlw := true } } else B
      some (s.setBerth b (B.setG (BitVec.ofNat 6 d.num) v))
  | 1 =>
    let r := BitVec.ofNat 4 (d.num / 4)
    if 64 ≤ d.num then none else some (s.setBerth b (B.setS r (setStreamWord (B.getS r) (d.num % 4) v)))
  | 2 => match s.writeSys b d.num v with
    | .ok s => some s
    | .error _ => none
  | 3 => if d.memSel 0x400000 then some (s.updCore (coreOf b) (fun k => { k with sp := memPut k.sp d.addr (leBytes v.toNat 8) })) else none
  | 4 => if d.memSel 0x800000 then some (s.updCore (coreOf b) (fun k => { k with acc := memPut k.acc d.addr (leBytes v.toNat 8) })) else none
  | _ => none

/-- The byte of a core record's line bitmaps that covers the selected line of a store (R297). -/
def State.savedBitAt (s : State) (n b : Nat) (d : Dbg) : Nat :=
  0x02D10000 + (s.ctx n).saveBase + 0x1000000 * coreOf b + (if d.cls = 4 then 0x2000 else 0) + d.addr / 512

/-- Whether the core record holds the selected line; one that it does not hold resumes as zero. -/
def State.savedLine (s : State) (n b : Nat) (d : Dbg) : Bool :=
  match s.readVA n (s.savedBitAt n b d) 1 with
  | .ok bs => bitN (leNat bs) (d.addr / 64 % 8)
  | .error _ => false

/-- The core record holds the selected line from now on. -/
def State.addLine (s : State) (n b : Nat) (d : Dbg) (va : Nat) : Except MFault State :=
  if s.savedLine n b d then .ok s else
  match s.writeVA2 n (va - d.addr % 64) (List.replicate 64 0) with
  | .error f => .error f
  | .ok s => match s.readVA n (s.savedBitAt n b d) 1 with
    | .error f => .error f
    | .ok bs => s.writeVA2 n (s.savedBitAt n b d) (leBytes (setBitN (leNat bs) (d.addr / 64 % 8) true) 1)

/-- A saved strand's store item stands in its core record (R297). -/
def State.savedItemAt (s : State) (n b : Nat) (d : Dbg) : Nat :=
  0x02000000 + (s.ctx n).saveBase + 0x1000000 * coreOf b + (if d.cls = 4 then 0x400000 else 0) + d.addr

/-- DBG_DAT_READ (R449): the host reads `dbg_dat` of berth `arg.b`; what it reads stands in the berth's `dat`. -/
def execDbgDatRead (s : State) : Out :=
  let n := s.arg.ctx
  let b := s.arg.b
  let give := fun (s : State) (v : Word) => s.updBerth b (fun B => { B with dbg := { B.dbg with dat := v } })
  .next (if !s.windows then s else s.atStrand n b (fun s' =>
    let d := (s'.berth b).dbg
    if !(s'.feature 1) || !(s'.memOk d) || !d.stp then give (s'.refuse b) 0
    else if !(s.holdsHere n b) && (d.cls == 3 || d.cls == 4) then
      if !(d.memSel (if d.cls = 3 then 0x400000 else 0x800000)) then give (s'.refuse b) 0
      else if !(s'.savedLine n b d) then give (s'.heed b) 0
      else match s'.readVA n (s.savedItemAt n b d) 8 with
      | .ok bs => give (s'.heed b) (BitVec.ofNat 64 (leNat bs))
      | .error _ => give (s'.refuse b) 0
    else match s'.dbgItem b with
      | some v => give (s'.heed b) v
      | none => give (s'.refuse b) 0))

/-- DBG_DAT_WRITE (R386, R449): the host writes `arg.v` to `dbg_dat` of berth `arg.b`. -/
def execDbgDatWrite (s : State) : Out :=
  let n := s.arg.ctx
  let b := s.arg.b
  let v := s.arg.v
  .next (if !s.windows then s else s.atStrand n b (fun s' =>
    let d := (s'.berth b).dbg
    if !(s'.feature 2) || !(s'.memOk d) || !d.stp then s'.refuse b
    else if !(s.holdsHere n b) && (d.cls == 3 || d.cls == 4) then
      if !(d.memSel (if d.cls = 3 then 0x400000 else 0x800000)) then s'.refuse b
      else match s'.addLine n b d (s.savedItemAt n b d) with
      | .error _ => s'.refuse b
      | .ok t => match t.writeVA2 n (s.savedItemAt n b d) (leBytes v.toNat 8) with
        | .ok t => t.heed b
        | .error _ => s'.refuse b
    else ((s'.dbgPut b v).map (·.heed b)).getD (s'.refuse b)))

/-- DBG_PC_WRITE (R446): the next unit of the stopped strand; an instruction that waited is not resumed. -/
def execDbgPcWrite (s : State) : Out :=
  let b := s.arg.b
  let v := s.arg.v
  .next (s.needing 2 s.arg.ctx b (fun s =>
    let B := s.berth b
    if !B.dbg.stp then s.refuse b
    else (s.dropWait b).updBerth b (fun B => { B with pc := v, st := if B.st = .wait then .run else B.st, waiting := .none })))

/-! ## Trace configuration and the profile counters (R445, R451, R454) -/

/-- TRACE_CONFIG_WRITE (R445, R451): the host writes `arg.v` to `tr_base` (`arg.flag`) or to `tr_cfg`; every count and `terr` are zero then, and a stack on
which a write failed traces again after a write of `tr_cfg` only. -/
def execTraceConfigWrite (s : State) : Out :=
  let v := s.arg.v.toNat
  .next (if !s.windows || !(s.feature 4) then s
  else s.updCtx s.arg.ctx (fun c =>
    let c := { c with trWr := [], trCfg := BitVec.ofNat 64 (setBitN c.trCfg.toNat 1 false) }
    if s.arg.flag then { c with trBase := BitVec.ofNat 64 (2 ^ 58 * fld v 58 6 + 2 ^ 12 * fld v 12 38) }
    else { c with trEnd := 0, trCfg := BitVec.ofNat 64 (2 ^ 8 * fld v 8 8 + fld v 0 1) }))

/-- `pclr` (R445, R454): every profile counter of context n is zero. -/
def State.clearProfile (s : State) (n : Nat) : State :=
  if !(s.feature 5) then s
  else { s with berths := s.berths.map (fun b => (b.1, if b.2.lastOcc = some n then { b.2 with profAt := s.ev, awaited := [] } else b.2)) }

/-- DBG_CCTL_PCLR: the host writes `pclr`. -/
def execDbgCctlPclr (s : State) : Out := .next (if !s.windows then s else s.clearProfile s.arg.ctx)

/-- The profile counter at offset off of berth b's block, as context n's window shows it (R453, R454; how many cycles fall in a class is
open: log entry 2). C has no class 3; a flag that nothing has waited for has counted nothing; nothing counts from the event in which the strand
stopped or was idle on. -/
def State.profRead (s : State) (n b off : Nat) : Nat :=
  let B := s.berth b
  let frz := (s.ctx n).frzAt
  let now := min (if frz = 0 then s.ev else frz) (B.profStop.getD s.ev)
  let flag := (off - 0x40) / 4
  let unused := if off < 0x40 then off == 0xC else !(AMap.get false B.awaited flag)
  if !(s.feature 5) || B.lastOcc != some n || unused || decide (now ≤ B.profAt) then 0
  else (Config.profileCount b off now).toNat

end Sys2Proof.Machine
end

