-- ==== Sys2Proof/Machine/Bar.lean ====
section
/-! DEFINITION. BAR0 as the host writes and reads it: registers without a behaviour of their own (R65, R330, R331, R337, R371, R378,
R445), and what a read of each offset returns. -/

namespace Sys2Proof.Machine

/-! ## Writes -/

/-- Bits [hi:lo] of a value, in place. -/
def keepBits (v hi lo : Nat) : Nat := 2 ^ lo * fld v lo (hi + 1 - lo)

/-- A context register with a new value, its reserved bits zero (R65, R378); a register that acts on a write is not among them. -/
def Ctx.setReg (c : Ctx) (i v : Nat) : Ctx :=
  let w := fun (x : Nat) => BitVec.ofNat 64 x
  match i with
  | 0 => { c with ptroot := w (keepBits v 45 20) }
  | 1 => { c with bhk := w (keepBits v 59 0) }
  | 2 => { c with migf := w (keepBits v 45 9) }
  | 3 => { c with migt := w (keepBits v 15 0) }
  | 4 => { c with raw := w (keepBits v 45 20 + keepBits v 11 0) }
  | 5 => { c with ckpt := w (keepBits v 63 58 + keepBits v 49 16) }
  | 6 => { c with save := w (keepBits v 49 21) }
  | 7 => { c with pbnd := w (keepBits v 31 0) }
  | 11 => { c with lvls := w (keepBits v 3 0) }
  | 12 => { c with rdn := w (keepBits v 63 63 + keepBits v 49 12 + keepBits v 5 0) }
  | 13 => { c with trap := w (keepBits v 49 2 + keepBits v 0 0) }
  | 15 => { c with fltm := w (keepBits v 11 0) }
  | 17 => { c with movf := w (keepBits v 63 58 + keepBits v 49 12) }
  | 18 => { c with morph := w (keepBits v 63 40 + keepBits v 15 0) }
  | 20 => { c with rcv := w (keepBits v 63 63 + keepBits v 49 12) }
  | _ => c

/-- A host write of v at offset o of context window n. -/
def State.writeWindow (s : State) (n o v : Nat) : State :=
  if 0xC000 ≤ o ∧ o < 0xE000 then
    let b := (o - 0xC000) / 64
    if o % 64 = 0x18 then s.atStrand n b (fun s => s.updBerth b (fun B => { B with dbg := { B.dbg with sel := BitVec.ofNat 64 (keepBits v 40 0) } })) else s
  else if o = 0xE000 then s.updCtx n (fun c => { c with lqBase := BitVec.ofNat 64 (keepBits v 49 9) })
  else if 0xE800 ≤ o ∧ o ≤ 0xE8A0 then
    if s.heldBerths n = [] then s.updCtx n (fun c => c.setReg ((o - 0xE800) / 8) v) else s
  else if o = 0xE900 then
    let s := s.updCtx n (fun c =>
      let arm := if s.feature 0 then bitN v 0 else c.dbgc.getLsbD 0
      { c with dbgc := BitVec.ofNat 64 (b2n arm + 2 ^ 7 * b2n (bitN v 7)), frzAt := if !(bitN v 7) then 0 else if c.frzAt = 0 then s.ev else c.frzAt })
    let s := if bitN v 6 then s.clearProfile n else s
    let s := if bitN v 3 then s.runEvery n else s
    if bitN v 4 then s.stopEvery n else s
  else if 0xE908 ≤ o ∧ o ≤ 0xE920 then
    if s.feature 0 then s.updCtx n (fun c => { c with bpa := AMap.set 0 c.bpa ((o - 0xE908) / 8) (BitVec.ofNat 64 (keepBits v 63 63 + keepBits v 49 2)) }) else s
  else if 0xE958 ≤ o ∧ o ≤ 0xE970 then
    if s.feature 4 then s.updCtx n (fun c => { c with trRd := AMap.set 0 c.trRd ((o - 0xE958) / 8) (BitVec.ofNat 64 (keepBits v 39 0)) }) else s
  else s

/-- Whether the host port that `act` does not name works (R13, R330). -/
def State.otherPort (s : State) : Bool :=
  match s.shape.altPort with
  | none => false
  | some a => let k := if s.act = 0 then a else 0; (s.stack k).image != [] && s.up k

/-- REGISTER_WRITE (R65, R330, R337): the host writes `arg.v` to the 8-byte register at BAR0 offset `arg.off`; with `arg.flag` through the other port,
which takes writes to the device block and drops every other. -/
def execRegisterWrite (s : State) : Out :=
  let o := s.arg.off
  let v := s.arg.v.toNat
  let put := fun (bs : List Byte) (at' : Nat) => bs.take at' ++ leBytes v 8 ++ bs.drop (at' + 8)
  .next (if o % 8 ≠ 0 ∨ (s.arg.flag ∧ (!s.otherPort ∨ o < 0x110000)) then s
  else if o < 0x100000 then (if s.windows then s.writeWindow (o / 0x10000) (o % 0x10000) v else s)
  else if !s.portUp then s
  else if o < 0x108000 then { s with msixT := memPut s.msixT (o - 0x100000) (leBytes v 8) }
  else if 0x110008 ≤ o ∧ o ≤ 0x110020 then { s with nonce := put s.nonce (o - 0x110008) }
  else if 0x112000 ≤ o ∧ o < 0x113000 then { s with token := memPut s.token (o - 0x112000) (leBytes v 8) }
  else s)

/-! ## Reads -/

/-- `dbg_ctl` to `dbg_dat` of berth b, as context n's window shows them (R446). -/
def State.readDebug (s : State) (n b o : Nat) : Nat :=
  let see := fun (B : Berth) => match o with
    | 0x08 => B.dbg.st
    | 0x10 => B.unitPc.toNat
    | 0x18 => B.dbg.sel.toNat
    | 0x20 => B.dbg.dat.toNat
    | _ => 0
  if s.holdsHere n b then see (s.berth b)
  else match s.savedView n b with
    | some (_, t) => see (t.berth b)
    | none => 0

/-- What offset o of context window n reads (R22, R65, R319, R331, R421, R445, R446, R454). -/
def State.readWindow (s : State) (n o : Nat) : Nat :=
  let c := s.ctx n
  if o < 0xA000 then s.profRead n (o / 0x140) (o % 0x140) + 2 ^ 32 * s.profRead n ((o + 4) / 0x140) ((o + 4) % 0x140)
  else if 0xC000 ≤ o ∧ o < 0xE000 then s.readDebug n ((o - 0xC000) / 64) (o % 64)
  else if 0xE800 ≤ o ∧ o ≤ 0xE8A0 then (c.reg ((o - 0xE800) / 8)).toNat
  else if 0xF000 ≤ o ∧ o < 0xF200 then
    let i := (o - 0xF000) / 8
    if 9 ≤ i ∧ i ≤ 14 then topoOrd (i - 9) else s.shownAt s.act i
  else if 0xE908 ≤ o ∧ o ≤ 0xE920 then (if s.feature 0 then (AMap.get 0 c.bpa ((o - 0xE908) / 8)).toNat else 0)
  else if 0xE938 ≤ o ∧ o ≤ 0xE950 then (if s.feature 4 then (AMap.get 0 c.trWr ((o - 0xE938) / 8)).toNat else 0)
  else match o with
    | 0xE000 => c.lqBase.toNat
    | 0xE008 => c.lqCfg.toNat
    | 0xE010 => c.kicked
    | 0xE018 => 2 ^ 32 * c.completed + c.fetched
    | 0xE900 => if s.feature 0 then c.dbgc.toNat else keepBits c.dbgc.toNat 7 7
    | 0xE928 => if s.feature 4 then c.trBase.toNat else 0
    | 0xE930 => if s.feature 4 then c.trCfg.toNat else 0
    | 0xF200 => s.shownAt s.act svcIndex
    | 0xF210 => s.svcTim.toNat
    | 0xF218 => s.svcSusVal
    | _ => 0

/-- `dv_boot` (R337). -/
def State.dvBoot (s : State) : Nat :=
  let ver := (List.range s.shape.pkg).foldl (fun m k => m + 2 ^ k * b2n ((s.stack k).image != [])) 0
  ver + 2 ^ 4 * s.fencedMask + 2 ^ 8 * s.life + 2 ^ 16 * ((s.stack s.act).rollback % 128)

/-- What offset o of the device block reads (R337, R434, R439). -/
def State.readDevice (s : State) (o : Nat) : Nat :=
  let word := fun (bs : List Byte) (a : Nat) => leNat ((bs.drop a).take 8)
  if 0x30 ≤ o ∧ o ≤ 0x48 then word s.challenge (o - 0x30)
  else if 0x1000 ≤ o ∧ o < 0x2000 then word s.report (o - 0x1000)
  else if 0x2000 ≤ o ∧ o < 0x3000 then memNat s.token (o - 0x2000) 8
  else if 0x3000 ≤ o ∧ o < 0x4000 then (AMap.get 0 s.qlist ((o - 0x3000) / 8)).toNat
  else match o with
    | 0x00 => s.dvBoot
    | 0x28 => b2n s.repBusy + b2n s.repReady * 2
    | 0x50 => if s.life = 1 then s.features.toNat else 63
    | 0x58 => s.pcap.toNat
    | 0x60 => (s.qlist.filter (fun e => bitN e.2.toNat 63)).length + 2 ^ 16 * b2n s.scrub.isSome
    | 0x68 => perStack 16 (fun k => (s.stack k).ecc)
    | 0x70 => perStack 16 (fun k => (s.stack k).ucc)
    | _ => 0

/-- What the 8-byte register at BAR0 offset o reads through the port that serves the host; a read changes nothing, but for `dbg_dat`, whose
read is the event DBG_DAT_READ (R330, R335). -/
def State.hostRead (s : State) (o : Nat) : Nat :=
  if o < 0x100000 then (if s.windows then s.readWindow (o / 0x10000) (o % 0x10000) else 0)
  else if !s.portUp then 0
  else if o < 0x108000 then memNat s.msixT (o - 0x100000) 8
  else if o < 0x108100 then (List.range 64).foldl (fun v k => v + 2 ^ k * b2n (AMap.get false s.msixP (8 * (o - 0x108000) + k))) 0
  else if 0x110000 ≤ o ∧ o < 0x114000 then s.readDevice (o - 0x110000)
  else 0

/-- What a read through the other port returns (R330): the device block, and zero elsewhere. -/
def State.hostReadOther (s : State) (o : Nat) : Nat := if 0x110000 ≤ o ∧ o < 0x114000 ∧ s.otherPort then s.hostRead o else 0

end Sys2Proof.Machine
end

