-- ==== Sys2Proof/Machine/Complete.lean ====
section
/-! DEFINITION. The completion of a launch (R51, R56, R312, R333, R395, R468) and the comparison of redundant copies (R327, R437). -/

namespace Sys2Proof.Machine

/-! ## Redundant pairs (R327, R437) -/

/-- Whether two outputs of n bytes agree; one that cannot be read agrees with nothing (log entry 24). -/
def State.agree (s : State) (ctx a b n : Nat) : Bool :=
  match s.readVAf ctx (fld a 0 50) n (n / 65536 + 2), s.readVAf ctx (fld b 0 50) n (n / 65536 + 2) with
  | .ok x, .ok y => x == y
  | _, _ => false

/-- Poisons every granule that holds one of n bytes at va (R437). -/
def State.poisonVA (s : State) (ctx va n : Nat) : State :=
  (List.range (n / 32 + 2)).foldl (fun s i =>
    let a := (va / 32 + i) * 32
    if va + n ≤ a then s else
    match s.walk ctx (fld a 0 50) 0 with
    | .ok l => s.setPoison l.pa 1
    | .error _ => s) s

/-- The result word is written and the pair is done (R327). No launch starts until it is: one that gets no answer is written again, and one whose page
refuses it is a failed access of the device, after which it is written again (log entry 24). -/
def State.rdnResult (s : State) (ctx i e res : Nat) : State :=
  match s.writeVA2 ctx (fld e 448 50) (leBytes (res + 2 ^ 32 * fld e 32 32) 8) with
  | .ok s => s.updCtx ctx (fun c => { c with rdnWait := none, rdnRes := none, rdnSeen := AMap.erase c.rdnSeen (rdnKey e i) })
  | .error f => (s.updCtx ctx (fun c => { c with rdnWait := none, rdnRes := some (i, e, res) })).deviceFault ctx f 9 (fld e 64 32)

/-- A and B have completed: equal outputs give result 0; else C is the context's next launch. -/
def State.compareAB (s : State) (ctx i e : Nat) : State :=
  if s.agree ctx (fld e 128 64) (fld e 192 64) (fld e 352 32) then s.rdnResult ctx i e 0
  else s.updCtx ctx (fun c => { c with rdnWait := some i, launches := { Launch.none with rdnC := some i } :: c.launches })

/-- C has completed: it sides with A or with B, or with neither. -/
def State.compareC (s : State) (ctx i e lead cMask : Nat) : State :=
  let n := fld e 352 32
  let seen := AMap.get (0, 0) (s.ctx ctx).rdnSeen (rdnKey e i)
  let blame := fun (s : State) (m : Nat) => (maskList m).foldl (fun s k => s.suspect lead k 0xDD) s
  if s.agree ctx (fld e 256 64) (fld e 128 64) n then blame (s.rdnResult ctx i e 1) (seen.2 - 1)
  else if s.agree ctx (fld e 256 64) (fld e 192 64) n then blame (s.rdnResult ctx i e 2) (seen.1 - 1)
  else
    let s := s.rdnResult ctx i e 3
    let s := [fld e 128 50, fld e 192 50, fld e 256 50].foldl (fun s va => s.poisonVA ctx va n) s
    let s := s.cki ctx 7 0xDD 0xFF false
    ({ s with wantShed := s.wantShed ||| (seen.1 - 1) ||| (seen.2 - 1) ||| cMask } : State).reconsider

/-- A completed launch is looked up in the redundant table (R326, R327). -/
def State.rdnDone (s : State) (ctx : Nat) (l : Launch) : State :=
  match l.rdnC with
  | some i => match s.rdnEntry ctx i with
    | none => s.updCtx ctx (fun c => { c with rdnWait := none })
    | some e => s.compareC ctx i e (l.lead s.live) l.stks
  | none => (List.range 64).foldl (fun s i => match s.rdnEntry ctx i with
    | none => s
    | some e =>
      let isA := fld e 32 32 == l.seq
      let isB := fld e 64 32 == l.seq
      if !isA && !isB then s else
      let seen := AMap.get (0, 0) (s.ctx ctx).rdnSeen (rdnKey e i)
      let seen := (if isA then l.stks + 1 else seen.1, if isB then l.stks + 1 else seen.2)
      let s := s.updCtx ctx (fun c => { c with rdnSeen := AMap.put c.rdnSeen (rdnKey e i) seen })
      if seen.1 ≠ 0 ∧ seen.2 ≠ 0 then s.compareAB ctx i e else s) s

/-! ## LAUNCH_COMPLETE -/

/-- What the end of a replay finds in its log (R312, R415). -/
inductive LogEnd where
  | over
  | left (k typ reason : Nat)
  | wait
  | unreadable (f : MFault)
  deriving DecidableEq, Repr

/-- Looks for a record that no event has consumed, from record k on. -/
def State.logEnd (s : State) (ctx lsl k : Nat) : Nat → LogEnd
  | 0 => .wait
  | fuel + 1 =>
    let l := s.launch ctx lsl
    if AMap.get false l.log.used k then s.logEnd ctx lsl (k + 1) fuel else
    match s.readVA ctx (l.logSlot k) 32 with
    | .error f => .unreadable f
    | .ok bs =>
      let (r, q) := logRead (leNat bs)
      if q ≠ k % 256 then .left k r.typ 5
      else if r.typ = 2 ∨ r.typ = 3 then .over
      else .left k r.typ 3

/-- The END record of a launch, or the end of its replay (R306, R312). -/
def State.endRecord (s : State) (ctx lsl : Nat) : Gate :=
  let l := s.launch ctx lsl
  if !l.det || l.log.free || l.log.brk then .go s
  else if l.rpl then match s.logEnd ctx lsl 0 (s.lcnt ctx lsl) with
    | .over => .go s
    | .wait => .hold
    | .left k t r => .bad (s.diverge ctx lsl k t r)
    | .unreadable f => s.logFault ctx f 0xFF l.seq
  else s.logGate ctx lsl ⟨2, l.log.k + 1, 0, 6, 0xFFFFFFFF, 0xFF, 0⟩

/-- Every store of the launch reaches memory (R51). -/
def State.publishLaunch (s : State) (l : Launch) (bs : List Nat) : State :=
  bs.foldl (fun s b => s.letOut b (s.berth b).pend) ((s.storeOv l.hostw).forget l.hostw)

/-- The berth of a strand whose launch has completed becomes FREE; its queue sequence numbers stay (R460). -/
def State.endBerth (s : State) (b : Nat) : State := (s.freeBerth b).updBerth b (fun B => { B with qsn := (s.berth b).qsn })

/-- The strands of a completed launch leave their gangs, unlogged, and their berths (R34, R56). -/
def State.retireAll (s : State) (ctx : Nat) (bs : List Nat) : State :=
  let s := bs.foldl (fun s b => match (s.berth b).gang with
    | none => s
    | some g => match s.leave b g with
      | .go s => s
      | .hold => s.dropMember ctx g b
      | .bad s => s) s
  bs.foldl (fun s b => s.endBerth b) s

/-- LAUNCH_COMPLETE (R51, R56, R327, R333, R395, R468): the device node of launch `arg.lsl` of context `arg.ctx` counts zero. Its writes
are published at .sys (a strand still in PLACE leaves only by IDLE, R280), `seq` goes to `cmpa`, marked when the check-interval register tells of an error, `lq_stat` follows, then the vector. -/
def execLaunchComplete (s : State) : Out :=
  let ctx := s.arg.ctx
  let lsl := s.arg.lsl
  let c := s.ctx ctx
  let placing := (s.ctxBerths ctx).any (fun b => (s.berth b).lsl == lsl && (s.berth b).st == .place)
  if (s.launch ctx lsl).st ≠ .running ∨ !(s.nodeZero ctx lsl) ∨ c.pnd ∨ c.frozen ∨ placing then .next s else
  let s := s.settleBars ctx
  if (s.launch ctx lsl).det ∧ (s.dueBars ctx).any (fun i => s.allResident ctx i) then .next s else
  .next (match s.endRecord ctx lsl with
  | .hold => s
  | .bad s => s
  | .go s1 =>
    let l := s1.launch ctx lsl
    let bs := (s1.ctxBerths ctx).filter (fun b => (s1.berth b).lsl == lsl)
    let s2 := s1.publishLaunch l bs
    let word := l.seq + (if (s1.ctx ctx).cki.toNat &&& 0x9B ≠ 0 then 2 ^ 32 else 0)
    let w := s2.writeVA2 ctx (l.f 512 64) (leBytes word 8)
    let silent := match w with
      | .ok _ => false
      | .error f => f.cls == 0
    if silent then s else
    let s3 := match w with
      | .ok s => s
      | .error f => s2.deviceFault ctx f 9 l.seq
    let s4 := s3.updCtx ctx (fun c => { c with
      completed := if l.recovery then c.completed else l.seq,
      past := c.past.both l.clk,
      launches := c.launches.filter (fun x => !(x.resident && x.seq % 2 == lsl)) })
    let s5 := if l.f 591 1 = 1 then s4.msix (l.f 576 11) else s4
    ((s5.retireAll ctx bs).rdnDone ctx l).evalFrames)

end Sys2Proof.Machine
end

