-- ==== Sys2Proof/Machine/Float.lean ====
section
/-! DEFINITION. Floating-point arithmetic, comparison and conversion by C (R161–R164, with R103–R108). -/

namespace Sys2Proof.Machine

/-- An operand register read as format f, its subnormals flushed under `ftz` (R105, R161). -/
def fopnd (f : NFmt) (ftz : Bool) (v : Word) : XVal := f.dec (f.flush ftz (v.toNat % 2 ^ f.container))

/-- One rounding to format f under the unit's prefix into `gd`: under SR it takes the strand's next draw (R104–R107, R162). DESIGN CHOICE
(unsafe; log entry 94): a NaN result takes a draw too; `Convert` of R108 returns a NaN before it rounds, and no rule says whether an arithmetic
instruction then takes one. -/
def Berth.roundTo (b : Berth) (f : NFmt) (p : Pfx) (d : GReg) (x : XVal) : Berth :=
  let m := p.round.toNat
  let v := BitVec.ofNat 64 (f.enc x m p.sat p.ftz (draw16 b.rngk b.rngc))
  if m = 5 then { b.setG d v with rngc := b.rngc + 1 } else b.setG d v

/-- A result that is an operand pattern or the canonical NaN, never rounded (R162). -/
def Berth.putRaw (b : Berth) (f : NFmt) (d : GReg) (x : XVal) : Berth := b.setG d (BitVec.ofNat 64 (f.enc x 0 false false 0))

/-- A comparison (R163). -/
def fcmp (f : NFmt) (k : Nat) (ftz : Bool) (a b : Word) : Bool :=
  let x := fopnd f ftz a; let y := fopnd f ftz b
  match k with
  | 0 => xeq x y
  | 1 => xlt x y
  | 2 => xle x y
  | _ => x.isNan || y.isNan

/-- `fadd.d` (R161, R162). -/
def execFaddD (d a b : GReg) (s : State) : Out :=
  s.unit4 (fun B => B.roundTo fp64 s.pfx d (xadd (s.pfx.round == 3) (fopnd fp64 s.pfx.ftz (B.getG a)) (fopnd fp64 s.pfx.ftz (B.getG b))))

/-- `fsub.d` (R161, R162). -/
def execFsubD (d a b : GReg) (s : State) : Out :=
  s.unit4 (fun B => B.roundTo fp64 s.pfx d (xadd (s.pfx.round == 3) (fopnd fp64 s.pfx.ftz (B.getG a)) (fopnd fp64 s.pfx.ftz (B.getG b)).neg))

/-- `fmul.d` (R161, R162). -/
def execFmulD (d a b : GReg) (s : State) : Out :=
  s.unit4 (fun B => B.roundTo fp64 s.pfx d (xmul (fopnd fp64 s.pfx.ftz (B.getG a)) (fopnd fp64 s.pfx.ftz (B.getG b))))

/-- `fdiv.d` (R161, R162). -/
def execFdivD (d a b : GReg) (s : State) : Out :=
  s.unit4 (fun B => B.roundTo fp64 s.pfx d (xdiv (fopnd fp64 s.pfx.ftz (B.getG a)) (fopnd fp64 s.pfx.ftz (B.getG b))))

/-- `fsqrt.d` (R161, R162). -/
def execFsqrtD (d a : GReg) (s : State) : Out :=
  s.unit4 (fun B => B.roundTo fp64 s.pfx d (xsqrt (fopnd fp64 s.pfx.ftz (B.getG a))))

/-- `fmin.d` (R161, R162). -/
def execFminD (d a b : GReg) (s : State) : Out :=
  s.unit4 (fun B => B.putRaw fp64 d (xmin (fopnd fp64 s.pfx.ftz (B.getG a)) (fopnd fp64 s.pfx.ftz (B.getG b))))

/-- `fmax.d` (R161, R162). -/
def execFmaxD (d a b : GReg) (s : State) : Out :=
  s.unit4 (fun B => B.putRaw fp64 d (xmax (fopnd fp64 s.pfx.ftz (B.getG a)) (fopnd fp64 s.pfx.ftz (B.getG b))))

/-- `fmac.d` (R161): one rounding of the old `gd` plus the product. -/
def execFmacD (d a b : GReg) (s : State) : Out :=
  s.unit4 (fun B => B.roundTo fp64 s.pfx d (xadd (s.pfx.round == 3) (fopnd fp64 s.pfx.ftz (B.getG d)) (xmul (fopnd fp64 s.pfx.ftz (B.getG a)) (fopnd fp64 s.pfx.ftz (B.getG b)))))

/-- `fabs.d` (R161, R162). -/
def execFabsD (d a : GReg) (s : State) : Out :=
  s.unit4 (fun B => B.putRaw fp64 d (fopnd fp64 s.pfx.ftz (B.getG a)).abs)

/-- `fneg.d` (R161, R162). -/
def execFnegD (d a : GReg) (s : State) : Out :=
  s.unit4 (fun B => B.putRaw fp64 d (fopnd fp64 s.pfx.ftz (B.getG a)).neg)

/-- `fadd.s` (R161, R162). -/
def execFaddS (d a b : GReg) (s : State) : Out :=
  s.unit4 (fun B => B.roundTo fp32 s.pfx d (xadd (s.pfx.round == 3) (fopnd fp32 s.pfx.ftz (B.getG a)) (fopnd fp32 s.pfx.ftz (B.getG b))))

/-- `fsub.s` (R161, R162). -/
def execFsubS (d a b : GReg) (s : State) : Out :=
  s.unit4 (fun B => B.roundTo fp32 s.pfx d (xadd (s.pfx.round == 3) (fopnd fp32 s.pfx.ftz (B.getG a)) (fopnd fp32 s.pfx.ftz (B.getG b)).neg))

/-- `fmul.s` (R161, R162). -/
def execFmulS (d a b : GReg) (s : State) : Out :=
  s.unit4 (fun B => B.roundTo fp32 s.pfx d (xmul (fopnd fp32 s.pfx.ftz (B.getG a)) (fopnd fp32 s.pfx.ftz (B.getG b))))

/-- `fdiv.s` (R161, R162). -/
def execFdivS (d a b : GReg) (s : State) : Out :=
  s.unit4 (fun B => B.roundTo fp32 s.pfx d (xdiv (fopnd fp32 s.pfx.ftz (B.getG a)) (fopnd fp32 s.pfx.ftz (B.getG b))))

/-- `fsqrt.s` (R161, R162). -/
def execFsqrtS (d a : GReg) (s : State) : Out :=
  s.unit4 (fun B => B.roundTo fp32 s.pfx d (xsqrt (fopnd fp32 s.pfx.ftz (B.getG a))))

/-- `fmin.s` (R161, R162). -/
def execFminS (d a b : GReg) (s : State) : Out :=
  s.unit4 (fun B => B.putRaw fp32 d (xmin (fopnd fp32 s.pfx.ftz (B.getG a)) (fopnd fp32 s.pfx.ftz (B.getG b))))

/-- `fmax.s` (R161, R162). -/
def execFmaxS (d a b : GReg) (s : State) : Out :=
  s.unit4 (fun B => B.putRaw fp32 d (xmax (fopnd fp32 s.pfx.ftz (B.getG a)) (fopnd fp32 s.pfx.ftz (B.getG b))))

/-- `fmac.s` (R161): one rounding of the old `gd` plus the product. -/
def execFmacS (d a b : GReg) (s : State) : Out :=
  s.unit4 (fun B => B.roundTo fp32 s.pfx d (xadd (s.pfx.round == 3) (fopnd fp32 s.pfx.ftz (B.getG d)) (xmul (fopnd fp32 s.pfx.ftz (B.getG a)) (fopnd fp32 s.pfx.ftz (B.getG b)))))

/-- `fabs.s` (R161, R162). -/
def execFabsS (d a : GReg) (s : State) : Out :=
  s.unit4 (fun B => B.putRaw fp32 d (fopnd fp32 s.pfx.ftz (B.getG a)).abs)

/-- `fneg.s` (R161, R162). -/
def execFnegS (d a : GReg) (s : State) : Out :=
  s.unit4 (fun B => B.putRaw fp32 d (fopnd fp32 s.pfx.ftz (B.getG a)).neg)

/-- `fcmp.eq.s` (R163). -/
def execFcmpEqS (d : PReg) (a b : GReg) (s : State) : Out :=
  s.unit4 (fun B => B.setP d (fcmp fp32 0 s.pfx.ftz (B.getG a) (B.getG b)))

/-- `fcmp.lt.s` (R163). -/
def execFcmpLtS (d : PReg) (a b : GReg) (s : State) : Out :=
  s.unit4 (fun B => B.setP d (fcmp fp32 1 s.pfx.ftz (B.getG a) (B.getG b)))

/-- `fcmp.le.s` (R163). -/
def execFcmpLeS (d : PReg) (a b : GReg) (s : State) : Out :=
  s.unit4 (fun B => B.setP d (fcmp fp32 2 s.pfx.ftz (B.getG a) (B.getG b)))

/-- `fcmp.un.s` (R163). -/
def execFcmpUnS (d : PReg) (a b : GReg) (s : State) : Out :=
  s.unit4 (fun B => B.setP d (fcmp fp32 3 s.pfx.ftz (B.getG a) (B.getG b)))

/-- `fcmp.eq.d` (R163). -/
def execFcmpEqD (d : PReg) (a b : GReg) (s : State) : Out :=
  s.unit4 (fun B => B.setP d (fcmp fp64 0 s.pfx.ftz (B.getG a) (B.getG b)))

/-- `fcmp.lt.d` (R163). -/
def execFcmpLtD (d : PReg) (a b : GReg) (s : State) : Out :=
  s.unit4 (fun B => B.setP d (fcmp fp64 1 s.pfx.ftz (B.getG a) (B.getG b)))

/-- `fcmp.le.d` (R163). -/
def execFcmpLeD (d : PReg) (a b : GReg) (s : State) : Out :=
  s.unit4 (fun B => B.setP d (fcmp fp64 2 s.pfx.ftz (B.getG a) (B.getG b)))

/-- `fcmp.un.d` (R163). -/
def execFcmpUnD (d : PReg) (a b : GReg) (s : State) : Out :=
  s.unit4 (fun B => B.setP d (fcmp fp64 3 s.pfx.ftz (B.getG a) (B.getG b)))

/-- `cvt` to and from DI (R164, R108). -/
def execCvtDI (d a : GReg) (s : State) : Out :=
  s.unit4 (fun B => B.roundTo fp64 s.pfx d (fopnd (.int 64 true) s.pfx.ftz (B.getG a)))

/-- `cvt` to and from DN (R164, R108). -/
def execCvtDN (d a : GReg) (s : State) : Out :=
  s.unit4 (fun B => B.roundTo fp64 s.pfx d (fopnd (.int 64 false) s.pfx.ftz (B.getG a)))

/-- `cvt` to and from ID (R164, R108). -/
def execCvtID (d a : GReg) (s : State) : Out :=
  s.unit4 (fun B => B.roundTo (.int 64 true) s.pfx d (fopnd fp64 s.pfx.ftz (B.getG a)))

/-- `cvt` to and from ND (R164, R108). -/
def execCvtND (d a : GReg) (s : State) : Out :=
  s.unit4 (fun B => B.roundTo (.int 64 false) s.pfx d (fopnd fp64 s.pfx.ftz (B.getG a)))

/-- `cvt` to and from SD (R164, R108). -/
def execCvtSD (d a : GReg) (s : State) : Out :=
  s.unit4 (fun B => B.roundTo fp32 s.pfx d (fopnd fp64 s.pfx.ftz (B.getG a)))

/-- `cvt` to and from DS (R164, R108). -/
def execCvtDS (d a : GReg) (s : State) : Out :=
  s.unit4 (fun B => B.roundTo fp64 s.pfx d (fopnd fp32 s.pfx.ftz (B.getG a)))

/-- `cvt` to and from SI (R164, R108). -/
def execCvtSI (d a : GReg) (s : State) : Out :=
  s.unit4 (fun B => B.roundTo fp32 s.pfx d (fopnd (.int 64 true) s.pfx.ftz (B.getG a)))

/-- `cvt` to and from IS (R164, R108). -/
def execCvtIS (d a : GReg) (s : State) : Out :=
  s.unit4 (fun B => B.roundTo (.int 64 true) s.pfx d (fopnd fp32 s.pfx.ftz (B.getG a)))

/-- `cvt` to and from HS (R164, R108). -/
def execCvtHS (d a : GReg) (s : State) : Out :=
  s.unit4 (fun B => B.roundTo fp16 s.pfx d (fopnd fp32 s.pfx.ftz (B.getG a)))

/-- `cvt` to and from SH (R164, R108). -/
def execCvtSH (d a : GReg) (s : State) : Out :=
  s.unit4 (fun B => B.roundTo fp32 s.pfx d (fopnd fp16 s.pfx.ftz (B.getG a)))

/-- `cvt` to and from BfS (R164, R108). -/
def execCvtBfS (d a : GReg) (s : State) : Out :=
  s.unit4 (fun B => B.roundTo bf16 s.pfx d (fopnd fp32 s.pfx.ftz (B.getG a)))

/-- `cvt` to and from SBf (R164, R108). -/
def execCvtSBf (d a : GReg) (s : State) : Out :=
  s.unit4 (fun B => B.roundTo fp32 s.pfx d (fopnd bf16 s.pfx.ftz (B.getG a)))

end Sys2Proof.Machine
end

