-- ==== Sys2Proof/Machine/Record.lean ====
section
/-! DEFINITION. The engine records as C executes them: C appends the record to its queue and goes on (R31, R140, R230, R264). What the
record then does is in Queue.lean and Engine.lean. -/

namespace Sys2Proof.Machine

/-- `l.tile` (R240, R241): queue L, operation 0. -/
def execLTile (r : Rec) (s : State) : Out := .next (s.appendRecord 0 0 r)

/-- `l.gth` (R240, R241): queue L, operation 1. -/
def execLGth (r : Rec) (s : State) : Out := .next (s.appendRecord 0 1 r)

/-- `l.mc` (R240, R243, R244): queue L, operation 2. -/
def execLMc (r : Rec) (s : State) : Out := .next (s.appendRecord 0 2 r)

/-- `l.sc` (R240, R241): queue L, operation 3. -/
def execLSc (r : Rec) (s : State) : Out := .next (s.appendRecord 0 3 r)

/-- `l.acc` (R240, R241): queue L, operation 4. -/
def execLAcc (r : Rec) (s : State) : Out := .next (s.appendRecord 0 4 r)

/-- `l.zero` (R240, R241): queue L, operation 5. -/
def execLZero (r : Rec) (s : State) : Out := .next (s.appendRecord 0 5 r)

/-- `l.pf` (R240, R242): queue L, operation 6. -/
def execLPf (r : Rec) (s : State) : Out := .next (s.appendRecord 0 6 r)

/-- `l.cv` (R240, R241): queue L, operation 7. -/
def execLCv (r : Rec) (s : State) : Out := .next (s.appendRecord 0 7 r)

/-- `mma` (R113, R114, R246): queue X, operation 0. -/
def execMma (r : Rec) (s : State) : Out := .next (s.appendRecord 1 0 r)

/-- `mma.sp` (R112, R114, R247, R412): queue X, operation 1. -/
def execMmaSp (r : Rec) (s : State) : Out := .next (s.appendRecord 1 1 r)

/-- `acc.zero` (R248): queue X, operation 2. -/
def execAccZero (r : Rec) (s : State) : Out := .next (s.appendRecord 1 2 r)

/-- `acc.copy` (R248): queue X, operation 3. -/
def execAccCopy (r : Rec) (s : State) : Out := .next (s.appendRecord 1 3 r)

/-- `v.add` (R249, R250): queue X, operation 16. -/
def execVAdd (r : Rec) (s : State) : Out := .next (s.appendRecord 1 16 r)

/-- `v.sub` (R249, R250): queue X, operation 17. -/
def execVSub (r : Rec) (s : State) : Out := .next (s.appendRecord 1 17 r)

/-- `v.mul` (R249, R250): queue X, operation 18. -/
def execVMul (r : Rec) (s : State) : Out := .next (s.appendRecord 1 18 r)

/-- `v.fma` (R249, R250): queue X, operation 19. -/
def execVFma (r : Rec) (s : State) : Out := .next (s.appendRecord 1 19 r)

/-- `v.min` (R249, R250): queue X, operation 20. -/
def execVMin (r : Rec) (s : State) : Out := .next (s.appendRecord 1 20 r)

/-- `v.max` (R249, R250): queue X, operation 21. -/
def execVMax (r : Rec) (s : State) : Out := .next (s.appendRecord 1 21 r)

/-- `v.abs` (R249, R250): queue X, operation 22. -/
def execVAbs (r : Rec) (s : State) : Out := .next (s.appendRecord 1 22 r)

/-- `v.neg` (R249, R250): queue X, operation 23. -/
def execVNeg (r : Rec) (s : State) : Out := .next (s.appendRecord 1 23 r)

/-- `v.sel` (R249, R250): queue X, operation 24. -/
def execVSel (r : Rec) (s : State) : Out := .next (s.appendRecord 1 24 r)

/-- `v.cmp` (R249, R250): queue X, operation 25. -/
def execVCmp (r : Rec) (s : State) : Out := .next (s.appendRecord 1 25 r)

/-- `v.cvt` (R249, R250): queue X, operation 26. -/
def execVCvt (r : Rec) (s : State) : Out := .next (s.appendRecord 1 26 r)

/-- `v.mov` (R249, R250): queue X, operation 27. -/
def execVMov (r : Rec) (s : State) : Out := .next (s.appendRecord 1 27 r)

/-- `v.bcast` (R249, R250): queue X, operation 28. -/
def execVBcast (r : Rec) (s : State) : Out := .next (s.appendRecord 1 28 r)

/-- `v.and` (R249, R250): queue X, operation 29. -/
def execVAnd (r : Rec) (s : State) : Out := .next (s.appendRecord 1 29 r)

/-- `v.or` (R249, R250): queue X, operation 30. -/
def execVOr (r : Rec) (s : State) : Out := .next (s.appendRecord 1 30 r)

/-- `v.xor` (R249, R250): queue X, operation 31. -/
def execVXor (r : Rec) (s : State) : Out := .next (s.appendRecord 1 31 r)

/-- `v.shl` (R249, R250): queue X, operation 32. -/
def execVShl (r : Rec) (s : State) : Out := .next (s.appendRecord 1 32 r)

/-- `v.shr` (R249, R250): queue X, operation 33. -/
def execVShr (r : Rec) (s : State) : Out := .next (s.appendRecord 1 33 r)

/-- `v.exp2` (R249, R251): queue X, operation 34. -/
def execVExp2 (r : Rec) (s : State) : Out := .next (s.appendRecord 1 34 r)

/-- `v.log2` (R249, R251): queue X, operation 35. -/
def execVLog2 (r : Rec) (s : State) : Out := .next (s.appendRecord 1 35 r)

/-- `v.rcp` (R249, R251): queue X, operation 36. -/
def execVRcp (r : Rec) (s : State) : Out := .next (s.appendRecord 1 36 r)

/-- `v.rsqrt` (R249, R251): queue X, operation 37. -/
def execVRsqrt (r : Rec) (s : State) : Out := .next (s.appendRecord 1 37 r)

/-- `v.tanh` (R249, R251): queue X, operation 38. -/
def execVTanh (r : Rec) (s : State) : Out := .next (s.appendRecord 1 38 r)

/-- `v.clamp` (R249, R250): queue X, operation 39. -/
def execVClamp (r : Rec) (s : State) : Out := .next (s.appendRecord 1 39 r)

/-- `r.sum` (R252): queue X, operation 48. -/
def execRSum (r : Rec) (s : State) : Out := .next (s.appendRecord 1 48 r)

/-- `r.max` (R252): queue X, operation 49. -/
def execRMax (r : Rec) (s : State) : Out := .next (s.appendRecord 1 49 r)

/-- `r.min` (R252): queue X, operation 50. -/
def execRMin (r : Rec) (s : State) : Out := .next (s.appendRecord 1 50 r)

/-- `r.amax` (R252): queue X, operation 51. -/
def execRAmax (r : Rec) (s : State) : Out := .next (s.appendRecord 1 51 r)

/-- `r.argmax` (R253): queue X, operation 52. -/
def execRArgmax (r : Rec) (s : State) : Out := .next (s.appendRecord 1 52 r)

/-- `r.topk` (R253): queue X, operation 53. -/
def execRTopk (r : Rec) (s : State) : Out := .next (s.appendRecord 1 53 r)

/-- `x.tr` (R254): queue X, operation 64. -/
def execXTr (r : Rec) (s : State) : Out := .next (s.appendRecord 1 64 r)

/-- `x.gth` (R255): queue X, operation 65. -/
def execXGth (r : Rec) (s : State) : Out := .next (s.appendRecord 1 65 r)

/-- `sdf.smp` (R274–R276): queue X, operation 80. -/
def execSdfSmp (r : Rec) (s : State) : Out := .next (s.appendRecord 1 80 r)

/-- `sweep` (R274, R275, R277, R278): queue X, operation 81. -/
def execSweep (r : Rec) (s : State) : Out := .next (s.appendRecord 1 81 r)

/-- `s.tile` (R256, R257): queue S, operation 0. -/
def execSTile (r : Rec) (s : State) : Out := .next (s.appendRecord 2 0 r)

/-- `s.quant` (R258): queue S, operation 1. -/
def execSQuant (r : Rec) (s : State) : Out := .next (s.appendRecord 2 1 r)

/-- `s.scat` (R256, R257): queue S, operation 2. -/
def execSScat (r : Rec) (s : State) : Out := .next (s.appendRecord 2 2 r)

/-- `s.red` (R259): queue S, operation 3. -/
def execSRed (r : Rec) (s : State) : Out := .next (s.appendRecord 2 3 r)

/-- `s.meet` (R260): queue S, operation 4. -/
def execSMeet (r : Rec) (s : State) : Out := .next (s.appendRecord 2 4 r)

/-- `s.ckpt` (R261, R262): queue S, operation 5. -/
def execSCkpt (r : Rec) (s : State) : Out := .next (s.appendRecord 2 5 r)

/-- `s.ring` (R263): queue S, operation 6. -/
def execSRing (r : Rec) (s : State) : Out := .next (s.appendRecord 2 6 r)

end Sys2Proof.Machine
end

