-- ==== Sys2Proof/Machine/Start.lean ====
section
/-! DEFINITION. The start of an accepted launch (R38, R39, R53, R282, R283, R294, R318, R327, R404, R430, R468). -/

namespace Sys2Proof.Machine

/-- Places n strands of a stage, if there is room for all and no stage of another launch comes before it (R38, R282, R283); what is parked in a berth's bank
is written out first (R294). -/
def State.placeMany (s : State) (ctx lsl stg : Nat) : Nat → Option State
  | 0 => some s
  | n + 1 => match s.bestBerth ctx lsl stg with
    | none => none
    | some b => if s.rivalFor (ctx, lsl, stg) b then none else
      ((s.unpark (fun _ e => bankOf e = some b)).placeStrand b ctx lsl stg).placeMany ctx lsl stg n

/-- Places the `smin` strands of every stage together, a stage of higher effective priority first (R38, R282, R283). -/
def State.placeMins (s : State) (ctx lsl : Nat) : Option State :=
  let l := s.launch ctx lsl
  (s.ranked ctx lsl).foldl (fun o i => o.bind (fun s => s.placeMany ctx lsl i (l.smin i))) (some s)

/-- An accepted launch gets its START records and its berths, and runs. -/
def State.startRun (s : State) (ctx lsl : Nat) : State :=
  match s.startRecord ctx lsl 0 with
  | .hold => s
  | .bad s => s
  | .go s1 => match s1.startRecord ctx lsl 1 with
    | .hold => s1
    | .bad s => s
    | .go s2 =>
      let l := s2.launch ctx lsl
      let rival := l.early && s2.predRuns ctx lsl && (List.range 8).any (fun i => s2.wants ctx (1 - lsl) i)
      if rival then s2 else
      match s2.placeMins ctx lsl with
      | none => s2
      | some s3 => s3.updLaunch ctx lsl (fun l => { l with st := .running })

/-- LAUNCH_START (R38, R39, R53, R318, R404, R430, R468): the next launch of context `arg.ctx` is skipped, refused or accepted; one
that has been accepted starts once its berths are free, and is considered anew when a change of view has made its level or its stacks wrong. A pair's
result that has still to be written is written first (R327). -/
def execLaunchStart (s : State) : Out :=
  let ctx := s.arg.ctx
  let c := s.ctx ctx
  .next (match c.rdnRes with
  | some (i, e, r) => if c.pnd || c.frozen then s else s.rdnResult ctx i e r
  | none => match c.launches.find? (fun l => l.st == .waitBerths) with
  | some l => if s.drn || c.pnd || c.frozen then s
      else if s.stillRight ctx l then s.startRun ctx (l.seq % 2)
      else s.updLaunch ctx (l.seq % 2) (fun l => { l with st := .queued })
  | none => match c.launches.find? (fun l => l.st == .queued) with
    | none => s
    | some l0 =>
      if !(s.mayStart ctx l0) then s else
      -- copy C's record is read now (R327)
      let rd : Except MFault Launch := match l0.rdnC with
        | none => .ok l0
        | some i => match s.readVA ctx (fld ((s.rdnEntry ctx i).getD 0) 384 50) 384 with
          | .error f => .error f
          | .ok bs => .ok { l0 with rcd := leNat bs }
      match rd with
      | .error f => s.deviceFault ctx f 9 l0.seq
      | .ok l =>
        let s := s.updNext ctx (fun _ => [l])
        if c.skipLvl && !l.recovery && l.rdnC.isNone && s.ctxLevel ctx != some (l.f 68 2) then s.skip ctx l
        else match s.refusal ctx l with
          | some code => (s.updNext ctx (fun l => [{ l with st := .refused }])).reportOpen ctx code l.seq
          | none => s.accept ctx l (c.launches.any (fun p => p.st == .running)))

end Sys2Proof.Machine
end

