-- ==== Sys2Proof/Machine/Dispatch.lean ====
section
/-! DEFINITION. The meaning of every instruction and event, one arm per constructor. -/

namespace Sys2Proof.Machine

def exec (i : Instr) (s : State) : Host.Outcome State Fault Refusal :=
  match i with
  | .nop => Sys2Proof.Machine.execNop s
  | .brk n => Sys2Proof.Machine.execBrk n s
  | .tgt => Sys2Proof.Machine.execTgt s
  | .sysc n => Sys2Proof.Machine.execSysc n s
  | .eret => Sys2Proof.Machine.execEret s
  | .yield => Sys2Proof.Machine.execYield s
  | .mod => Sys2Proof.Machine.execMod s
  | .unassignedEncoding => Sys2Proof.Machine.execUnassignedEncoding s
  | .misalignedItem => Sys2Proof.Machine.execMisalignedItem s
  | .add d a b => Sys2Proof.Machine.execAdd d a b s
  | .sub d a b => Sys2Proof.Machine.execSub d a b s
  | .mul d a b => Sys2Proof.Machine.execMul d a b s
  | .mulh d a b => Sys2Proof.Machine.execMulh d a b s
  | .mulhn d a b => Sys2Proof.Machine.execMulhn d a b s
  | .div d a b => Sys2Proof.Machine.execDiv d a b s
  | .divn d a b => Sys2Proof.Machine.execDivn d a b s
  | .rem d a b => Sys2Proof.Machine.execRem d a b s
  | .remn d a b => Sys2Proof.Machine.execRemn d a b s
  | .and d a b => Sys2Proof.Machine.execAnd d a b s
  | .or d a b => Sys2Proof.Machine.execOr d a b s
  | .xor d a b => Sys2Proof.Machine.execXor d a b s
  | .andn d a b => Sys2Proof.Machine.execAndn d a b s
  | .orn d a b => Sys2Proof.Machine.execOrn d a b s
  | .shl d a b => Sys2Proof.Machine.execShl d a b s
  | .shr d a b => Sys2Proof.Machine.execShr d a b s
  | .sra d a b => Sys2Proof.Machine.execSra d a b s
  | .rol d a b => Sys2Proof.Machine.execRol d a b s
  | .min d a b => Sys2Proof.Machine.execMin d a b s
  | .max d a b => Sys2Proof.Machine.execMax d a b s
  | .minn d a b => Sys2Proof.Machine.execMinn d a b s
  | .maxn d a b => Sys2Proof.Machine.execMaxn d a b s
  | .clz d a => Sys2Proof.Machine.execClz d a s
  | .ctz d a => Sys2Proof.Machine.execCtz d a s
  | .pop d a => Sys2Proof.Machine.execPop d a s
  | .bswap d a => Sys2Proof.Machine.execBswap d a s
  | .adds d a b => Sys2Proof.Machine.execAdds d a b s
  | .subs d a b => Sys2Proof.Machine.execSubs d a b s
  | .addi d a imm => Sys2Proof.Machine.execAddi d a imm s
  | .andi d a imm => Sys2Proof.Machine.execAndi d a imm s
  | .ori d a imm => Sys2Proof.Machine.execOri d a imm s
  | .xori d a imm => Sys2Proof.Machine.execXori d a imm s
  | .shli d a sh => Sys2Proof.Machine.execShli d a sh s
  | .shri d a sh => Sys2Proof.Machine.execShri d a sh s
  | .srai d a sh => Sys2Proof.Machine.execSrai d a sh s
  | .roli d a sh => Sys2Proof.Machine.execRoli d a sh s
  | .cmpEq d a b => Sys2Proof.Machine.execCmpEq d a b s
  | .cmpNe d a b => Sys2Proof.Machine.execCmpNe d a b s
  | .cmpLt d a b => Sys2Proof.Machine.execCmpLt d a b s
  | .cmpLe d a b => Sys2Proof.Machine.execCmpLe d a b s
  | .cmpLtn d a b => Sys2Proof.Machine.execCmpLtn d a b s
  | .cmpLen d a b => Sys2Proof.Machine.execCmpLen d a b s
  | .cmpi cc d a imm => Sys2Proof.Machine.execCmpi cc d a imm s
  | .pand d a b => Sys2Proof.Machine.execPand d a b s
  | .por d a b => Sys2Proof.Machine.execPor d a b s
  | .pxor d a b => Sys2Proof.Machine.execPxor d a b s
  | .pandn d a b => Sys2Proof.Machine.execPandn d a b s
  | .sel d a b pn inv => Sys2Proof.Machine.execSel d a b pn inv s
  | .faddD d a b => Sys2Proof.Machine.execFaddD d a b s
  | .fsubD d a b => Sys2Proof.Machine.execFsubD d a b s
  | .fmulD d a b => Sys2Proof.Machine.execFmulD d a b s
  | .fdivD d a b => Sys2Proof.Machine.execFdivD d a b s
  | .fsqrtD d a => Sys2Proof.Machine.execFsqrtD d a s
  | .fminD d a b => Sys2Proof.Machine.execFminD d a b s
  | .fmaxD d a b => Sys2Proof.Machine.execFmaxD d a b s
  | .fmacD d a b => Sys2Proof.Machine.execFmacD d a b s
  | .fabsD d a => Sys2Proof.Machine.execFabsD d a s
  | .fnegD d a => Sys2Proof.Machine.execFnegD d a s
  | .faddS d a b => Sys2Proof.Machine.execFaddS d a b s
  | .fsubS d a b => Sys2Proof.Machine.execFsubS d a b s
  | .fmulS d a b => Sys2Proof.Machine.execFmulS d a b s
  | .fdivS d a b => Sys2Proof.Machine.execFdivS d a b s
  | .fsqrtS d a => Sys2Proof.Machine.execFsqrtS d a s
  | .fminS d a b => Sys2Proof.Machine.execFminS d a b s
  | .fmaxS d a b => Sys2Proof.Machine.execFmaxS d a b s
  | .fmacS d a b => Sys2Proof.Machine.execFmacS d a b s
  | .fabsS d a => Sys2Proof.Machine.execFabsS d a s
  | .fnegS d a => Sys2Proof.Machine.execFnegS d a s
  | .fcmpEqS d a b => Sys2Proof.Machine.execFcmpEqS d a b s
  | .fcmpLtS d a b => Sys2Proof.Machine.execFcmpLtS d a b s
  | .fcmpLeS d a b => Sys2Proof.Machine.execFcmpLeS d a b s
  | .fcmpUnS d a b => Sys2Proof.Machine.execFcmpUnS d a b s
  | .fcmpEqD d a b => Sys2Proof.Machine.execFcmpEqD d a b s
  | .fcmpLtD d a b => Sys2Proof.Machine.execFcmpLtD d a b s
  | .fcmpLeD d a b => Sys2Proof.Machine.execFcmpLeD d a b s
  | .fcmpUnD d a b => Sys2Proof.Machine.execFcmpUnD d a b s
  | .cvtDI d a => Sys2Proof.Machine.execCvtDI d a s
  | .cvtDN d a => Sys2Proof.Machine.execCvtDN d a s
  | .cvtID d a => Sys2Proof.Machine.execCvtID d a s
  | .cvtND d a => Sys2Proof.Machine.execCvtND d a s
  | .cvtSD d a => Sys2Proof.Machine.execCvtSD d a s
  | .cvtDS d a => Sys2Proof.Machine.execCvtDS d a s
  | .cvtSI d a => Sys2Proof.Machine.execCvtSI d a s
  | .cvtIS d a => Sys2Proof.Machine.execCvtIS d a s
  | .cvtHS d a => Sys2Proof.Machine.execCvtHS d a s
  | .cvtSH d a => Sys2Proof.Machine.execCvtSH d a s
  | .cvtBfS d a => Sys2Proof.Machine.execCvtBfS d a s
  | .cvtSBf d a => Sys2Proof.Machine.execCvtSBf d a s
  | .bra off => Sys2Proof.Machine.execBra off s
  | .bp p neg off => Sys2Proof.Machine.execBp p neg off s
  | .call off => Sys2Proof.Machine.execCall off s
  | .jr a => Sys2Proof.Machine.execJr a s
  | .callr a => Sys2Proof.Machine.execCallr a s
  | .ret => Sys2Proof.Machine.execRet s
  | .ldB d a sp off => Sys2Proof.Machine.execLdB d a sp off s
  | .ldBn d a sp off => Sys2Proof.Machine.execLdBn d a sp off s
  | .ldH d a sp off => Sys2Proof.Machine.execLdH d a sp off s
  | .ldHn d a sp off => Sys2Proof.Machine.execLdHn d a sp off s
  | .ldW d a sp off => Sys2Proof.Machine.execLdW d a sp off s
  | .ldWn d a sp off => Sys2Proof.Machine.execLdWn d a sp off s
  | .ldD d a sp off => Sys2Proof.Machine.execLdD d a sp off s
  | .stB d a sp off => Sys2Proof.Machine.execStB d a sp off s
  | .stH d a sp off => Sys2Proof.Machine.execStH d a sp off s
  | .stW d a sp off => Sys2Proof.Machine.execStW d a sp off s
  | .stD d a sp off => Sys2Proof.Machine.execStD d a sp off s
  | .loadWriteback => Sys2Proof.Machine.execLoadWriteback s
  | .pub sc => Sys2Proof.Machine.execPub sc s
  | .ref sc => Sys2Proof.Machine.execRef sc s
  | .phase sc => Sys2Proof.Machine.execPhase sc s
  | .fenceSc => Sys2Proof.Machine.execFenceSc s
  | .fenceIo => Sys2Proof.Machine.execFenceIo s
  | .waitpv => Sys2Proof.Machine.execWaitpv s
  | .sms => Sys2Proof.Machine.execSms s
  | .tokp f => Sys2Proof.Machine.execTokp f s
  | .tokw f => Sys2Proof.Machine.execTokw f s
  | .qwait a k => Sys2Proof.Machine.execQwait a k s
  | .qseq d k => Sys2Proof.Machine.execQseq d k s
  | .qdrain => Sys2Proof.Machine.execQdrain s
  | .racq d q => Sys2Proof.Machine.execRacq d q s
  | .rrel q b => Sys2Proof.Machine.execRrel q b s
  | .rwait d q => Sys2Proof.Machine.execRwait d q s
  | .rpop q => Sys2Proof.Machine.execRpop q s
  | .rtest d q k => Sys2Proof.Machine.execRtest d q k s
  | .rstat d q => Sys2Proof.Machine.execRstat d q s
  | .bara d a => Sys2Proof.Machine.execBara d a s
  | .barad d a => Sys2Proof.Machine.execBarad d a s
  | .barw a b => Sys2Proof.Machine.execBarw a b s
  | .bart d a b => Sys2Proof.Machine.execBart d a b s
  | .barx a b => Sys2Proof.Machine.execBarx a b s
  | .barq d a => Sys2Proof.Machine.execBarq d a s
  | .gjoin d a => Sys2Proof.Machine.execGjoin d a s
  | .gleave => Sys2Proof.Machine.execGleave s
  | .gsize d a => Sys2Proof.Machine.execGsize d a s
  | .grank d => Sys2Proof.Machine.execGrank d s
  | .tagal d a b => Sys2Proof.Machine.execTagal d a b s
  | .tagfr a => Sys2Proof.Machine.execTagfr a s
  | .tagq d a => Sys2Proof.Machine.execTagq d a s
  | .tsub d a b => Sys2Proof.Machine.execTsub d a b s
  | .tdone => Sys2Proof.Machine.execTdone s
  | .tdep a => Sys2Proof.Machine.execTdep a s
  | .tstage => Sys2Proof.Machine.execTstage s
  | .tinfo d k => Sys2Proof.Machine.execTinfo d k s
  | .pqins d a b => Sys2Proof.Machine.execPqins d a b s
  | .pqpop d f st b => Sys2Proof.Machine.execPqpop d f st b s
  | .pqpeek d f st b => Sys2Proof.Machine.execPqpeek d f st b s
  | .pqinv a b => Sys2Proof.Machine.execPqinv a b s
  | .pqclr b => Sys2Proof.Machine.execPqclr b s
  | .pqcnt d b => Sys2Proof.Machine.execPqcnt d b s
  | .mfs d n => Sys2Proof.Machine.execMfs d n s
  | .mts n a => Sys2Proof.Machine.execMts n a s
  | .rnd d => Sys2Proof.Machine.execRnd d s
  | .rndk a b => Sys2Proof.Machine.execRndk a b s
  | .chkerr d => Sys2Proof.Machine.execChkerr d s
  | .sigr d => Sys2Proof.Machine.execSigr d s
  | .logm a => Sys2Proof.Machine.execLogm a s
  | .logq d k => Sys2Proof.Machine.execLogq d k s
  | .accrd d a => Sys2Proof.Machine.execAccrd d a s
  | .accwr d a => Sys2Proof.Machine.execAccwr d a s
  | .rpw d a b => Sys2Proof.Machine.execRpw d a b s
  | .rpr d a b => Sys2Proof.Machine.execRpr d a b s
  | .rpt d a => Sys2Proof.Machine.execRpt d a s
  | .rawPacketComplete => Sys2Proof.Machine.execRawPacketComplete s
  | .smov d a => Sys2Proof.Machine.execSmov d a s
  | .sld d a => Sys2Proof.Machine.execSld d a s
  | .sst d a => Sys2Proof.Machine.execSst d a s
  | .rwopen d a b => Sys2Proof.Machine.execRwopen d a b s
  | .rwclose a => Sys2Proof.Machine.execRwclose a s
  | .movi d imm => Sys2Proof.Machine.execMovi d imm s
  | .movhi d imm => Sys2Proof.Machine.execMovhi d imm s
  | .addwi d a imm => Sys2Proof.Machine.execAddwi d a imm s
  | .cmpwi cc d a imm => Sys2Proof.Machine.execCmpwi cc d a imm s
  | .braw p neg imm => Sys2Proof.Machine.execBraw p neg imm s
  | .callw => Sys2Proof.Machine.execCallw s
  | .lea d a imm => Sys2Proof.Machine.execLea d a imm s
  | .ldlB d a imm => Sys2Proof.Machine.execLdlB d a imm s
  | .ldlBn d a imm => Sys2Proof.Machine.execLdlBn d a imm s
  | .ldlH d a imm => Sys2Proof.Machine.execLdlH d a imm s
  | .ldlHn d a imm => Sys2Proof.Machine.execLdlHn d a imm s
  | .ldlW d a imm => Sys2Proof.Machine.execLdlW d a imm s
  | .ldlWn d a imm => Sys2Proof.Machine.execLdlWn d a imm s
  | .ldlD d a imm => Sys2Proof.Machine.execLdlD d a imm s
  | .stlB d a imm => Sys2Proof.Machine.execStlB d a imm s
  | .stlH d a imm => Sys2Proof.Machine.execStlH d a imm s
  | .stlW d a imm => Sys2Proof.Machine.execStlW d a imm s
  | .stlD d a imm => Sys2Proof.Machine.execStlD d a imm s
  | .atomAdd d a b w o sc ord => Sys2Proof.Machine.execAtomAdd d a b w o sc ord s
  | .atomSub d a b w o sc ord => Sys2Proof.Machine.execAtomSub d a b w o sc ord s
  | .atomAnd d a b w o sc ord => Sys2Proof.Machine.execAtomAnd d a b w o sc ord s
  | .atomOr d a b w o sc ord => Sys2Proof.Machine.execAtomOr d a b w o sc ord s
  | .atomXor d a b w o sc ord => Sys2Proof.Machine.execAtomXor d a b w o sc ord s
  | .atomMin d a b w o sc ord => Sys2Proof.Machine.execAtomMin d a b w o sc ord s
  | .atomMax d a b w o sc ord => Sys2Proof.Machine.execAtomMax d a b w o sc ord s
  | .atomMinn d a b w o sc ord => Sys2Proof.Machine.execAtomMinn d a b w o sc ord s
  | .atomMaxn d a b w o sc ord => Sys2Proof.Machine.execAtomMaxn d a b w o sc ord s
  | .atomXchg d a b w o sc ord => Sys2Proof.Machine.execAtomXchg d a b w o sc ord s
  | .atomCas d a b c o sc ord => Sys2Proof.Machine.execAtomCas d a b c o sc ord s
  | .atomFaddS d a b o sc ord => Sys2Proof.Machine.execAtomFaddS d a b o sc ord s
  | .atomFaddD d a b o sc ord => Sys2Proof.Machine.execAtomFaddD d a b o sc ord s
  | .atomFmaxS d a b o sc ord => Sys2Proof.Machine.execAtomFmaxS d a b o sc ord s
  | .atomFminS d a b o sc ord => Sys2Proof.Machine.execAtomFminS d a b o sc ord s
  | .sdef d a b c fmt spc sb => Sys2Proof.Machine.execSdef d a b c fmt spc sb s
  | .plive => Sys2Proof.Machine.execPlive s
  | .segb => Sys2Proof.Machine.execSegb s
  | .sege => Sys2Proof.Machine.execSege s
  | .lTile r => Sys2Proof.Machine.execLTile r s
  | .lGth r => Sys2Proof.Machine.execLGth r s
  | .lMc r => Sys2Proof.Machine.execLMc r s
  | .lSc r => Sys2Proof.Machine.execLSc r s
  | .lAcc r => Sys2Proof.Machine.execLAcc r s
  | .lZero r => Sys2Proof.Machine.execLZero r s
  | .lPf r => Sys2Proof.Machine.execLPf r s
  | .lCv r => Sys2Proof.Machine.execLCv r s
  | .mma r => Sys2Proof.Machine.execMma r s
  | .mmaSp r => Sys2Proof.Machine.execMmaSp r s
  | .accZero r => Sys2Proof.Machine.execAccZero r s
  | .accCopy r => Sys2Proof.Machine.execAccCopy r s
  | .vAdd r => Sys2Proof.Machine.execVAdd r s
  | .vSub r => Sys2Proof.Machine.execVSub r s
  | .vMul r => Sys2Proof.Machine.execVMul r s
  | .vFma r => Sys2Proof.Machine.execVFma r s
  | .vMin r => Sys2Proof.Machine.execVMin r s
  | .vMax r => Sys2Proof.Machine.execVMax r s
  | .vAbs r => Sys2Proof.Machine.execVAbs r s
  | .vNeg r => Sys2Proof.Machine.execVNeg r s
  | .vSel r => Sys2Proof.Machine.execVSel r s
  | .vCmp r => Sys2Proof.Machine.execVCmp r s
  | .vCvt r => Sys2Proof.Machine.execVCvt r s
  | .vMov r => Sys2Proof.Machine.execVMov r s
  | .vBcast r => Sys2Proof.Machine.execVBcast r s
  | .vAnd r => Sys2Proof.Machine.execVAnd r s
  | .vOr r => Sys2Proof.Machine.execVOr r s
  | .vXor r => Sys2Proof.Machine.execVXor r s
  | .vShl r => Sys2Proof.Machine.execVShl r s
  | .vShr r => Sys2Proof.Machine.execVShr r s
  | .vExp2 r => Sys2Proof.Machine.execVExp2 r s
  | .vLog2 r => Sys2Proof.Machine.execVLog2 r s
  | .vRcp r => Sys2Proof.Machine.execVRcp r s
  | .vRsqrt r => Sys2Proof.Machine.execVRsqrt r s
  | .vTanh r => Sys2Proof.Machine.execVTanh r s
  | .vClamp r => Sys2Proof.Machine.execVClamp r s
  | .rSum r => Sys2Proof.Machine.execRSum r s
  | .rMax r => Sys2Proof.Machine.execRMax r s
  | .rMin r => Sys2Proof.Machine.execRMin r s
  | .rAmax r => Sys2Proof.Machine.execRAmax r s
  | .rArgmax r => Sys2Proof.Machine.execRArgmax r s
  | .rTopk r => Sys2Proof.Machine.execRTopk r s
  | .xTr r => Sys2Proof.Machine.execXTr r s
  | .xGth r => Sys2Proof.Machine.execXGth r s
  | .sdfSmp r => Sys2Proof.Machine.execSdfSmp r s
  | .sweep r => Sys2Proof.Machine.execSweep r s
  | .sTile r => Sys2Proof.Machine.execSTile r s
  | .sQuant r => Sys2Proof.Machine.execSQuant r s
  | .sScat r => Sys2Proof.Machine.execSScat r s
  | .sRed r => Sys2Proof.Machine.execSRed r s
  | .sMeet r => Sys2Proof.Machine.execSMeet r s
  | .sCkpt r => Sys2Proof.Machine.execSCkpt r s
  | .sRing r => Sys2Proof.Machine.execSRing r s
  | .recordStart => Sys2Proof.Machine.execRecordStart s
  | .recordIssue => Sys2Proof.Machine.execRecordIssue s
  | .recordRetire => Sys2Proof.Machine.execRecordRetire s
  | .waitSatisfied => Sys2Proof.Machine.execWaitSatisfied s
  | .strandPlacement => Sys2Proof.Machine.execStrandPlacement s
  | .placeZeroingDone => Sys2Proof.Machine.execPlaceZeroingDone s
  | .taskDispatch => Sys2Proof.Machine.execTaskDispatch s
  | .stageAgeTick => Sys2Proof.Machine.execStageAgeTick s
  | .taskRequest => Sys2Proof.Machine.execTaskRequest s
  | .tsubAtOwner => Sys2Proof.Machine.execTsubAtOwner s
  | .depDecrement => Sys2Proof.Machine.execDepDecrement s
  | .completionReport => Sys2Proof.Machine.execCompletionReport s
  | .copyEntryComplete => Sys2Proof.Machine.execCopyEntryComplete s
  | .launchStart => Sys2Proof.Machine.execLaunchStart s
  | .launchComplete => Sys2Proof.Machine.execLaunchComplete s
  | .lqKick => Sys2Proof.Machine.execLqKick s
  | .launchFetchRetry => Sys2Proof.Machine.execLaunchFetchRetry s
  | .lqCfgWrite => Sys2Proof.Machine.execLqCfgWrite s
  | .preemptPre => Sys2Proof.Machine.execPreemptPre s
  | .preemptRequestArrive => Sys2Proof.Machine.execPreemptRequestArrive s
  | .preemptHintBoundExpiry => Sys2Proof.Machine.execPreemptHintBoundExpiry s
  | .contextSaveComplete => Sys2Proof.Machine.execContextSaveComplete s
  | .preemptRes => Sys2Proof.Machine.execPreemptRes s
  | .resumeComplete => Sys2Proof.Machine.execResumeComplete s
  | .preemptFls => Sys2Proof.Machine.execPreemptFls s
  | .ctxFltDsc => Sys2Proof.Machine.execCtxFltDsc s
  | .ctxLogcWrite => Sys2Proof.Machine.execCtxLogcWrite s
  | .ctxCkiClear => Sys2Proof.Machine.execCtxCkiClear s
  | .svcCtlShed => Sys2Proof.Machine.execSvcCtlShed s
  | .svcCtlReturn => Sys2Proof.Machine.execSvcCtlReturn s
  | .svcTimWrite => Sys2Proof.Machine.execSvcTimWrite s
  | .quiescentPoint => Sys2Proof.Machine.execQuiescentPoint s
  | .stackPowerUp => Sys2Proof.Machine.execStackPowerUp s
  | .selfTestComplete => Sys2Proof.Machine.execSelfTestComplete s
  | .stackPowerLoss => Sys2Proof.Machine.execStackPowerLoss s
  | .lockstepMismatch => Sys2Proof.Machine.execLockstepMismatch s
  | .fabricMessageReceive => Sys2Proof.Machine.execFabricMessageReceive s
  | .fabricAckReceive => Sys2Proof.Machine.execFabricAckReceive s
  | .ackTimeout => Sys2Proof.Machine.execAckTimeout s
  | .linkRecoveryExpiry => Sys2Proof.Machine.execLinkRecoveryExpiry s
  | .heartbeatTimer => Sys2Proof.Machine.execHeartbeatTimer s
  | .suspectReportReceive => Sys2Proof.Machine.execSuspectReportReceive s
  | .suspectReportExpiry => Sys2Proof.Machine.execSuspectReportExpiry s
  | .viewProposalReceive => Sys2Proof.Machine.execViewProposalReceive s
  | .viewAckReceive => Sys2Proof.Machine.execViewAckReceive s
  | .viewCommit => Sys2Proof.Machine.execViewCommit s
  | .fencedStackPowerDown => Sys2Proof.Machine.execFencedStackPowerDown s
  | .atomicPerform => Sys2Proof.Machine.execAtomicPerform s
  | .migrationCopyComplete => Sys2Proof.Machine.execMigrationCopyComplete s
  | .orderedBatchPerform => Sys2Proof.Machine.execOrderedBatchPerform s
  | .reductionContributionArrive => Sys2Proof.Machine.execReductionContributionArrive s
  | .windowMerge => Sys2Proof.Machine.execWindowMerge s
  | .meetOperandArrive => Sys2Proof.Machine.execMeetOperandArrive s
  | .meetResultDelivery => Sys2Proof.Machine.execMeetResultDelivery s
  | .spillHoldExpiry => Sys2Proof.Machine.execSpillHoldExpiry s
  | .orphanTimeout => Sys2Proof.Machine.execOrphanTimeout s
  | .multicastDelivery => Sys2Proof.Machine.execMulticastDelivery s
  | .ringDelivery => Sys2Proof.Machine.execRingDelivery s
  | .segmentCycleBound => Sys2Proof.Machine.execSegmentCycleBound s
  | .patrolScrub => Sys2Proof.Machine.execPatrolScrub s
  | .onDieUncorrectableError => Sys2Proof.Machine.execOnDieUncorrectableError s
  | .powerCapExceeded => Sys2Proof.Machine.execPowerCapExceeded s
  | .dvPcapWrite => Sys2Proof.Machine.execDvPcapWrite s
  | .attestationRequest => Sys2Proof.Machine.execAttestationRequest s
  | .attestationReportReady => Sys2Proof.Machine.execAttestationReportReady s
  | .debugTokenSubmit => Sys2Proof.Machine.execDebugTokenSubmit s
  | .dvQscrWrite => Sys2Proof.Machine.execDvQscrWrite s
  | .quarantineScrubDone => Sys2Proof.Machine.execQuarantineScrubDone s
  | .dvEccClear => Sys2Proof.Machine.execDvEccClear s
  | .dvUccClear => Sys2Proof.Machine.execDvUccClear s
  | .dbgCtlStop => Sys2Proof.Machine.execDbgCtlStop s
  | .dbgCtlRun => Sys2Proof.Machine.execDbgCtlRun s
  | .dbgCtlStep => Sys2Proof.Machine.execDbgCtlStep s
  | .dbgCctlSall => Sys2Proof.Machine.execDbgCctlSall s
  | .dbgCctlRall => Sys2Proof.Machine.execDbgCctlRall s
  | .dbgCctlPclr => Sys2Proof.Machine.execDbgCctlPclr s
  | .dbgDatRead => Sys2Proof.Machine.execDbgDatRead s
  | .dbgDatWrite => Sys2Proof.Machine.execDbgDatWrite s
  | .dbgPcWrite => Sys2Proof.Machine.execDbgPcWrite s
  | .traceConfigWrite => Sys2Proof.Machine.execTraceConfigWrite s
  | .registerWrite => Sys2Proof.Machine.execRegisterWrite s
  | .pqSelectionWriteback => Sys2Proof.Machine.execPqSelectionWriteback s
  | .powerFallsBelowCap => Sys2Proof.Machine.execPowerFallsBelowCap s
  | .lifeCycleAdvance => Sys2Proof.Machine.execLifeCycleAdvance s
  | .dbgStClear => Sys2Proof.Machine.execDbgStClear s

end Sys2Proof.Machine
end

