-- ==== Sys2Proof/Machine/Step.lean ====
section
/-! DEFINITION. One step of the package: an event, or one unit of C of one berth (R286). -/

namespace Sys2Proof.Machine

/-- A unit that has run: a stop that waits for its end enters the trace (R448, R452). -/
def afterUnit (b : Nat) : Host.Outcome State Fault Refusal → Host.Outcome State Fault Refusal
  | .next u => .next (u.stopRecord b)
  | .fault f => .fault f
  | .refused r => .refused r

/-- What C does with what stands at its pc. -/
def runUnit (b : Nat) : Unit1 → Host.Outcome State Fault Refusal
  | .run i t => afterUnit b (exec i t)
  | .stop t => .next t

/-- What berth b has done has been an issue, unless it was a prefix alone or a stall (R127, R286); s is the state before it. -/
def afterIssue (s : State) (b : Nat) : Host.Outcome State Fault Refusal → Host.Outcome State Fault Refusal
  | .next u => .next (if (u.berth b).stalled || (u.berth b).pfx.isSome then u.unissued s b else u)
  | .fault f => .fault f
  | .refused r => .refused r

/-- Issues the unit at berth b's pc: it is fetched, decoded and run. -/
def issueStep (s : State) (b : Nat) : Host.Outcome State Fault Refusal := afterIssue s b (runUnit b ((s.issued b).unitAt b))

/-- What was picked takes place. -/
def act : State × Act → Host.Outcome State Fault Refusal
  | (t, .event i x) => exec i { t.unstall with arg := x }
  | (t, .issue b) => issueStep t b
  | (t, .idle) => .next t.tick

/-- What the last act of a cycle leaves (R201, R366): one cycle's arrivals are tested together, and strands enter the faults of their queues. -/
def endCycle : Host.Outcome State Fault Refusal → Host.Outcome State Fault Refusal
  | .next t => .next t.closeCycle
  | .fault f => .fault f
  | .refused r => .refused r

/-- One step. The event number counts steps; it is what the free values of Config are applied to. -/
def step (s : State) : Host.Outcome State Fault Refusal :=
  endCycle (act ({ s with ev := s.ev + 1 } : State).pick)

/-- The page tables of a state in which a program can be placed: one leaf of 8 GiB at virtual address 0, readable, writable and
executable (R63, R64). -/
def loadRoot : Nat := 0x100000

/-- s with one instruction stored where the next step fetches: stack 0 in `live` with core 0 present, context 0 mapped, berth 0 in RUN
at pc 0, the topology block as that stack makes it, nothing else to do. It stands for the host's load and launch of a program (log entry 12). -/
def State.withFetchWord (s : State) (nbits w : Nat) : State :=
  let s := { s with agenda := [], live := 1, turn := 0, ev := 0, props := [], cont := false, joined := false }
  let s := s.setStack 0 { s.stack 0 with power := true, tst := false, tested := true, present := 1, fenced := false, halted := false, withhold := false }
  let s := s.updCtx 0 (fun c => { c with ptroot := BitVec.ofNat 64 loadRoot, pnd := false, svd := false, resuming := false, launches := [] })
  let s := s.setBerth 0 { Berth.zero with st := .run, lastOcc := some 0, tid := threadOf 0 0 0 }
  let words := (tableWords nbits w).flatMap (fun h => leBytes h.toNat 4)
  ({ s with mem := memPut (memPut s.mem loadRoot (leBytes 0x1F 8)) 0 words } : State).showTopo

end Sys2Proof.Machine
end

