-- ==== Sys2Proof/Safety.lean ====
section
/-! DEFINITION. The notions that claims are stated in: what an ordinary unit of C leaves alone, the results that the manual's tables
give, when an instruction executes normally, and what a safe state and a safe run are. -/

namespace Sys2Proof.Machine

/-! ## What stays -/

/-- Nothing of the package but the issuing strand has changed. -/
def OthersKept (s t : State) : Prop := t = { s with berths := t.berths } ∧ ∀ b, b ≠ s.cur → t.berth b = s.berth b

/-- Every byte reads as before: physical memory, and global memory as the issuing strand's loads see it. -/
def BytesKept (s t : State) : Prop := (∀ a, t.mb a = s.mb a) ∧ ∀ a, t.loadByte s.cur a = s.loadByte s.cur a

/-- B but for what the end of a unit moves, which is taken from C: the pc, the prefix, what it waited for, the segment signature and
the debug state (R121, R127, R222, R448). -/
def Berth.ended (B C : Berth) : Berth :=
  { B with pc := C.pc, pfx := C.pfx, waiting := C.waiting, answer := C.answer, seg := { B.seg with crc := C.seg.crc }, dbg := C.dbg,
           cut := C.cut }

/-- The unit has completed, its strand is B otherwise, and C goes on at `target`. -/
def EndsWith (s t : State) (B : Berth) (target : Word) : Prop :=
  OthersKept s t ∧ t.me = B.ended t.me ∧ t.me.pc = target ∧ t.me.pfx = none ∧ t.me.waiting = .none

/-- A unit whose instruction has n bytes has written v to `g`d and changed nothing else: `g0` discards it (R151). -/
def WroteG (s t : State) (d : GReg) (v : Word) (n : Nat) : Prop :=
  EndsWith s t { s.me with g := t.me.g } (s.me.pc + BitVec.ofNat 64 n) ∧ BytesKept s t ∧
    ∀ m, t.G m = if m = d ∧ d ≠ 0 then v else s.G m

/-- As `WroteG`, and `used` draws of the strand's generator are spent (R178). -/
def WroteGDrew (s t : State) (d : GReg) (v : Word) (n used : Nat) : Prop :=
  EndsWith s t { s.me with g := t.me.g, rngc := s.me.rngc + BitVec.ofNat 64 used } (s.me.pc + BitVec.ofNat 64 n) ∧ BytesKept s t ∧
    ∀ m, t.G m = if m = d ∧ d ≠ 0 then v else s.G m

/-- A unit whose instruction has n bytes has written v to `p`d and changed nothing else: `p0` discards it (R151). -/
def WroteP (s t : State) (d : PReg) (v : Bool) (n : Nat) : Prop :=
  EndsWith s t { s.me with p := t.me.p } (s.me.pc + BitVec.ofNat 64 n) ∧ BytesKept s t ∧
    ∀ m, t.P m = if m = d ∧ d ≠ 0 then v else s.P m

/-- The same for a stream register. -/
def WroteS (s t : State) (d : SReg) (v : BitVec 256) (n : Nat) : Prop :=
  EndsWith s t { s.me with s := t.me.s } (s.me.pc + BitVec.ofNat 64 n) ∧ BytesKept s t ∧
    ∀ m, t.me.getS m = if m = d then v else s.me.getS m

/-- A unit whose instruction has n bytes and no effect. -/
def NoEffect (s t : State) (n : Nat) : Prop := EndsWith s t s.me (s.me.pc + BitVec.ofNat 64 n) ∧ BytesKept s t

/-- C goes on at `target` and nothing else has changed. -/
def Jumped (s t : State) (target : Word) : Prop := EndsWith s t s.me target ∧ BytesKept s t

/-- C goes on at `target`, `g63` holds the return address, and nothing else has changed. -/
def Called (s t : State) (target link : Word) : Prop :=
  EndsWith s t { s.me with g := t.me.g } target ∧ BytesKept s t ∧ ∀ m, t.G m = if m = 63 then link else s.G m

/-- R128: the prefix in force, if there is one, is no misuse before instruction i. -/
def State.suits (s : State) (i : Instr) : Prop :=
  ∀ p, s.me.pfx = some p → pfxMisuse p ((encode i s.imm32).getD 0 0).toNat = false

/-! ## Integer results (R154–R160, R168) -/

/-- The exact value v as R154 writes it, or clamped under `sat` (R156). -/
def intRes (sat : Bool) (v : Int) : Word := BitVec.ofInt 64 (if sat then clampI v (-(2 ^ 63)) (2 ^ 63 - 1) else v)
/-- The same for the 32-bit sums (R154, R156). -/
def intRes32 (sat : Bool) (v : Int) : Word :=
  BitVec.ofInt 64 (if sat then clampI v (-(2 ^ 31)) (2 ^ 31 - 1) else Int.bmod v (2 ^ 32))
/-- x rotated left by n (R154). -/
def rotl (x : Word) (n : Nat) : Word := BitVec.ofNat 64 (x.toNat * 2 ^ n + x.toNat / 2 ^ (64 - n))
/-- Sgn(SignExt(Low(x, 32), 32)) of R156. -/
def sgn32 (x : Word) : Int := (x.truncate 32).toInt

/-- Destination, result and length of the instructions that write one general register from registers and immediates, by the tables
of R154, R155, R157, R160 and R168: `G` and `P` are the registers before, `sat` the prefix's. -/
def intValue (i : Instr) (sat : Bool) (G : GReg → Word) (P : PReg → Bool) : Option (GReg × Word × Nat) :=
  match i with
  | .add d a b => some (d, intRes sat ((G a).toInt + (G b).toInt), 4)
  | .sub d a b => some (d, intRes sat ((G a).toInt - (G b).toInt), 4)
  | .mul d a b => some (d, intRes sat ((G a).toInt * (G b).toInt), 4)
  | .mulh d a b => some (d, (BitVec.ofInt 128 ((G a).toInt * (G b).toInt)).extractLsb' 64 64, 4)
  | .mulhn d a b => some (d, (BitVec.ofNat 128 ((G a).toNat * (G b).toNat)).extractLsb' 64 64, 4)
  | .div d a b => some (d, if G b = 0 then 0xFFFFFFFFFFFFFFFF else BitVec.ofInt 64 ((G a).toInt.tdiv (G b).toInt), 4)
  | .divn d a b => some (d, if G b = 0 then 0xFFFFFFFFFFFFFFFF else BitVec.ofNat 64 ((G a).toNat / (G b).toNat), 4)
  | .rem d a b => some (d, BitVec.ofInt 64 ((G a).toInt.tmod (G b).toInt), 4)
  | .remn d a b => some (d, BitVec.ofNat 64 ((G a).toNat % (G b).toNat), 4)
  | .and d a b => some (d, G a &&& G b, 4)
  | .or d a b => some (d, G a ||| G b, 4)
  | .xor d a b => some (d, G a ^^^ G b, 4)
  | .andn d a b => some (d, G a &&& ~~~(G b), 4)
  | .orn d a b => some (d, G a ||| ~~~(G b), 4)
  | .shl d a b => some (d, BitVec.ofNat 64 ((G a).toNat * 2 ^ ((G b).toNat % 64)), 4)
  | .shr d a b => some (d, BitVec.ofNat 64 ((G a).toNat / 2 ^ ((G b).toNat % 64)), 4)
  | .sra d a b => some (d, BitVec.ofInt 64 ((G a).toInt / 2 ^ ((G b).toNat % 64)), 4)
  | .rol d a b => some (d, rotl (G a) ((G b).toNat % 64), 4)
  | .min d a b => some (d, BitVec.ofInt 64 (Min.min (G a).toInt (G b).toInt), 4)
  | .max d a b => some (d, BitVec.ofInt 64 (Max.max (G a).toInt (G b).toInt), 4)
  | .minn d a b => some (d, BitVec.ofNat 64 (Min.min (G a).toNat (G b).toNat), 4)
  | .maxn d a b => some (d, BitVec.ofNat 64 (Max.max (G a).toNat (G b).toNat), 4)
  | .clz d a => some (d, clzOp (G a), 4)
  | .ctz d a => some (d, ctzOp (G a), 4)
  | .pop d a => some (d, popOp (G a), 4)
  | .bswap d a => some (d, bswapOp (G a), 4)
  | .adds d a b => some (d, intRes32 sat (sgn32 (G a) + sgn32 (G b)), 4)
  | .subs d a b => some (d, intRes32 sat (sgn32 (G a) - sgn32 (G b)), 4)
  | .addi d a k => some (d, intRes sat ((G a).toInt + k.toInt), 4)
  | .andi d a k => some (d, G a &&& k.signExtend 64, 4)
  | .ori d a k => some (d, G a ||| k.signExtend 64, 4)
  | .xori d a k => some (d, G a ^^^ k.signExtend 64, 4)
  | .shli d a n => some (d, BitVec.ofNat 64 ((G a).toNat * 2 ^ n.toNat), 4)
  | .shri d a n => some (d, BitVec.ofNat 64 ((G a).toNat / 2 ^ n.toNat), 4)
  | .srai d a n => some (d, BitVec.ofInt 64 ((G a).toInt / 2 ^ n.toNat), 4)
  | .roli d a n => some (d, rotl (G a) n.toNat, 4)
  | .sel d a b p inv => some (d, if P p ≠ inv then G a else G b, 4)
  | .movi d k => some (d, k.signExtend 64, 8)
  | .movhi d k => some (d, k ++ (G d).truncate 32, 8)
  | .addwi d a k => some (d, intRes sat ((G a).toInt + k.toInt), 8)
  | .lea d a k => some (d, (G a).extractLsb' 54 10 ++ (G a + k.signExtend 64).truncate 54, 8)
  | _ => none

/-- The conditions of R158 by their code: eq, ne, lt, le, ltn, len, gt, gtn. -/
def condTrue (cc : Nat) (x y : Word) : Prop :=
  match cc with
  | 0 => x = y
  | 1 => x ≠ y
  | 2 => x.toInt < y.toInt
  | 3 => x.toInt ≤ y.toInt
  | 4 => x.toNat < y.toNat
  | 5 => x.toNat ≤ y.toNat
  | 6 => x.toInt > y.toInt
  | _ => x.toNat > y.toNat

/-- Destination, truth and length of the instructions that write one predicate from registers (R158, R159). -/
def predValue (i : Instr) (G : GReg → Word) (P : PReg → Bool) : Option (PReg × Prop × Nat) :=
  match i with
  | .cmpEq d a b => some (d, condTrue 0 (G a) (G b), 4)
  | .cmpNe d a b => some (d, condTrue 1 (G a) (G b), 4)
  | .cmpLt d a b => some (d, condTrue 2 (G a) (G b), 4)
  | .cmpLe d a b => some (d, condTrue 3 (G a) (G b), 4)
  | .cmpLtn d a b => some (d, condTrue 4 (G a) (G b), 4)
  | .cmpLen d a b => some (d, condTrue 5 (G a) (G b), 4)
  | .cmpi cc d a k => some (d, condTrue cc.toNat (G a) (k.signExtend 64), 4)
  | .cmpwi cc d a k => some (d, condTrue cc.toNat (G a) (k.signExtend 64), 8)
  | .pand d a b => some (d, P a ∧ P b, 4)
  | .por d a b => some (d, P a ∨ P b, 4)
  | .pxor d a b => some (d, P a ≠ P b, 4)
  | .pandn d a b => some (d, P a ∧ ¬ P b, 4)
  | _ => none

/-! ## Floating-point results (R161–R164) -/

/-- Destination, result and draws used of the floating-point instructions that write a general register: the exact result of the
operands, flushed under `ftz`, rounded once under the prefix (R104–R108, R161, R164), or an operand's value not rounded (R162). -/
def floatValue (i : Instr) (p : Pfx) (G : GReg → Word) (draw : Nat) : Option (GReg × Word × Nat) :=
  let o := fun (f : NFmt) (r : GReg) => fopnd f p.ftz (G r)
  let once := fun (f : NFmt) (d : GReg) (x : XVal) =>
    some (d, (BitVec.ofNat 64 (f.enc x p.round.toNat p.sat p.ftz draw) : Word), if p.round = 5 then 1 else 0)
  let same := fun (f : NFmt) (d : GReg) (x : XVal) => some (d, (BitVec.ofNat 64 (f.enc x 0 false false 0) : Word), 0)
  let down := p.round == 3
  match i with
  | .faddD d a b => once fp64 d (xadd down (o fp64 a) (o fp64 b))
  | .fsubD d a b => once fp64 d (xadd down (o fp64 a) (o fp64 b).neg)
  | .fmulD d a b => once fp64 d (xmul (o fp64 a) (o fp64 b))
  | .fdivD d a b => once fp64 d (xdiv (o fp64 a) (o fp64 b))
  | .fsqrtD d a => once fp64 d (xsqrt (o fp64 a))
  | .fminD d a b => same fp64 d (xmin (o fp64 a) (o fp64 b))
  | .fmaxD d a b => same fp64 d (xmax (o fp64 a) (o fp64 b))
  | .fmacD d a b => once fp64 d (xadd down (o fp64 d) (xmul (o fp64 a) (o fp64 b)))
  | .fabsD d a => same fp64 d (o fp64 a).abs
  | .fnegD d a => same fp64 d (o fp64 a).neg
  | .faddS d a b => once fp32 d (xadd down (o fp32 a) (o fp32 b))
  | .fsubS d a b => once fp32 d (xadd down (o fp32 a) (o fp32 b).neg)
  | .fmulS d a b => once fp32 d (xmul (o fp32 a) (o fp32 b))
  | .fdivS d a b => once fp32 d (xdiv (o fp32 a) (o fp32 b))
  | .fsqrtS d a => once fp32 d (xsqrt (o fp32 a))
  | .fminS d a b => same fp32 d (xmin (o fp32 a) (o fp32 b))
  | .fmaxS d a b => same fp32 d (xmax (o fp32 a) (o fp32 b))
  | .fmacS d a b => once fp32 d (xadd down (o fp32 d) (xmul (o fp32 a) (o fp32 b)))
  | .fabsS d a => same fp32 d (o fp32 a).abs
  | .fnegS d a => same fp32 d (o fp32 a).neg
  | .cvtDI d a => once fp64 d (o (.int 64 true) a)
  | .cvtDN d a => once fp64 d (o (.int 64 false) a)
  | .cvtID d a => once (.int 64 true) d (o fp64 a)
  | .cvtND d a => once (.int 64 false) d (o fp64 a)
  | .cvtSD d a => once fp32 d (o fp64 a)
  | .cvtDS d a => once fp64 d (o fp32 a)
  | .cvtSI d a => once fp32 d (o (.int 64 true) a)
  | .cvtIS d a => once (.int 64 true) d (o fp32 a)
  | .cvtHS d a => once fp16 d (o fp32 a)
  | .cvtSH d a => once fp32 d (o fp16 a)
  | .cvtBfS d a => once bf16 d (o fp32 a)
  | .cvtSBf d a => once fp32 d (o bf16 a)
  | _ => none

/-- Destination, format and operand registers of the arithmetic of R161. -/
def floatOperands (i : Instr) (G : GReg → Word) : Option (GReg × NFmt × List Word) :=
  match i with
  | .faddD d a b => some (d, fp64, [G a, G b])
  | .fsubD d a b => some (d, fp64, [G a, G b])
  | .fmulD d a b => some (d, fp64, [G a, G b])
  | .fdivD d a b => some (d, fp64, [G a, G b])
  | .fsqrtD d a => some (d, fp64, [G a])
  | .fminD d a b => some (d, fp64, [G a, G b])
  | .fmaxD d a b => some (d, fp64, [G a, G b])
  | .fmacD d a b => some (d, fp64, [G d, G a, G b])
  | .fabsD d a => some (d, fp64, [G a])
  | .fnegD d a => some (d, fp64, [G a])
  | .faddS d a b => some (d, fp32, [G a, G b])
  | .fsubS d a b => some (d, fp32, [G a, G b])
  | .fmulS d a b => some (d, fp32, [G a, G b])
  | .fdivS d a b => some (d, fp32, [G a, G b])
  | .fsqrtS d a => some (d, fp32, [G a])
  | .fminS d a b => some (d, fp32, [G a, G b])
  | .fmaxS d a b => some (d, fp32, [G a, G b])
  | .fmacS d a b => some (d, fp32, [G d, G a, G b])
  | .fabsS d a => some (d, fp32, [G a])
  | .fnegS d a => some (d, fp32, [G a])
  | _ => none

/-- Destination and truth of the floating-point comparisons (R163). -/
def floatCompare (i : Instr) (ftz : Bool) (G : GReg → Word) : Option (PReg × Prop) :=
  let o := fun (f : NFmt) (r : GReg) => fopnd f ftz (G r)
  let num := fun (f : NFmt) (a b : GReg) (c : Int → Prop) =>
    (o f a).isNan = false ∧ (o f b).isNan = false ∧ c (xcmp (o f a) (o f b))
  match i with
  | .fcmpEqS d a b => some (d, num fp32 a b (· = 0))
  | .fcmpLtS d a b => some (d, num fp32 a b (· = -1))
  | .fcmpLeS d a b => some (d, num fp32 a b (· ≠ 1))
  | .fcmpUnS d a b => some (d, (o fp32 a).isNan ∨ (o fp32 b).isNan)
  | .fcmpEqD d a b => some (d, num fp64 a b (· = 0))
  | .fcmpLtD d a b => some (d, num fp64 a b (· = -1))
  | .fcmpLeD d a b => some (d, num fp64 a b (· ≠ 1))
  | .fcmpUnD d a b => some (d, (o fp64 a).isNan ∨ (o fp64 b).isNan)
  | _ => none

/-! ## Branches, traps and the handler -/

/-- A landing pad that can be branched to (R135, R166). -/
def State.padAt (s : State) (v : Word) : Prop :=
  v.toNat < 2 ^ 50 ∧ v.toNat % 4 = 0 ∧ s.fetchWord s.myCtx v = .ok 0x08000000

/-- The register state of a strand but `g`d: predicates, stream and handle registers, generator, trap registers. -/
def Berth.sameBut (B C : Berth) : Prop :=
  C.p = B.p ∧ C.s = B.s ∧ C.q = B.q ∧ C.rngk = B.rngk ∧ C.rngc = B.rngc ∧ C.trap = B.trap
/-- Every register of a strand is as before. -/
def Berth.sameRegs (B C : Berth) : Prop := C.g = B.g ∧ B.sameBut C

/-- The tracing of context n is off (R451). -/
def State.untraced (s : State) (n : Nat) : Prop := bitN (s.ctx n).trCfg.toNat 0 = false

/-- The strand on berth b has taken a trap (R362, R365): the trap registers hold the cause with `h`, the saved address, the reported
address and value, the words, the predicates and the state of the queues; the queues stand at the cut; C goes on at the handler `va`;
every other register is as before. -/
def Trapped (s t : State) (b code : Nat) (asy : Bool) (tpc taddr tval tword tlane va : Word) : Prop :=
  let B := s.berth b
  (t.berth b).trap = { B.trap with
      tcause := BitVec.ofNat 64 (code + (if asy then 256 else 0) + 2048), tpc := tpc, taddr := taddr, tval := tval, tword := tword,
      tprd := B.preds, tcql := B.tcq 0, tcqx := B.tcq 1, tcqs := B.tcq 2, tcil := B.tci 0, tcix := B.tci 1, tcis := B.tci 2,
      tlane := tlane }
    ∧ (t.berth b).pc = va ∧ (t.berth b).cut = true ∧ (t.berth b).pfx = none ∧ (t.berth b).st = .run
    ∧ (t.berth b).g = B.g ∧ (t.berth b).p = B.p ∧ (t.berth b).s = B.s ∧ (t.berth b).q = B.q
    ∧ (t.berth b).recs = B.recs ∧ (t.berth b).pend = B.pend ∧ ∀ c, c ≠ b → t.berth c = s.berth c

/-- The address that a trap of berth b's strand goes to: the strand is not in its handler, and `ctx_trap` names a `tgt` that can be fetched (R367). -/
def State.trapGoes (s : State) (b : Nat) (va : Word) : Prop := (s.berth b).inHandler = false ∧ s.handler (s.berth b).ctx = some va

/-! ## Loads and stores (R125, R169–R171, R181) -/

/-- A load's destination, address register, bytes, sign extension, offset in bytes, scratchpad, and its length. -/
def loadForm (i : Instr) : Option (GReg × GReg × Nat × Bool × Int × Bool × Nat) :=
  match i with
  | .ldB d a sp o => some (d, a, 1, true, o.toInt, sp, 4)
  | .ldBn d a sp o => some (d, a, 1, false, o.toInt, sp, 4)
  | .ldH d a sp o => some (d, a, 2, true, 2 * o.toInt, sp, 4)
  | .ldHn d a sp o => some (d, a, 2, false, 2 * o.toInt, sp, 4)
  | .ldW d a sp o => some (d, a, 4, true, 4 * o.toInt, sp, 4)
  | .ldWn d a sp o => some (d, a, 4, false, 4 * o.toInt, sp, 4)
  | .ldD d a sp o => some (d, a, 8, false, 8 * o.toInt, sp, 4)
  | .ldlB d a k => some (d, a, 1, true, k.toInt, false, 8)
  | .ldlBn d a k => some (d, a, 1, false, k.toInt, false, 8)
  | .ldlH d a k => some (d, a, 2, true, k.toInt, false, 8)
  | .ldlHn d a k => some (d, a, 2, false, k.toInt, false, 8)
  | .ldlW d a k => some (d, a, 4, true, k.toInt, false, 8)
  | .ldlWn d a k => some (d, a, 4, false, k.toInt, false, 8)
  | .ldlD d a k => some (d, a, 8, false, k.toInt, false, 8)
  | _ => none

/-- A store's source register, address register, bytes, offset in bytes, scratchpad, and its length. -/
def storeForm (i : Instr) : Option (GReg × GReg × Nat × Int × Bool × Nat) :=
  match i with
  | .stB d a sp o => some (d, a, 1, o.toInt, sp, 4)
  | .stH d a sp o => some (d, a, 2, 2 * o.toInt, sp, 4)
  | .stW d a sp o => some (d, a, 4, 4 * o.toInt, sp, 4)
  | .stD d a sp o => some (d, a, 8, 8 * o.toInt, sp, 4)
  | .stlB d a k => some (d, a, 1, k.toInt, false, 8)
  | .stlH d a k => some (d, a, 2, k.toInt, false, 8)
  | .stlW d a k => some (d, a, 4, k.toInt, false, 8)
  | .stlD d a k => some (d, a, 8, k.toInt, false, 8)
  | _ => none

/-- The effective pointer of R169. -/
def effPtr (base : Word) (off : Int) : Word := base + BitVec.ofInt 64 off

/-- The value of n little-endian bytes, sign-extended when `sgn` (R170). -/
def bytesVal (bs : List Byte) (n : Nat) (sgn : Bool) : Word :=
  if sgn then BitVec.ofInt 64 (Int.bmod (leNat bs) (2 ^ (8 * n))) else BitVec.ofNat 64 (leNat bs)

/-- No record of the issuing strand stands in the way of an access of C (R59, R171, R236): in deterministic mode none that C has not
ordered after itself overlaps, and no ring slot that one fills is read. -/
def State.unblocked (s : State) (spc lo n : Nat) (wr : Bool) : Prop :=
  if s.myLaunch.det then s.me.hist.find? (fun h => rngsMeet h.2.2 spc lo n wr) = none
    ∧ ∀ r ∈ s.me.recs, s.blocks { r with ranges := [] } spc lo n wr = false
  else ∀ r ∈ s.me.recs, s.blocks r spc lo n wr = false

/-- A load has issued on state u: its value is on its way to `g`d, C goes on, nothing else has changed (R170, R386). -/
def LoadSent (u t : State) (d : GReg) (v : Word) (pz : Bool) (len : Nat) : Prop :=
  EndsWith u t { u.me with outLoad := some ⟨d, v, pz⟩ } (u.me.pc + BitVec.ofNat 64 len) ∧ BytesKept u t

/-- Scratchpad byte x of core c. -/
def State.spAt (s : State) (c x : Nat) : Byte := AMap.get 0 (s.core c).sp x
/-- Accumulator-store byte x of core c. -/
def State.accAt (s : State) (c x : Nat) : Byte := AMap.get 0 (s.core c).acc x

/-- Of the cores' stores nothing but n bytes of one space of core c from byte lo has changed, where `bs` now stands. -/
def WroteSp (s t : State) (c lo : Nat) (bs : List Byte) : Prop :=
  (∀ x, x < lo ∨ lo + bs.length ≤ x → t.spAt c x = s.spAt c x) ∧ (∀ i, i < bs.length → t.spAt c (lo + i) = bs.getD i 0)
    ∧ (t.core c).acc = (s.core c).acc ∧ ∀ k, k ≠ c → t.core k = s.core k
def WroteAcc (s t : State) (c lo : Nat) (bs : List Byte) : Prop :=
  (∀ x, x < lo ∨ lo + bs.length ≤ x → t.accAt c x = s.accAt c x) ∧ (∀ i, i < bs.length → t.accAt c (lo + i) = bs.getD i 0)
    ∧ (t.core c).sp = (s.core c).sp ∧ ∀ k, k ≠ c → t.core k = s.core k

/-- As `EndsWith`, where the cores' stores and objects may have changed as well. -/
def EndsInCore (s t : State) (B : Berth) (target : Word) : Prop :=
  t = { s with berths := t.berths, cores := t.cores } ∧ (∀ b, b ≠ s.cur → t.berth b = s.berth b) ∧ t.me = B.ended t.me
    ∧ t.me.pc = target ∧ t.me.pfx = none ∧ t.me.waiting = .none

/-- Address register, bytes, offset and space of a load or store. -/
def memForm (i : Instr) : Option (GReg × Nat × Int × Bool) :=
  match loadForm i, storeForm i with
  | some (_, a, n, _, off, sp, _), _ => some (a, n, off, sp)
  | none, some (_, a, n, off, sp, _) => some (a, n, off, sp)
  | none, none => none

/-! ## Checks of a global access (R62–R68, R387, R388, R424, R434, R467) -/

/-- Where the entry of a level for address va stands in a table (R63). -/
def entryAt (table level va : Nat) : Nat := table + 8 * (va / 2 ^ [33, 28, 21, 16].getD level 16 % 2 ^ [17, 5, 7, 5].getD level 5)

/-- What R64 and R388 call malformed in entry e of a level, whose address is `addr`. -/
def State.malformed (s : State) (e addr level : Nat) : Prop :=
  e / 2 ^ 46 % 2 ^ 18 ≠ 0 ∨ bitN e 7 = true
    ∨ (bitN e 1 = true ∧ (addr % 2 ^ [33, 28, 21, 16].getD level 16 ≠ 0 ∨ (bitN e 5 = true ∧ level ≠ 2) ∨ s.paBad addr = true))
    ∨ (bitN e 1 = false ∧ (level = 3 ∨ s.paBad addr = true ∨ s.paFenced addr = true))

/-- The walk at one entry (R63, R64, R388, R389, R424, R434): its fault with class, site, `tval`, or the leaf, or the walk of the next table. -/
def State.WalkLaw (s : State) : Prop :=
  ∀ (va table level : Nat) (p : Word), level < 4 →
    let pte := entryAt table level va
    let e := memNat s.mem pte 8
    let addr := 256 * (e / 2 ^ 8 % 2 ^ 38)
    let pa := addr + va % 2 ^ [33, 28, 21, 16].getD level 16
    let w := s.walkFrom va p table level (4 - level)
    (s.paDead pte = true → w = .error (MFault.silent p))
    ∧ (s.paDead pte = false → (s.poisoned pte 8 = true → w = .error ⟨12, some 8, p, 0, true⟩)
      ∧ (s.poisoned pte 8 = false → (bitN e 0 = false → w = .error ⟨8, none, p, BitVec.ofNat 64 level, false⟩)
        ∧ (bitN e 0 = true → (s.malformed e addr level → w = .error ⟨8, some 8, p, BitVec.ofNat 64 level, false⟩)
          ∧ (¬ s.malformed e addr level → (bitN e 1 = false → w = s.walkFrom va p addr (level + 1) (3 - level))
            ∧ (bitN e 1 = true → (s.paFenced addr = true → w = .error ⟨8, none, p, 5, false⟩)
              ∧ (s.paFenced addr = false → s.paDead pa = false → s.quarantined pa = true → w = .error ⟨8, none, p, 4, false⟩)
              ∧ (s.paFenced addr = false → s.paDead pa = false → s.quarantined pa = false → w = .ok ⟨pa, pte, e, level⟩))))))

/-- Whether page entry e (R64) and bounds record r (R67) grant an access of a kind. -/
def granted (k : AKind) (e r : Nat) : Prop :=
  match k with
  | .rd => bitN e 2 = true ∧ bitN r 63 = true
  | .wr => bitN e 3 = true ∧ bitN r 62 = true
  | .at => bitN e 3 = true ∧ bitN r 61 = true
  | .fetch => bitN e 4 = true

/-- The checks of an access of n bytes through pointer p in their order (R68, R387): alignment, bounds with the record's own faults, translation, permission. -/
def State.AccessLaw (s : State) : Prop :=
  ∀ (ctx bndb n : Nat) (p : Word) (k : AKind),
    let va := p.toNat % 2 ^ 50
    let i := p.toNat / 2 ^ 54
    let rva := (bndb + 16 * i) % 2 ^ 50
    let a := s.access ctx bndb p n k
    let oob : Except MFault Nat := .error ⟨7, none, p, BitVec.ofNat 64 i, false⟩
    let full := 2 ^ 63 + 2 ^ 62 + 2 ^ 61
    let rest := match s.walk ctx va p with
      | .error f => a = .error f
      | .ok l => (granted k l.ent full → a = .ok l.pa)
          ∧ (¬ granted k l.ent full → a = .error ⟨9, none, p, (match k with | .rd => 0 | .wr => 1 | .at => 2 | .fetch => 3), false⟩)
    (va % n ≠ 0 → a = .error ⟨3, none, p, BitVec.ofNat 64 n, false⟩)
    ∧ (va % n = 0 → (p.toNat / 2 ^ 50 % 2 ^ 4 ≠ 0 → a = oob)
      ∧ (p.toNat / 2 ^ 50 % 2 ^ 4 = 0 → (i = 0 → (2 ^ 50 < va + n → a = oob) ∧ (va + n ≤ 2 ^ 50 → rest))
        ∧ (i ≠ 0 → (∀ f, s.xlate ctx rva p .rd = .error f → a = .error (if f.cls = 0 then f else ⟨f.cls, some 8, p, f.val, true⟩))
          ∧ ∀ l, s.xlate ctx rva p .rd = .ok l → (s.poisoned l.pa 16 = true → a = .error ⟨12, some 8, p, 0, true⟩)
            ∧ (s.poisoned l.pa 16 = false → let r := memNat s.mem l.pa 16
              let ok := r % 2 ^ 50 ≤ va ∧ va + n ≤ r / 2 ^ 64 % 2 ^ 50 ∧ granted k (2 ^ 2 + 2 ^ 3 + 2 ^ 4) r
              (¬ ok → a = oob) ∧ (ok → rest)))))

/-! ## Publishing and waiting (R74, R76, R189, R225) -/

/-- A store at address a leaves the strand at a publish of scope sc: one to a host address only at .sys (R469), and at .core one whose home
answers (R74). -/
def State.goesOut (s : State) (a sc : Nat) : Prop := (bitN a 45 = false ∨ sc = 3) ∧ (sc = 0 → s.paDead a = false)

/-- Nothing stands before a release at scope sc (R74, R82, R314, R424): no contribution is buffered, no request or batch of the strand is on its way, no
store of it has lost its home to a fence, and every home that the release writes can acknowledge. -/
def State.flushed (s : State) (sc : Nat) : Prop :=
  s.me.obuf = [] ∧ s.busyReq s.cur = false ∧ s.batchOut s.cur = false ∧ s.storesLost s.cur = false ∧ s.mayPublish s.cur sc = true

/-- The strand's clock once C has acquired what K tells, on the strand as B left it: it, and the host's stores so far, happen before all that
follows (R76). -/
def State.acquired (s : State) (B : Berth) (K : Clock) : Clock := AMap.put (B.clk.both K) 0 (s.ev + 1)

/-- The strand's stores have reached memory at scope sc, and no other byte of it has changed: an address that the strand has not stored to
reads as before, one that it has stored one value to and that goes out reads that value, and a host address before .sys reads as before. -/
def StoresOut (s t : State) (sc : Nat) : Prop :=
  (∀ a, AMap.find s.me.pend a = none → t.mb a = s.mb a)
    ∧ (∀ a v, (a, v) ∈ s.me.pend → (∀ w, (a, w) ∈ s.me.pend → w = v) → s.goesOut a sc → t.mb a = v)
    ∧ (∀ a, ¬ s.goesOut a sc → t.mb a = s.mb a)

/-- C has gone on past a unit whose instruction has n bytes. -/
def Passed (s t : State) (n : Nat) : Prop :=
  t.me.pc = s.me.pc + BitVec.ofNat 64 n ∧ t.me.pfx = none ∧ t.me.waiting = .none ∧ t.me.st = s.me.st
    ∧ t.cur = s.cur ∧ ∀ b, b ≠ s.cur → t.berth b = s.berth b

/-- A release of scope sc has been done and C has gone on: only the strand, memory and its poison marks have changed, and of the strand
no register. -/
def Released (s t : State) (sc n : Nat) : Prop :=
  t = { s with berths := t.berths, mem := t.mem, poison := t.poison } ∧ Passed s t n ∧ s.me.sameRegs t.me ∧ StoresOut s t sc
    ∧ t.me.pend = s.me.pend.filter (fun p => !(s.goesAt sc p.1))

/-- The instruction waits at its unit, with no effect (R225). -/
def Waits (s t : State) (k : WaitKind) : Prop :=
  OthersKept s t ∧ t.me = { s.me with st := .wait, waiting := k, pc := s.me.unitPc, pfx := none }

/-! ## Waiting for records, rings, barriers and gangs (R192–R205) -/

/-- A unit whose instruction has n bytes has ended; only the strand has changed, and no byte of memory. -/
def Settled (s t : State) (n : Nat) : Prop := OthersKept s t ∧ (∀ a, t.mb a = s.mb a) ∧ Passed s t n

/-- Of the cores nothing but ring d of core c has changed, which is now r. -/
def RingIs (s t : State) (c d : Nat) (r : Ring) : Prop :=
  (∀ k, k ≠ c → t.core k = s.core k) ∧ t.core c = { s.core c with rings := (t.core c).rings } ∧ (t.core c).ring d = r
    ∧ ∀ m, m ≠ d → (t.core c).ring m = (s.core c).ring m

/-- G(a) names barrier i (R200). -/
def State.names (s : State) (a : GReg) (i : BarId) : Prop := barId (s.G a).toNat (coreOf s.cur) = i ∧ i ≠ .bad

/-- A barrier once an arrival is counted, after what K tells (R77, R201, R397): A grows, D for a drop, and the arrival carries an error code,
or earns 0xE0 + site when it takes A beyond E + X; `lsl` is the launch slot of its party. -/
def Bar.counted (v : Bar) (drop : Bool) (err : Option Nat) (site lsl : Nat) (K : Clock) : Bar :=
  { v with a := v.a + 1, d := if drop then v.d + 1 else v.d, lsl := lsl, clk := v.clk.both K,
           err := (v.err.or err).or (if v.e + (v.x : Int) ≤ (v.a : Int) then some (0xE0 + site) else none) }

/-- A barrier after an arrival: the phase completes when it is due and every member is resident (R60, R201), unless more of the same cycle is
still to be applied. -/
def State.barAfter (s : State) (n : Nat) (i : BarId) (w : Bar) : Bar :=
  if s.cont = false ∧ w.ready ∧ s.allResident n i then w.complete else w

/-- Barrier i of context n is now w, and nothing else of the package has changed but the issuing strand, memory through a publish, the
members' marks of arrival and, for a phase in error, `ctx_cki`. -/
def BarIs (s t : State) (n : Nat) (i : BarId) (w : Bar) : Prop :=
  t = { s with berths := t.berths, cores := t.cores, ctxs := t.ctxs, mem := t.mem, poison := t.poison } ∧ t.bar n i = w
    ∧ (∀ j, j ≠ i → t.bar n j = s.bar n j) ∧ (∀ c, t.core c = { s.core c with bars := (t.core c).bars })
    ∧ (∀ m, t.ctx m = { s.ctx m with gangs := (t.ctx m).gangs, cki := (t.ctx m).cki })
    ∧ ∀ b, b ≠ s.cur → t.berth b = { s.berth b with arrivedPh := (t.berth b).arrivedPh }

/-- The unit of the issuing strand has ended, n bytes long, and `g`d holds v; its other registers are as before. -/
def EndedWith (s t : State) (d : GReg) (v : Word) (n : Nat) : Prop :=
  t.cur = s.cur ∧ t.me.pc = s.me.pc + BitVec.ofNat 64 n ∧ t.me.pfx = none ∧ t.me.waiting = .none ∧ t.me.st = s.me.st ∧ s.me.sameBut t.me
    ∧ ∀ m, t.G m = if m = d ∧ d ≠ 0 then v else s.G m

/-! ## Tags, tasks, queues and system registers (R40–R48, R177, R206–R221, R265–R273) -/

/-- Of the cores nothing but priority queue n of core c has changed, which is now q. -/
def PqIs (s t : State) (c n : Nat) (q : Pq) : Prop :=
  (∀ k, k ≠ c → t.core k = s.core k) ∧ t.core c = { s.core c with pqs := (t.core c).pqs } ∧ (t.core c).pq n = q
    ∧ ∀ m, m ≠ n → (t.core c).pq m = (s.core c).pq m

/-- The live entry that ranks first (R265, R266): the least key, then the lowest insertion number. -/
def Pq.first (q : Pq) (e : PqEnt) : Prop :=
  e ∈ q.ents ∧ q.dead e = false ∧ ∀ x ∈ q.ents, q.dead x = false → x = e ∨ e.key < x.key ∨ (e.key = x.key ∧ e.ins < x.ins)

/-- Of the contexts nothing but the tags of context n has changed, and of those nothing but tag i, which is now v. -/
def TagIs (s t : State) (n i : Nat) (v : Tag) : Prop :=
  (∀ m, t.ctx m = { s.ctx m with tags := (t.ctx m).tags }) ∧ t.tag n i = v ∧ ∀ m j, (m ≠ n ∨ j ≠ i) → t.tag m j = s.tag m j

/-- Of the contexts nothing but the launches of context n has changed, and the launch in slot lsl is now v. -/
def LaunchIs (s t : State) (n lsl : Nat) (v : Launch) : Prop :=
  (∀ m, t.ctx m = { s.ctx m with launches := (t.ctx m).launches }) ∧ (∀ m, m ≠ n → t.ctx m = s.ctx m) ∧ t.launch n lsl = v

/-- As `EndedWith`, and no other strand, no core and no byte of memory has changed. -/
def OnlyG (s t : State) (d : GReg) (v : Word) (n : Nat) : Prop :=
  t = { s with berths := t.berths, ctxs := t.ctxs } ∧ (∀ b, b ≠ s.cur → t.berth b = s.berth b) ∧ EndedWith s t d v n

/-- The context registers 0x150–0x164 in order (R65, R288). -/
def Ctx.words (c : Ctx) : List Word :=
  [c.ptroot, c.bhk, c.migf, c.migt, c.raw, c.ckpt, c.save, c.pbnd,
   BitVec.ofNat 64 ((if c.pnd then 2 ^ 8 else 0) + (if c.svd then 2 ^ 9 else 0) + (if c.rsd then 2 ^ 10 else 0) + (if c.pkd then 2 ^ 11 else 0)),
   c.logc0, c.logc1, c.lvls, c.rdn, c.trap, c.flt, c.fltm, c.cki, c.movf, c.morph, c.ldiv, c.rcv]

/-- `svc_state` (R319). -/
def State.svcWord (s : State) : Nat :=
  (if s.drn then 1 else 0) + (if s.nlive = 1 then 2 ^ 8 else 0) + 2 ^ 16 * (if s.nlive ≤ 1 then 3 else 4 - s.nlive)
    + 2 ^ 24 * ((List.range 4).filter (fun k => k < s.shape.pkg && (s.stack k).tst && s.unfenced k)).foldl (fun v k => v + 2 ^ k) 0
    + 2 ^ 28 * (s.shed % 16) + 2 ^ 32 * (s.vnum % 65536)

/-- The value of a system register of the issuing strand, by its number (R17, R29, R35, R65, R177, R196, R197, R243, R319, R362, R421). -/
def State.sysValue (s : State) (n : Nat) : Option Word :=
  if n = 0 then some (BitVec.ofNat 64 (s.cur + 2 ^ 8 * (s.cur / 2) + 2 ^ 14 * (s.cur / 32)))
  else if n = 1 then some (BitVec.ofNat 64 s.me.ctx)
  else if n = 3 then some s.me.preds
  else if n = 4 then some s.me.rngk
  else if n = 5 then some s.me.rngc
  else if n = 0x10 then some s.me.trap.tcause
  else if n = 0x11 then some s.me.trap.tpc
  else if n = 0x12 then some s.me.trap.taddr
  else if n = 0x13 then some s.me.trap.tval
  else if n = 0x14 then some s.me.trap.tword
  else if n = 0x15 then some s.me.trap.tprd
  else if n = 0x16 then some s.me.trap.tscr
  else if n = 0x17 then some s.me.trap.tact
  else if n = 0x18 then some s.me.trap.tcql
  else if n = 0x19 then some s.me.trap.tcqx
  else if n = 0x1A then some s.me.trap.tcqs
  else if n = 0x1B then some s.me.trap.tcil
  else if n = 0x1C then some s.me.trap.tcix
  else if n = 0x1D then some s.me.trap.tcis
  else if n = 0x1E then some s.me.trap.tlane
  else if n = 6 then some (BitVec.ofNat 64 (((s.core (coreOf s.cur)).raw.filter (fun x => x.2.busy)).length
    + 2 ^ 8 * ((s.core (coreOf s.cur)).raw.filter (fun x => x.2.busy && x.2.berth == s.cur)).length))
  else if 0x109 ≤ n ∧ n ≤ 0x10E then some (([0x44008, 0x44009, 0x4200A, 0x40100B, 0x1080C, 0x40100D] : List Word).getD (n - 0x109) 0)
  else if n = 0x141 then some 0
  else if n = 0x142 then some s.svcTim
  else if n = 0x143 then some (BitVec.ofNat 64 s.svcSusVal)
  else if 0x150 ≤ n ∧ n ≤ 0x164 then some ((s.ctx s.myCtx).words.getD (n - 0x150) 0)
  else if 0x180 ≤ n ∧ n ≤ 0x19F then some ((s.core (coreOf s.cur)).ring (n - 0x180)).desc
  else if 0x1A0 ≤ n ∧ n ≤ 0x1AF then some (s.me.getQ (n - 0x1A0))
  else if n = 0x1B0 then some (s.core (coreOf s.cur)).mcb
  else none

/-- A number that no chapter assigns (R22, R65, R177, R378). -/
def sysAbsent (n : Nat) : Prop :=
  (7 ≤ n ∧ n < 0x10) ∨ (0x1F ≤ n ∧ n < 0x100) ∨ (0x144 ≤ n ∧ n < 0x150) ∨ (0x165 ≤ n ∧ n < 0x180) ∨ 0x1B1 ≤ n

/-! ## Engine records (R31, R57, R140, R230–R239) -/

/-- Queue and operation of a record instruction (R140). -/
def recForm (i : Instr) : Option (Nat × Nat × Rec) :=
  match i with
  | .lTile r => some (0, 0, r)
  | .lGth r => some (0, 1, r)
  | .lMc r => some (0, 2, r)
  | .lSc r => some (0, 3, r)
  | .lAcc r => some (0, 4, r)
  | .lZero r => some (0, 5, r)
  | .lPf r => some (0, 6, r)
  | .lCv r => some (0, 7, r)
  | .mma r => some (1, 0, r)
  | .mmaSp r => some (1, 1, r)
  | .accZero r => some (1, 2, r)
  | .accCopy r => some (1, 3, r)
  | .vAdd r => some (1, 16, r)
  | .vSub r => some (1, 17, r)
  | .vMul r => some (1, 18, r)
  | .vFma r => some (1, 19, r)
  | .vMin r => some (1, 20, r)
  | .vMax r => some (1, 21, r)
  | .vAbs r => some (1, 22, r)
  | .vNeg r => some (1, 23, r)
  | .vSel r => some (1, 24, r)
  | .vCmp r => some (1, 25, r)
  | .vCvt r => some (1, 26, r)
  | .vMov r => some (1, 27, r)
  | .vBcast r => some (1, 28, r)
  | .vAnd r => some (1, 29, r)
  | .vOr r => some (1, 30, r)
  | .vXor r => some (1, 31, r)
  | .vShl r => some (1, 32, r)
  | .vShr r => some (1, 33, r)
  | .vExp2 r => some (1, 34, r)
  | .vLog2 r => some (1, 35, r)
  | .vRcp r => some (1, 36, r)
  | .vRsqrt r => some (1, 37, r)
  | .vTanh r => some (1, 38, r)
  | .vClamp r => some (1, 39, r)
  | .rSum r => some (1, 48, r)
  | .rMax r => some (1, 49, r)
  | .rMin r => some (1, 50, r)
  | .rAmax r => some (1, 51, r)
  | .rArgmax r => some (1, 52, r)
  | .rTopk r => some (1, 53, r)
  | .xTr r => some (1, 64, r)
  | .xGth r => some (1, 65, r)
  | .sdfSmp r => some (1, 80, r)
  | .sweep r => some (1, 81, r)
  | .sTile r => some (2, 0, r)
  | .sQuant r => some (2, 1, r)
  | .sScat r => some (2, 2, r)
  | .sRed r => some (2, 3, r)
  | .sMeet r => some (2, 4, r)
  | .sCkpt r => some (2, 5, r)
  | .sRing r => some (2, 6, r)
  | _ => none

/-- The head record of queue q on berth b (R31): the oldest that has not retired. -/
def State.headIs (s : State) (b q : Nat) (r : QRec) : Prop :=
  r ∈ (s.berth b).recs ∧ r.q = q ∧ (s.berth b).head q = some r ∧ ∀ x ∈ (s.berth b).recs, x.q = q → x.idx = r.idx → x = r

/-- Nothing but queue records, token FIFOs, counters, ages and unpublished stores of berth b's strand has changed of it: no register, and
C goes on where it was. -/
def Berth.sameC (B C : Berth) : Prop :=
  B.sameRegs C ∧ C.pc = B.pc ∧ C.pfx = B.pfx ∧ C.st = B.st ∧ C.waiting = B.waiting ∧ C.cut = B.cut ∧ C.app = B.app

/-! ## What an issue writes (R241–R262, R274–R278) -/

/-- The k elements of a stream from element e on, element e + v with code f v. -/
def rowOf (t : Str) (e : Int) (k : Nat) (f : Nat → Nat) : List (Str × Int × Nat) := (List.range k).map (fun (v : Nat) => (t, e + (v : Int), f v))

/-- Issue n of a record that copies, converts or clears writes these elements and no scale word (R241, R248, R255–R257, R262). -/
def CopyIssue (u : State) (b n : Nat) (r : QRec) : Prop :=
  let w := u.issueWrites b r n
  let D := u.str b r 0
  let A := u.str b r 1
  let B := u.str b r 2
  let iD := r.ix 0 n
  let iA := r.ix 1 n
  let iB := r.ix 2 n
  let ne := recNe r.r
  let is := fun (q opn : Nat) => r.q = q ∧ r.opn = opn
  (is 0 0 ∨ is 0 4 ∨ is 2 0 → w = ⟨rowOf D iD ne (fun v => u.code b r A (iA + v)), [], []⟩)
    ∧ (is 0 1 → w = ⟨rowOf D iD ne (fun v => u.code b r A (iA + (u.uval b r B iB).toInt + v)), [], []⟩)
    ∧ (is 0 2 ∨ is 0 6 ∨ is 2 3 ∨ is 2 4 ∨ is 2 6 → w = ⟨[], [], []⟩)
    ∧ (is 0 3 → w = ⟨rowOf D iD ne (fun v => u.code b r A (iA + v) % 2 ^ 20), [], []⟩)
    ∧ (is 0 5 → w = ⟨rowOf D iD ne (fun _ => 0), [], []⟩)
    ∧ (is 0 7 → w = ⟨rowOf D iD ne (fun v => D.encode r.r (u.val b r A (iA + v)) (r.draw (n * ne + v))), [], []⟩)
    ∧ (is 1 2 → w = ⟨rowOf D iD 1024 (fun _ => 0), [], []⟩)
    ∧ (is 1 3 → w = ⟨rowOf D iD 1024 (fun v => u.code b r A (iA + v)), [], []⟩)
    ∧ (is 1 65 → w = ⟨rowOf D iD (recV r.r) (fun v => u.code b r A (iA + (u.uval b r B (iB + v)).toInt)), [], []⟩)
    ∧ (is 2 2 → w = ⟨rowOf D (iD + (u.uval b r B iB).toInt) ne (fun v => u.code b r A (iA + v)), [], []⟩)
    ∧ (is 2 5 → w = ⟨rowOf D iD ne (fun v => u.code b r A (iA + v)) ++ (match u.partner (stackOf b) with
        | some p => rowOf (D.mirror (u.ctx (u.berth b).ctx).ckpt (stackOf b) p) iD ne (fun v => u.code b r A (iA + v))
        | none => []), [], []⟩)

/-- The lane results of the vector operations that compute (R250, R251). -/
def laneOps (rdn : Bool) : List (Nat × (XVal → XVal → XVal → XVal)) :=
  [(16, fun a y _ => xadd rdn a y), (17, fun a y _ => xadd rdn a y.neg), (18, fun a y _ => xmul a y), (19, fun a y z => xadd rdn (xmul a y) z),
   (20, fun a y _ => xmin a y), (21, fun a y _ => xmax a y), (22, fun a _ _ => a.abs), (23, fun a _ _ => a.neg), (26, fun a _ _ => a),
   (34, fun a _ _ => xexp2 a), (35, fun a _ _ => xlog2 a), (36, fun a _ _ => xrcp a), (37, fun a _ _ => xrsqrt a), (38, fun a _ _ => xtanh a),
   (39, fun a y z => xmin (xmax a y) z)]

/-- Issue n of a vector record writes V elements of D, lane v from element Ix + v of each operand (R249–R251). -/
def VectorIssue (u : State) (b n : Nat) (r : QRec) : Prop :=
  let w := u.issueWrites b r n
  let D := u.str b r 0
  let A := u.str b r 1
  let B := u.str b r 2
  let C := u.str b r 3
  let V := recV r.r
  let int := u.intForm b r
  let imm : XVal := if int then xint r.r.imm.toInt else fp64.dec r.r.imm.toNat
  let val := fun (t : Str) (e : Int) => if int then u.uval b r t e else u.val b r t e
  let a := fun (v : Nat) => val A (r.ix 1 n + v)
  let y := fun (v : Nat) => if recBi r.r then imm else val B (r.ix 2 n + v)
  let z := fun (v : Nat) => val C (r.ix 3 n + v)
  let put := fun (x : XVal) (v : Nat) => if int then intEnc D.fmt x r.r.sat else D.encode r.r x (r.draw (n * V + v))
  let cA := fun (v : Nat) => u.code b r A (r.ix 1 n + v)
  let cB := fun (v : Nat) => if recBi r.r then r.r.imm.toNat % 2 ^ D.c else u.code b r B (r.ix 2 n + v)
  let by' := fun (v : Nat) => if recBi r.r then r.r.imm.toNat % 256 else u.code b r B (r.ix 2 n + v)
  let row := fun (f : Nat → Nat) => w = ⟨rowOf D (r.ix 0 n) V f, [], []⟩
  let cc := fld r.r.ctl.toNat 10 3
  r.q = 1 →
    (∀ x ∈ laneOps (r.r.round == 3), r.opn = x.1 → row (fun v => put (x.2 (a v) (y v) (z v)) v))
    ∧ (r.opn = 28 → row (fun v => put (if recBi r.r then imm else val A (r.ix 1 n)) v))
    ∧ (r.opn = 24 → row (fun v => if (u.uval b r C (r.ix 3 n + v)).isZero then cB v else cA v))
    ∧ (r.opn = 25 → (cc = 0 → row (fun v => b2n (xeq (a v) (y v)))) ∧ (cc = 1 → row (fun v => b2n (!(xeq (a v) (y v)))))
        ∧ (cc = 2 → row (fun v => b2n (xlt (a v) (y v)))) ∧ (cc = 3 → row (fun v => b2n (xle (a v) (y v))))
        ∧ (cc = 4 → row (fun v => b2n ((a v).isNan || (y v).isNan))))
    ∧ (r.opn = 27 → row cA) ∧ (r.opn = 29 → row (fun v => cA v &&& cB v)) ∧ (r.opn = 30 → row (fun v => cA v ||| cB v))
    ∧ (r.opn = 31 → row (fun v => cA v ^^^ cB v))
    ∧ (r.opn = 32 → row (fun v => if D.c ≤ by' v then 0 else 2 ^ by' v * cA v % 2 ^ D.c))
    ∧ (r.opn = 33 → row (fun v => lowI ((u.uval b r A (r.ix 1 n + v)).toInt / (2 ^ min (by' v) (max D.c A.c) : Nat)) D.c))
    ∧ (int = true ↔ (r.opn < 34 ∨ 38 < r.opn) ∧ ∀ x ∈ r.uses, (u.str b r x.slot).fmt.cls = 1 ∧ stSb (r.stream x.slot) = 0)

/-- Issue n of a reduction record adds its V inputs to the group's, and after the group's last issue writes the result and where it stood (R115–R117, R252,
R253). -/
def ReduceIssue (u : State) (b n : Nat) (r : QRec) : Prop :=
  let w := u.issueWrites b r n
  let D := u.str b r 0
  let A := u.str b r 1
  let C := u.str b r 3
  let int := u.intForm b r
  let T := recT0 r.r
  let xs := (List.range (recV r.r)).map (fun (v : Nat) => if int then u.uval b r A (r.ix 1 n + v) else u.val b r A (r.ix 1 n + v))
  let g := (if n % T = 0 then [] else r.gval) ++ xs
  let grp := n / T
  let put := fun (x : XVal) (i : Nat) =>
    if int then (match x with
      | .fin .. => intEnc D.fmt x r.r.sat
      | _ => D.fmt.enc x 0 r.r.sat false 0)
    else D.encode r.r x (r.draw i)
  let one := fun (x : XVal) => w = ⟨[(D, r.ixG 0 n, put x grp)], [], []⟩
  let k := fld r.r.ctl.toNat 10 6 + 1
  r.q = 1 → 48 ≤ r.opn → r.opn ≤ 53 →
    (n % T + 1 < T → w = ⟨[], [], g⟩)
    ∧ (T ≤ n % T + 1 →
      (r.opn = 48 → one (g.foldl (xadd false) (.fin true 0 0 1))) ∧ (r.opn = 49 → one (g.foldl xmax (.inf true)))
      ∧ (r.opn = 50 → one (g.foldl xmin (.inf false))) ∧ (r.opn = 51 → one ((g.map XVal.abs).foldl xmax xzero))
      ∧ (r.opn = 52 → w = ⟨[(D, r.ixG 0 n, put (argMax g).1 grp), (C, r.ixG 3 n, (argMax g).2)], [], []⟩)
      ∧ (r.opn = 53 → w = ⟨rowOf D (r.ixG 0 n) k (fun i => D.encode r.r ((topK g k).getD i (.nan, 0)).1 (r.draw (grp * k + i)))
          ++ rowOf C (r.ixG 3 n) k (fun i => ((topK g k).getD i (.nan, 0)).2), [], []⟩))

/-- Issue n of `mma` or `mma.sp` writes the 32 × 32 elements of D, each the FP32 accumulation of its segments in order (R113, R114, R246, R247); that of `x.tr` the
block transposed, with its scale word (R254); that of `s.quant` the block under its scale, with that scale, or `ne` conversions (R258). -/
def BlockIssue (u : State) (b n : Nat) (r : QRec) : Prop :=
  let w := u.issueWrites b r n
  let D := u.str b r 0
  let A := u.str b r 1
  let B := u.str b r 2
  let g := u.mmaSeg b r
  let at' := fun (t : Str) (k i j : Nat) => r.ix k n + ((i * stCols t.v + j : Nat) : Int)
  let colB := fun (c : Nat) => (List.range 96).map (fun k => u.uval b r B (at' B 2 k c))
  let seg := fun (i c k : Nat) => (List.zip (((u.mmaRow b r n i).drop (k * g)).take g) (((colB c).drop (k * g)).take g)).filterMap
    (fun x => x.1.map (fun a => xmul a x.2))
  let acc := fun (i c : Nat) => (List.range (96 / g)).foldl (fun (m k : Nat) =>
    fp32.enc (xadd false (fp32.dec m) (fp32.dec (mmaSegment (seg i c k) (u.scale b A (at' A 1 i (k * g))) (u.scale b B (at' B 2 (k * g) c))))) 0 false false 0)
    (u.code b r D (r.ix 0 n + ((32 * i + c : Nat) : Int)))
  let X := fun (bl i : Nat) => u.val b r A (at' A 1 (i / bl) (i % bl))
  let m := ((List.range (D.blk * D.blk)).map (X D.blk)).foldl (fun m x => match x with
    | .fin .. => if xlt m x.abs then x.abs else m
    | _ => m) xzero
  let top := xdiv m (D.fmt.dec D.fmt.maxMag)
  let scm := fld r.r.ctl.toNat 12 2
  let k := trBlock r.r
  (r.q = 1 → r.opn ≤ 1 → w = ⟨(List.range 32).flatMap (fun i => (List.range 32).map (fun c => (D, r.ix 0 n + ((32 * i + c : Nat) : Int), acc i c))), [], []⟩)
    ∧ (r.opn = 0 → ∀ i, u.mmaRow b r n i = (List.range 96).map (fun k => some (u.uval b r A (at' A 1 i k))))
    ∧ (g = if mmaKind A.fmt = 1 ∨ mmaKind B.fmt = 1 then 8 else if A.blk = 0 then 32 else A.blk)
    ∧ (r.q = 1 → r.opn = 64 → w = ⟨(List.range (k * k)).map (fun i => (D, at' D 0 (i % k) (i / k), u.code b r A (at' A 1 (i / k) (i % k)))),
        if A.blk = 0 then [] else [(D.scaleAt (r.ix 0 n).toNat, leNat (u.spBytes b (A.scaleAt (r.ix 1 n).toNat) 4) % 2 ^ 20)], []⟩)
    ∧ (r.q = 2 → r.opn = 1 → D.blk = 0 → w = ⟨rowOf D (r.ix 0 n) (recNe r.r) (fun v =>
        D.encode r.r (u.val b r A (r.ix 1 n + v)) (r.draw (n * recNe r.r + v))), [], []⟩)
    ∧ (r.q = 2 → r.opn = 1 → D.blk ≠ 0 → ∃ sc, w.words = [(D.scaleAt (r.ix 0 n).toNat, sc)] ∧ w.gval = []
        ∧ ((∃ i < D.blk * D.blk, (X D.blk i).isNan = true) → sc = 0xFFFFF)
        ∧ ((∀ i < D.blk * D.blk, (X D.blk i).isNan = false) → (scm = 1 → sc = fld r.r.imm.toNat 0 20) ∧ (scm ≠ 1 → m.isZero = true → sc = 0)
          ∧ (scm = 0 → m.isZero = false → sc = scaleAbove top false 0xFEFFF) ∧ (scm = 2 → m.isZero = false → sc = scaleAbove top true 0xFE000))
        ∧ w.els = (List.range (D.blk * D.blk)).map (fun i => (D, at' D 0 (i / D.blk) (i % D.blk),
            D.encode r.r (if sc = 0 then X D.blk i else if (decScale sc).isNan then .nan else xdiv (X D.blk i) (decScale sc))
              (r.draw (n * (D.blk * D.blk) + i)))))

/-- One segment of R114 whose products and scales are finite and not zero: its exact sum, scaled, as an FP32 code; an empty one is +0; a NaN makes it NaN. -/
def SegmentLaw (ps : List XVal) (sA sB : XVal) : Prop :=
  (ps = [] → mmaSegment ps sA sB = 0)
    ∧ (ps ≠ [] → (ps.any XVal.isNan || sA.isNan || sB.isNan) = true → mmaSegment ps sA sB = fp32.nanCode)
    ∧ (ps ≠ [] → (∀ p ∈ ps, p.isNan = false ∧ p ≠ .inf true ∧ p ≠ .inf false) → sA.isNan = false → sB.isNan = false →
        let p := ps.foldl (xadd false) (.fin true 0 0 1)
        p.isZero = false → sA.isZero = false → sB.isZero = false → mmaSegment ps sA sB = fp32.enc (xmul (xmul p sA) sB) 0 false false 0)

/-- Issue n of `sdf.smp` writes V samples, that of `sweep` the first pose that hits (R275–R278). -/
def SdfIssue (u : State) (b n : Nat) (r : QRec) : Prop :=
  let w := u.issueWrites b r n
  let D := u.str b r 0
  let p := fun (v k : Nat) => u.uval b r (u.str b r 1) (r.ix 1 n + ((3 * v + k : Nat) : Int))
  r.q = 1 →
    (r.opn = 80 → w = ⟨rowOf D (r.ix 0 n) (recV r.r) (fun v => D.fmt.enc (u.sample b r (p v 0) (p v 1) (p v 2)) 0 r.r.sat false 0), [], []⟩)
    ∧ (r.opn = 81 → (∀ j < recNe r.r, u.poseHit b r n j = true → (∀ i < j, u.poseHit b r n i = false) → w = ⟨[(D, r.ix 0 n, j)], [], []⟩)
        ∧ ((∀ i < recNe r.r, u.poseHit b r n i = false) → w = ⟨[(D, r.ix 0 n, 0xFFFFFFFF)], [], []⟩))
    ∧ (∀ j, u.poseHit b r n j = true ↔ ∃ m ≤ fld r.r.ctl.toNat 12 4, let (x, y, z, rad) := u.discAt b r n j m
        (u.sample b r x y z).isNan = true ∨ rad.isNan = true ∨ xlt (u.sample b r x y z) rad = true)

/-- The bytes that the writes of an issue leave: SetCode of R245 for each element in turn, then the scale words. -/
def WritesLaid (u : State) (b : Nat) (r : QRec) : Prop :=
  u.writesBuf b r ⟨[], [], []⟩ = ⟨[], [], []⟩
    ∧ (∀ els t e v, u.writesBuf b r ⟨els ++ [(t, e, v)], [], []⟩ = u.setCode b r (u.writesBuf b r ⟨els, [], []⟩) t e v)
    ∧ (∀ els ws a v g, u.writesBuf b r ⟨els, ws ++ [(a, v)], g⟩
        = { u.writesBuf b r ⟨els, ws, g⟩ with sp := ovPut (u.writesBuf b r ⟨els, ws, g⟩).sp a (leBytes v 4) })
    ∧ (∀ (w : Buf) (t : Str) (e : Nat) (v : Nat), let i := e * t.c / 8; let x := u.setCode b r w t (e : Int) v; 8 ≤ t.c →
        (t.spc = 1 ∨ t.spc = 3 → x = { w with sp := ovPut w.sp (t.base + i) (leBytes (v % 2 ^ t.fmt.codeBits) (t.c / 8)) })
        ∧ (t.spc = 2 → x = { w with acc := ovPut w.acc (t.base + i) (leBytes (v % 2 ^ t.fmt.codeBits) (t.c / 8)) })
        ∧ (t.spc = 0 → x.sp = w.sp ∧ x.acc = w.acc))
    ∧ (∀ (w : Buf) (t : Str) (e : Nat) (v : Nat), let i := e * t.c / 8; t.c < 8 → e * t.c % 8 + t.c ≤ 8 → t.spc = 1 ∨ t.spc = 3 →
        ∃ y : Byte, u.setCode b r w t (e : Int) v = { w with sp := ovPut w.sp (t.base + i) [y] }
          ∧ fld y.toNat (e * t.c % 8) t.c = v % 2 ^ t.fmt.codeBits % 2 ^ t.c
          ∧ ∀ k < 8, (k < e * t.c % 8 ∨ e * t.c % 8 + t.c ≤ k) → y.getLsbD k = ((u.bufByte b r t w i)).getLsbD k)

/-! ## The order log (R304–R312) -/

/-- Record k of the log of launch slot lsl as its slot holds it (R304, R306), where it can be read and its `lsq` is its own. -/
def State.logAt (s : State) (n lsl k : Nat) : Option LogReq :=
  match s.readVA n ((s.launch n lsl).logSlot k) 32 with
  | .ok bs => let w := leNat bs
    if fld w 24 8 = k % 256 then some ⟨fld w 0 8, fld w 128 64, fld w 192 64, fld w 93 3, fld w 32 32, fld w 16 8, fld w 96 32⟩ else none
  | .error _ => none

/-- Record k, which is q, is the first one placed and not consumed that satisfies p, and no END or BREAK stands before it (R311, R312). -/
def State.logFirst (s : State) (n lsl k : Nat) (p : LogReq → Bool) (q : LogReq) : Prop :=
  k < s.lcnt n lsl ∧ AMap.get false (s.launch n lsl).log.used k = false ∧ s.logAt n lsl k = some q
    ∧ ∀ j ≤ k, AMap.get false (s.launch n lsl).log.used j = false →
      ∃ x, s.logAt n lsl j = some x ∧ x.typ ≠ 2 ∧ x.typ ≠ 3 ∧ (p x = true ↔ j = k)

/-! ## Atomics (R81–R83, R210–R213) -/

/-- Operation, width in bytes, destination, address and data registers, comparand, ordering, scope and `ord` of an `atom`. -/
def atomForm (i : Instr) (G : GReg → Word) : Option (Nat × Nat × GReg × GReg × GReg × Word × Nat × Nat × Bool) :=
  let w := fun (c : Bool) => if c then 4 else 8
  match i with
  | .atomAdd d a b c o sc r => some (0, w c, d, a, b, 0, o.toNat, sc.toNat, r)
  | .atomSub d a b c o sc r => some (1, w c, d, a, b, 0, o.toNat, sc.toNat, r)
  | .atomAnd d a b c o sc r => some (2, w c, d, a, b, 0, o.toNat, sc.toNat, r)
  | .atomOr d a b c o sc r => some (3, w c, d, a, b, 0, o.toNat, sc.toNat, r)
  | .atomXor d a b c o sc r => some (4, w c, d, a, b, 0, o.toNat, sc.toNat, r)
  | .atomMin d a b c o sc r => some (5, w c, d, a, b, 0, o.toNat, sc.toNat, r)
  | .atomMax d a b c o sc r => some (6, w c, d, a, b, 0, o.toNat, sc.toNat, r)
  | .atomMinn d a b c o sc r => some (7, w c, d, a, b, 0, o.toNat, sc.toNat, r)
  | .atomMaxn d a b c o sc r => some (8, w c, d, a, b, 0, o.toNat, sc.toNat, r)
  | .atomXchg d a b c o sc r => some (9, w c, d, a, b, 0, o.toNat, sc.toNat, r)
  | .atomCas d a b c o sc r => some (10, 8, d, a, b, G c, o.toNat, sc.toNat, r)
  | .atomFaddS d a b o sc r => some (11, 4, d, a, b, 0, o.toNat, sc.toNat, r)
  | .atomFaddD d a b o sc r => some (12, 8, d, a, b, 0, o.toNat, sc.toNat, r)
  | .atomFmaxS d a b o sc r => some (13, 4, d, a, b, 0, o.toNat, sc.toNat, r)
  | .atomFminS d a b o sc r => some (14, 4, d, a, b, 0, o.toNat, sc.toNat, r)
  | _ => none

/-- s once the requests of a list have been performed at their homes, one after another (R315). -/
def State.performed (s : State) : List AtomReq → State
  | [] => s
  | q :: rest => State.performed (match s.xlate q.ctx (fld q.ptr.toNat 0 50) q.ptr .at with
    | .ok l => s.atomRun q l.pa
    | .error f => s.atomFail q f) rest

/-- Reduction window n of a context (R86). -/
def State.win (s : State) (ctx n : Nat) : Window := (s.ctx ctx).win n

/-! ## The scheduler, launches and pre-emption (R33–R54, R280–R300, R331, R332) -/

/-- Nothing but berth b has changed, which is now B. -/
def BerthIs (s t : State) (b : Nat) (B : Berth) : Prop :=
  t = { s with berths := t.berths } ∧ t.berth b = B ∧ ∀ c, c ≠ b → t.berth c = s.berth c

/-- Nothing but context n has changed, which is now C. -/
def CtxIs (s t : State) (n : Nat) (C : Ctx) : Prop :=
  t = { s with ctxs := t.ctxs } ∧ t.ctx n = C ∧ ∀ m, m ≠ n → t.ctx m = s.ctx m

/-- Nothing but stack k has changed, which is now T. -/
def StackIs (s t : State) (k : Nat) (T : Stack) : Prop :=
  t = { s with stks := t.stks } ∧ t.stack k = T ∧ ∀ j, j ≠ k → t.stack j = s.stack j

/-- R339: the token in `dv_tok` is signed for this device, its challenge and version 1 with the key that the active port's stack holds. A premise about the
signature, whose verification is opaque here. -/
def State.tokenSigned (s : State) : Prop :=
  let t := memBytes s.token 0 2496
  t.take 32 = sha3 (fit 1312 (Config.identityKey s.seed)) ∧ (t.drop 32).take 32 = s.challenge ∧ leNat ((t.drop 72).take 4) = 1
    ∧ Config.mldsaVerify (s.stack s.act).debugHash (sha3 (t.take 76)) (t.drop 76) = true

/-- R336: a firmware image is signed with the vendor's key, and its version is no older than the fuses ask. A premise about the signature, whose
verification is opaque here. -/
def Stack.imageSigned (t : Stack) (img : List Byte) : Prop :=
  let w := imageWhole img
  let key := (w.take 1328).drop 16
  sha3 key = t.vendorHash ∧ Config.mldsaVerify key (sha3 (w.take 1328 ++ w.drop 4096)) ((w.take 3748).drop 1328) = true
    ∧ t.rollback ≤ leNat ((w.drop 4).take 4)

/-- C of berth b waits for nothing that could be withdrawn: no atomic with a reply, no `tsub`, no merge of a window (R225). -/
def State.noneAsked (s : State) (b : Nat) : Prop :=
  (∀ a ∈ s.atoms, (a.ofC b && a.reply) = false) ∧ (∀ c ∈ s.contribs, (c.req.ofC b && c.req.reply) = false) ∧ (∀ x ∈ s.tsubs, x.berth ≠ b)
    ∧ ∀ c ∈ s.ctxs, ∀ w ∈ c.2.wins, w.2.closing ≠ some b

/-- R424: stack j of the package parts from stack k: its gates towards it are closed, what it held of their traffic is dropped. -/
def Stack.parted (T : Stack) (j k : Nat) : Stack :=
  { T with gates := setBitN T.gates (portTo j k) true, lrec := setBitN T.lrec k false, send := T.send.filter (fun e => e.1 / 8 != k),
           recv := T.recv.filter (fun e => e.1 / 8 != k) }

/-- Nothing but core c has changed, which is now K. -/
def CoreIs (s t : State) (c : Nat) (K : Core) : Prop :=
  t = { s with cores := t.cores } ∧ t.core c = K ∧ ∀ j, j ≠ c → t.core j = s.core j

/-- Nothing but stage i of a launch has changed, which is now q. -/
def StageIs (s t : State) (n lsl i : Nat) (q : StageQ) : Prop :=
  t = { s with ctxs := t.ctxs } ∧ (∀ m, t.ctx m = { s.ctx m with launches := (t.ctx m).launches }) ∧ (∀ m, m ≠ n → t.ctx m = s.ctx m)
    ∧ t.launch n lsl = { s.launch n lsl with stages := (t.launch n lsl).stages } ∧ (t.launch n lsl).stage i = q
    ∧ ∀ j, j ≠ i → (t.launch n lsl).stage j = (s.launch n lsl).stage j

/-- The table of berths lists each berth once, in order: an invariant of the machine. -/
def State.berthsInOrder (s : State) : Prop := (s.berths.map (·.1)).Pairwise (· < ·)

/-! ## Safe states and runs -/

/-- What every run keeps: memory in its canonical form, the berths in order. -/
def State.Inv (s : State) : Prop := Memory.wf s.mem = true ∧ s.berthsInOrder

/-- The machine goes on from s: its next step is neither a fault nor a refusal. -/
def State.GoesOn (s : State) : Prop := ∃ t, step s = .next t

/-- A safe run of n steps from s: the machine goes on at each. -/
def SafeRun : Nat → State → Prop
  | 0, _ => True
  | n + 1, s => ∃ t, step s = .next t ∧ SafeRun n t

end Sys2Proof.Machine
end

