-- ==== Sys2Proof/Certificates/Slice0/Obligations.lean ====
section
/-! DEFINITION. The statements for the provers. -/

open Sys2Proof Sys2Proof.Machine

/-- R154–R157, R160, R168: the integer instructions write the result of their table row and nothing else. -/
def Obligations.IntegerResults : Prop :=
  ∀ (i : Instr) (s : State) (d : GReg) (v : Word) (n : Nat), s.suits i → intValue i s.pfx.sat s.G s.P = some (d, v, n) →
    ∃ t, exec i s = .next t ∧ WroteG s t d v n

/-- R158, R159, R163: the instructions that write a predicate, from integers, predicates and floating-point values. -/
def Obligations.PredicateResults : Prop :=
  (∀ (i : Instr) (s : State) (d : PReg) (v : Prop) (n : Nat), s.suits i → predValue i s.G s.P = some (d, v, n) →
     ∃ t b, exec i s = .next t ∧ (b = true ↔ v) ∧ WroteP s t d b n)
  ∧ (∀ (i : Instr) (s : State) (d : PReg) (v : Prop), s.suits i → floatCompare i s.pfx.ftz s.G = some (d, v) →
       ∃ t b, exec i s = .next t ∧ (b = true ↔ v) ∧ WroteP s t d b 4)

/-- R161, R164, R178: floating-point arithmetic and conversion; that a form which rounds draws under stochastic rounding whatever its operands, and that `sat`
takes a finite value over zero for an overflow, are the model's choices (log entries 94, 32). -/
def Obligations.FloatResults : Prop :=
  ∀ (i : Instr) (s : State) (d : GReg) (v : Word) (used : Nat), s.suits i →
    floatValue i s.pfx s.G (draw16 s.me.rngk s.me.rngc) = some (d, v, used) →
    ∃ t, exec i s = .next t ∧ WroteGDrew s t d v 4 used

/-- R162: a NaN operand gives the canonical NaN, and a non-zero finite value divided by a zero an infinity of the product of the signs; that `sat` makes it
the largest finite magnitude is the model's choice (log entry 32). -/
def Obligations.FloatSpecials : Prop :=
  (∀ (i : Instr) (s : State) (d : GReg) (f : NFmt) (xs : List Word), s.suits i → floatOperands i s.G = some (d, f, xs) → d ≠ 0 →
    (∃ x ∈ xs, (f.dec (x.toNat % 2 ^ f.container)).isNan = true) →
    ∃ t, exec i s = .next t ∧ t.G d = if f = fp64 then 0x7FF8000000000000 else 0x7FC00000)
  ∧ (∀ (s : State) (d a b : GReg) (sx sy : Bool) (n k : Nat) (e e' : Int) (m : Nat), d ≠ 0 → n ≠ 0 →
    (s.suits (.fdivD d a b) → fopnd fp64 s.pfx.ftz (s.G a) = .fin sx n e k → fopnd fp64 s.pfx.ftz (s.G b) = .fin sy 0 e' m →
      ∃ t, exec (.fdivD d a b) s = .next t ∧ t.G d = if s.pfx.sat then (if sx = sy then 0x7FEFFFFFFFFFFFFF else 0xFFEFFFFFFFFFFFFF)
        else if sx = sy then 0x7FF0000000000000 else 0xFFF0000000000000)
    ∧ (s.suits (.fdivS d a b) → fopnd fp32 s.pfx.ftz (s.G a) = .fin sx n e k → fopnd fp32 s.pfx.ftz (s.G b) = .fin sy 0 e' m →
      ∃ t, exec (.fdivS d a b) s = .next t ∧ t.G d = if s.pfx.sat then (if sx = sy then 0x7F7FFFFF else 0xFF7FFFFF)
        else if sx = sy then 0x7F800000 else 0xFF800000))

/-- R154, R211: what the bit counts and the byte reversal are, and what an integer atomic writes, for both widths. -/
def Obligations.WordOperations : Prop :=
  (∀ x : Word,
     ((clzOp x).toNat ≤ 64 ∧ (∀ i < (clzOp x).toNat, x.getMsbD i = false) ∧ ((clzOp x).toNat < 64 → x.getMsbD (clzOp x).toNat = true))
     ∧ ((ctzOp x).toNat ≤ 64 ∧ (∀ i < (ctzOp x).toNat, x.getLsbD i = false) ∧ ((ctzOp x).toNat < 64 → x.getLsbD (ctzOp x).toNat = true))
     ∧ (popOp x).toNat = ((List.range 64).filter (fun i => x.getLsbD i)).length
     ∧ ∀ i < 8, (bswapOp x).extractLsb' (8 * i) 8 = x.extractLsb' (8 * (7 - i)) 8)
  ∧ ((∀ (x y : BitVec 64) (c : Nat), atomNew 0 8 x.toNat y.toNat c = (x + y).toNat ∧ atomNew 1 8 x.toNat y.toNat c = (x - y).toNat
       ∧ atomNew 2 8 x.toNat y.toNat c = (x &&& y).toNat ∧ atomNew 3 8 x.toNat y.toNat c = (x ||| y).toNat
       ∧ atomNew 4 8 x.toNat y.toNat c = (x ^^^ y).toNat ∧ atomNew 5 8 x.toNat y.toNat c = (if x.toInt ≤ y.toInt then x else y).toNat
       ∧ atomNew 6 8 x.toNat y.toNat c = (if x.toInt ≤ y.toInt then y else x).toNat
       ∧ atomNew 7 8 x.toNat y.toNat c = min x.toNat y.toNat ∧ atomNew 8 8 x.toNat y.toNat c = max x.toNat y.toNat
       ∧ atomNew 9 8 x.toNat y.toNat c = y.toNat ∧ ∀ z : BitVec 64, atomNew 10 8 x.toNat y.toNat z.toNat = (if x = z then y else x).toNat)
     ∧ (∀ (x y : BitVec 32) (c : Nat), atomNew 0 4 x.toNat y.toNat c = (x + y).toNat ∧ atomNew 1 4 x.toNat y.toNat c = (x - y).toNat
       ∧ atomNew 2 4 x.toNat y.toNat c = (x &&& y).toNat ∧ atomNew 3 4 x.toNat y.toNat c = (x ||| y).toNat
       ∧ atomNew 4 4 x.toNat y.toNat c = (x ^^^ y).toNat ∧ atomNew 5 4 x.toNat y.toNat c = (if x.toInt ≤ y.toInt then x else y).toNat
       ∧ atomNew 6 4 x.toNat y.toNat c = (if x.toInt ≤ y.toInt then y else x).toNat
       ∧ atomNew 7 4 x.toNat y.toNat c = min x.toNat y.toNat ∧ atomNew 8 4 x.toNat y.toNat c = max x.toNat y.toNat
       ∧ atomNew 9 4 x.toNat y.toNat c = y.toNat))

/-- R153, R174, R175, R179, R221, R287: units that touch the strand's own registers only. -/
def Obligations.StrandUnits : Prop :=
  (∀ s : State, s.suits .nop → ∃ t, exec .nop s = .next t ∧ NoEffect s t 4)
  ∧ (∀ s : State, s.me.pfx = none → ∃ t, exec .tgt s = .next t ∧ NoEffect s t 4)
  ∧ (∀ s : State, s.suits .yield → ∃ t, exec .yield s = .next t
      ∧ EndsWith s t { s.me with issueAge := 0, yielded := true } (s.me.pc + 4) ∧ BytesKept s t)
  ∧ (∀ (s : State) (d : GReg), s.suits (.rnd d) → ∃ t, exec (.rnd d) s = .next t
      ∧ WroteGDrew s t d (BitVec.ofNat 16 (draw16 s.me.rngk (s.me.rngc + 3)) ++ BitVec.ofNat 16 (draw16 s.me.rngk (s.me.rngc + 2))
          ++ BitVec.ofNat 16 (draw16 s.me.rngk (s.me.rngc + 1)) ++ BitVec.ofNat 16 (draw16 s.me.rngk s.me.rngc)) 4 4)
  ∧ (∀ (s : State) (a b : GReg), s.suits (.rndk a b) → ∃ t, exec (.rndk a b) s = .next t
      ∧ EndsWith s t { s.me with rngk := s.G a, rngc := s.G b } (s.me.pc + 4) ∧ BytesKept s t)
  ∧ (∀ (s : State) (d : GReg), s.suits (.sigr d) → ∃ t, exec (.sigr d) s = .next t ∧ WroteG s t d (s.me.seg.acc.zeroExtend 64) 4)
  ∧ (∀ (s : State) (d a : SReg), s.suits (.smov d a) → ∃ t, exec (.smov d a) s = .next t ∧ WroteS s t d (s.me.getS a) 4)
  ∧ (∀ (s : State) (d : SReg) (a b c : GReg) (f : BitVec 16) (m k : BitVec 2), s.suits (.sdef d a b c f m k) →
      ∃ t, exec (.sdef d a b c f m k) s = .next t ∧ WroteS s t d
        (s.G a ++ (s.G b).truncate 32 ++ (s.G c).extractLsb' 32 32 ++ f ++ (s.G c).truncate 16 ++ (s.G c).extractLsb' 16 16 ++ (0 : BitVec 76) ++ k ++ m) 8)

/-- R135, R165–R167: direct branches, and indirect branches to a landing pad; elsewhere they trap at the target, the link already written, and a target
that cannot be fetched is left to the next unit. The words that such a trap saves are the model's reading (log entry 31). -/
def Obligations.Branches : Prop :=
  ((∀ (s : State) (o : BitVec 20), s.suits (.bra o) → ∃ t, exec (.bra o) s = .next t ∧ Jumped s t (s.me.pc + BitVec.ofInt 64 (4 * o.toInt)))
   ∧ (∀ (s : State) (p : PReg) (n : Bool) (o : BitVec 20), s.suits (.bp p n o) → ∃ t, exec (.bp p n o) s = .next t
       ∧ Jumped s t (if s.P p ≠ n then s.me.pc + BitVec.ofInt 64 (4 * o.toInt) else s.me.pc + 4))
   ∧ (∀ (s : State) (o : BitVec 20), s.suits (.call o) → ∃ t, exec (.call o) s = .next t
       ∧ Called s t (s.me.pc + BitVec.ofInt 64 (4 * o.toInt)) (s.me.pc + 4))
   ∧ (∀ (s : State) (p : PReg) (n : Bool) (k : Half), s.suits (.braw p n k) → ∃ t, exec (.braw p n k) s = .next t
       ∧ Jumped s t (if s.P p ≠ n then s.me.pc + BitVec.ofInt 64 (4 * k.toInt) else s.me.pc + 8))
   ∧ (∀ s : State, s.suits .callw → ∃ t, exec .callw s = .next t
       ∧ Called s t (s.me.pc + BitVec.ofInt 64 (4 * s.imm32.toInt)) (s.me.pc + 8)))
  ∧ ((∀ (s : State) (a : GReg), s.suits (.jr a) → s.padAt (s.G a) → ∃ t, exec (.jr a) s = .next t ∧ Jumped s t (s.G a))
     ∧ (∀ (s : State) (a : GReg), s.suits (.callr a) → s.padAt (s.G a) → ∃ t, exec (.callr a) s = .next t ∧ Called s t (s.G a) (s.me.pc + 4))
     ∧ (∀ s : State, s.suits .ret → s.padAt (s.G 63) → ∃ t, exec .ret s = .next t ∧ Jumped s t (s.G 63)))
  ∧ ∀ (s u : State) (i : Instr) (v va : Word), s.suits i →
      ((∃ a, i = .jr a ∧ v = s.G a ∧ u = s) ∨ (∃ a, i = .callr a ∧ v = s.G a ∧ u = s.setG 63 (s.me.pc + 4)) ∨ (i = .ret ∧ v = s.G 63 ∧ u = s)) →
      (s.trapGoes s.cur va →
        (2 ^ 50 ≤ v.toNat ∨ v.toNat % 4 ≠ 0 → ∃ t, exec i s = .next t ∧ Trapped u t s.cur 0x30 false v v 0 0 0 va)
        ∧ (v.toNat < 2 ^ 50 → v.toNat % 4 = 0 → ∀ w, s.fetchWord s.myCtx v = .ok w → w ≠ 0x08000000 → ∃ t, exec i s = .next t
          ∧ Trapped u t s.cur 0x60 false v v (w.zeroExtend 64) (w.zeroExtend 64) 0 va))
      ∧ (v.toNat < 2 ^ 50 → v.toNat % 4 = 0 → ∀ f, s.fetchWord s.myCtx v = .error f → ∃ t, exec i s = .next t
          ∧ EndsWith s t { s.me with g := u.me.g } v ∧ BytesKept s t)

/-- R126–R129, R379, R380: a prefix is taken with its instruction, or both are passed over; an orphan prefix and a prefix misuse trap
at the prefix. -/
def Obligations.PrefixUnit : Prop :=
  (∀ (s : State) (w1 : Half) (ws : List Half) (i : Instr) (n : Nat),
     s.fetchWord s.myCtx (s.me.pc + 4) = .ok w1 → orphan w1.toNat (s.me.pc + 4).toNat = false →
     s.fetchItem s.myCtx (s.me.pc + 4) = .ok ws → decode ws = .ok (i, n) →
     let p := pfxOf (s.ir.getD 0 0).toNat
     ((p.pen = true ∧ s.P p.pred = p.pneg) → ∃ t, exec .mod s = .next t
         ∧ EndsWith { s with ir := s.ir.getD 0 0 :: ws } t s.me (s.me.pc + 4 + BitVec.ofNat 64 (4 * n)) ∧ BytesKept s t)
     ∧ (¬ (p.pen = true ∧ s.P p.pred = p.pneg) → pfxMisuse p w1.toNat = false → ∃ t, exec .mod s = .next t ∧ OthersKept s t
         ∧ t.me = { s.me with pfx := some p, pfxWord := s.ir.getD 0 0, pc := s.me.pc + 4 } ∧ BytesKept s t))
  ∧ (∀ (s : State) (w1 : Half) (va : Word), s.me.pfx = none → s.fetchWord s.myCtx (s.me.pc + 4) = .ok w1 → s.trapGoes s.cur va →
       let w0 := s.ir.getD 0 0
       (orphan w1.toNat (s.me.pc + 4).toNat = true → ∃ t, exec .mod s = .next t
         ∧ Trapped s t s.cur 0x40 false s.me.pc 0 1 (w0 ++ w1) 0 va)
       ∧ (∀ ws i n, orphan w1.toNat (s.me.pc + 4).toNat = false → s.fetchItem s.myCtx (s.me.pc + 4) = .ok ws → decode ws = .ok (i, n) →
           ¬ ((pfxOf w0.toNat).pen = true ∧ s.P (pfxOf w0.toNat).pred = (pfxOf w0.toNat).pneg) → pfxMisuse (pfxOf w0.toNat) w1.toNat = true →
           ∃ t, exec .mod s = .next t ∧ Trapped s t s.cur 0x40 false s.me.pc 0 2 (w0 ++ w1) 0 va))

/-- R153, R365: the system call and the breakpoint. -/
def Obligations.SystemCalls : Prop :=
  (∀ (s : State) (n : BitVec 6) (va : Word), s.suits (.sysc n) → s.trapGoes s.cur va →
    ∃ t, exec (.sysc n) s = .next t ∧ Trapped s t s.cur 0x10 false (s.me.pc + 4) 0 (n.zeroExtend 64) s.unitWords 0 va
      ∧ (s.untraced s.myCtx → BytesKept s t))
  ∧ (∀ (s : State) (n : BitVec 6) (va : Word), s.suits (.brk n) → s.armed s.myCtx = false → s.trapGoes s.cur va →
    ∃ t, exec (.brk n) s = .next t ∧ Trapped s t s.cur 0x00 false s.me.unitPc 0 (n.zeroExtend 64) s.unitWords 0 va
      ∧ (s.untraced s.myCtx → BytesKept s t))
  ∧ (∀ (s : State) (n : BitVec 6), s.suits (.brk n) → s.armed s.myCtx = true →
    ∃ t, exec (.brk n) s = .next t ∧ t.me.dbg.stp = true ∧ t.me.dbg.why = 2 ∧ t.me.dbg.bcode = n.toNat ∧ t.me.cut = true
      ∧ t.me.pc = s.me.pc + 4 ∧ s.me.sameRegs t.me)

/-- R368, R369: the return from the handler, and `eret` outside one. -/
def Obligations.ReturnFromTrap : Prop :=
  (∀ s : State, s.me.inHandler = true → s.me.trap.tact ≠ 2 → ∃ t, exec .eret s = .next t ∧ OthersKept s t ∧ (∀ a, t.mb a = s.mb a)
    ∧ t.me.pc = s.me.trap.tpc ∧ t.me.inHandler = false ∧ (∀ n, t.me.getP n = if n = 0 then true else s.me.trap.tprd.getLsbD n.toNat)
    ∧ t.me.trap = { s.me.trap with tcause := s.me.trap.tcause &&& ~~~(0x800 : Word), tact := 0 }
    ∧ t.me.g = s.me.g ∧ t.me.s = s.me.s ∧ t.me.q = s.me.q ∧ t.me.rngk = s.me.rngk ∧ t.me.rngc = s.me.rngc ∧ t.me.pend = s.me.pend
    ∧ t.me.pfx = none ∧ (s.me.dbg.due = 0 → t.me.cut = false) ∧ ∀ r ∈ t.me.recs, r.st ≠ .faulted)
  ∧ (∀ s : State, s.me.inHandler = true → s.me.trap.tact ≠ 2 → let T := s.me.trap
      let first := s.me.recs.find? (fun x => T.tcause.getLsbD 8 && x.st == .faulted && x.fcode == T.tcause.toNat % 256)
      ∃ t, exec .eret s = .next t ∧ t.me.recs = s.me.recs.map (fun r =>
        if r.st ≠ .faulted then r
        else if T.tact = 1 ∧ first.any (fun x => x.q == r.q && x.idx == r.idx) = true then { r with st := .started, skip := true }
        else { r with st := if r.unbound && r.point == 0 then .waitTok else .started }))
  ∧ (∀ s : State, s.me.inHandler = true → s.me.trap.tact = 2 → ∃ t, exec .eret s = .next t ∧ t.me.inHandler = false ∧ t.me.haltF = true
    ∧ t.me.cut = true ∧ t.me.pc = s.me.trap.tpc ∧ (t.ctx s.myCtx).pnd = true ∧ (t.ctx s.myCtx).stopFetch = true
    ∧ ((s.ctx s.myCtx).pendFault = none → bitN (s.ctx s.myCtx).flt.toNat 0 = false →
        (t.ctx s.myCtx).pendFault = some (s.me.trap.tcause.toNat % 256, s.cur, s.myLaunch.seq, false)))
  ∧ (∀ (s : State) (va : Word), s.trapGoes s.cur va → ∃ t, exec .eret s = .next t
    ∧ Trapped s t s.cur 0x50 false s.me.unitPc 0 0 s.unitWords 0 va)

/-- R61, R121, R361, R363, R366, R374, R377: what stands at the pc and is no instruction; a fetch that fails traps at its unit, and what such a fetch tells
(R61 keeps the pc's upper bits zero: that one with a bit set there is BOUNDS, and which words are saved, are the model's choices, log entries 96, 31); a trap inside the handler is a
nested trap, and a trap without a usable handler a context fault. -/
def Obligations.TrapEntry : Prop :=
  ((∀ (s : State) (va : Word), s.trapGoes s.cur va → ∃ t, exec .unassignedEncoding s = .next t
     ∧ Trapped s t s.cur 0x20 false s.me.unitPc 0 (BitVec.ofNat 64 (2 ^ 32 * s.arg.k + s.arg.w.toNat)) s.unitWords 0 va)
   ∧ (∀ (s : State) (va : Word), s.trapGoes s.cur va → ∃ t, exec .misalignedItem s = .next t
     ∧ Trapped s t s.cur 0x30 false s.me.unitPc s.me.pc 0 s.unitWords 0 va)
   ∧ (∀ (s : State) (b : Nat) (f : MFault) (va : Word), let u : State := { s with cur := b, ir := [] }
       u.breakAt b = none → (if u.me.pc.toNat % 4 = 0 then u.fetchItem u.me.ctx u.me.pc = .error f else u.fetchWord u.me.ctx u.me.pc = .error f) →
       f.cls ≠ 0 → f.ctxf = false → u.trapGoes b va → ∃ t, s.unitAt b = .stop t
       ∧ Trapped u t b (16 * f.cls + f.site.getD 0) false u.me.unitPc u.me.unitPc f.val
           (if u.me.pc.toNat % 4 = 0 then BitVec.ofNat 64 (u.wordAt u.me.pc) else 0) 0 va)
   ∧ (∀ (s : State) (n : Nat) (pc : Word), (2 ^ 50 ≤ pc.toNat → s.fetchWord n pc = .error ⟨7, none, pc, 0, false⟩)
       ∧ (pc.toNat < 2 ^ 50 → (∀ f, s.walk n pc.toNat pc = .error f → s.fetchWord n pc = .error f)
         ∧ ∀ l, s.walk n pc.toNat pc = .ok l → s.fetchWord n pc
             = if bitN l.ent 4 = true then .ok (BitVec.ofNat 32 (memNat s.mem l.pa 4)) else .error ⟨9, none, pc, 3, false⟩)))
  ∧ (∀ (s : State) (b code : Nat) (asy : Bool) (tpc taddr tval tword tlane : Word), code < 256 →
       let t := s.trapAt b code asy tpc taddr tval tword tlane
       let c := (s.berth b).ctx
       ((s.berth b).inHandler = true → (t.ctx c).pnd = true ∧ (t.ctx c).stopFetch = true ∧ (t.berth b).haltF = true ∧ (t.berth b).cut = true
         ∧ (t.berth b).trap.tcause.getLsbD 10 = true ∧ (t.berth b).pc = (s.berth b).unitPc)
       ∧ ((s.berth b).inHandler = false → bitN (s.ctx c).trap.toNat 0 = false → (t.ctx c).pnd = true ∧ (t.ctx c).stopFetch = true
         ∧ (t.berth b).haltF = true ∧ (t.berth b).pc = tpc ∧ (t.berth b).inHandler = false ∧ (t.berth b).trap.tpc = tpc
         ∧ (t.berth b).trap.taddr = taddr ∧ (t.berth b).trap.tval = tval))

/-- R73, R79, R80, R169–R171, R386, R392: a load whose checks pass issues with the bytes it reads, and its value reaches its register; what an
access of n bytes reads: the newest value where every store happens before it, some value stored where it races, and an aligned one never a
mixture of an old value and a new (which of them is a free value, log entry 3). -/
def Obligations.Loads : Prop :=
  (∀ (i : Instr) (s : State) (d a : GReg) (n : Nat) (sgn : Bool) (off : Int) (sp : Bool) (len : Nat), s.suits i →
     loadForm i = some (d, a, n, sgn, off, sp, len) →
     let u := s.writeback s.cur
     let p := effPtr (u.G a) off
     (sp = false → ∀ pa, u.access u.myCtx u.myLaunch.bndb p n .rd = .ok pa → u.atomAt p n = false → ∃ t, exec i s = .next t
       ∧ LoadSent u t d (bytesVal (u.loadBytes u.cur pa n) n sgn) (u.poisoned pa n) len)
     ∧ (sp = true → p.toNat % n = 0 → p.toNat < 0x400000 → u.unblocked 1 p.toNat n false → ∃ t, exec i s = .next t
       ∧ LoadSent u t d (bytesVal (u.spBytes u.cur p.toNat n) n sgn) (u.myCore.spPoison p.toNat n) len))
  ∧ (∀ (s : State) (o : LoadOut), (s.berth s.arg.b).outLoad = some o →
       ∃ t, exec .loadWriteback s = .next t
         ∧ (∀ m, (t.berth s.arg.b).getG m = if m = o.d ∧ o.d ≠ 0 then o.val else (s.berth s.arg.b).getG m)
         ∧ t.berth s.arg.b = { s.berth s.arg.b with g := (t.berth s.arg.b).g, outLoad := none }
         ∧ (∀ b, b ≠ s.arg.b → t.berth b = s.berth b) ∧ t = { s with berths := t.berths, ctxs := t.ctxs }
         ∧ (o.pz = false → t.ctxs = s.ctxs) ∧ (o.pz = true → bitN (t.ctx (s.berth s.arg.b).ctx).cki.toNat 0 = true)
         ∧ ∀ x, t.loadByte s.arg.b x = s.loadByte s.arg.b x)
  ∧ (∀ (s : State) (b n a : Nat), let B := s.berth b
       (AMap.find s.hist a = none → s.loadIn b n a = s.mb a)
       ∧ (∀ v vs, AMap.find s.hist a = some (v :: vs) → (∀ w ∈ v :: vs, Ver.known B.clk B.tid B.ctx w = true) → s.loadIn b n a = v.v)
       ∧ (∀ vs, AMap.find s.hist a = some vs → s.loadIn b n a = s.mb a ∨ ∃ v ∈ vs, s.loadIn b n a = v.v)
       ∧ ∀ (who iss perf : Nat) (old new : Nat → Byte), 0 < n → a % n = 0 → who ≠ B.tid → AMap.get 0 B.clk who < iss →
           (∀ i < n, AMap.find s.hist (a + i) = some [⟨who, iss, perf, B.ctx, new i⟩, ⟨0, 0, 0, B.ctx, old i⟩]) →
           (∀ i < n, s.loadIn b n (a + i) = new i) ∨ ∀ i < n, s.loadIn b n (a + i) = old i)

/-- R73, R79, R169–R171: a store whose checks pass: it is kept with the strand until a publish, and the strand reads it back. -/
def Obligations.StoresDone : Prop :=
  ∀ (i : Instr) (s : State) (d a : GReg) (n : Nat) (off : Int) (sp : Bool) (len : Nat), s.suits i →
    storeForm i = some (d, a, n, off, sp, len) →
    let u := s.writeback s.cur
    let p := effPtr (u.G a) off
    (sp = false → ∀ pa, u.access u.myCtx u.myLaunch.bndb p n .wr = .ok pa → u.atomAt p n = false → ∃ t, exec i s = .next t
      ∧ t = { u with berths := t.berths, hist := t.hist } ∧ (∀ b, b ≠ u.cur → t.berth b = u.berth b)
      ∧ t.me = ({ u.me with pend := ovPut u.me.pend pa (leBytes (u.G d).toNat n) } : Berth).ended t.me
      ∧ t.me.pc = u.me.pc + BitVec.ofNat 64 len ∧ t.me.pfx = none ∧ t.me.waiting = .none ∧ (∀ x, t.mb x = u.mb x)
      ∧ (∀ x, x < pa ∨ pa + n ≤ x → t.loadByte u.cur x = u.loadByte u.cur x)
      ∧ ∀ k < n, (∀ vs, AMap.find u.hist (pa + k) = some vs → ∀ v ∈ vs, Ver.known u.me.clk u.me.tid u.me.ctx v = true) →
          t.loadByte u.cur (pa + k) = (u.G d).extractLsb' (8 * k) 8)
    ∧ (sp = true → p.toNat % n = 0 → p.toNat < 0x400000 → u.unblocked 1 p.toNat n true → ∃ t, exec i s = .next t
      ∧ EndsInCore u t { u.me with landing := t.me.landing } (u.me.pc + BitVec.ofNat 64 len) ∧ BytesKept u t
      ∧ WroteSp u t (coreOf u.cur) p.toNat (leBytes (u.G d).toNat n))

/-- R61–R68, R171, R387, R388, R424, R434, R467: which check of a load or store fails, with its class and value; the unit traps there with that cause,
pointer and value, a fault of the tables that is the context's halts the strand, and an access that gets no answer waits. That a table past its stack's capacity is malformed, and that an access
waits for a silent home, are the model's choices (log entries 93, 67). -/
def Obligations.AddressTraps : Prop :=
  (∀ s : State, s.WalkLaw ∧ s.AccessLaw)
  ∧ ∀ (i : Instr) (s : State) (a : GReg) (n : Nat) (off : Int) (sp : Bool) (va : Word), s.suits i → memForm i = some (a, n, off, sp) →
    let u := s.writeback s.cur
    let p := effPtr (u.G a) off
    (p.toNat % n ≠ 0 → u.trapGoes u.cur va → ∃ t, exec i s = .next t
      ∧ Trapped u t u.cur 0x30 false u.me.unitPc p (BitVec.ofNat 64 n) u.unitWords 0 va)
    ∧ (sp = true → p.toNat % n = 0 → 0x400000 ≤ p.toNat → u.trapGoes u.cur va → ∃ t, exec i s = .next t
      ∧ Trapped u t u.cur 0x70 false u.me.unitPc p 0 u.unitWords 0 va)
    ∧ (sp = false → p.toNat % n = 0 → fld p.toNat 50 4 ≠ 0 → u.trapGoes u.cur va → ∃ t, exec i s = .next t
      ∧ Trapped u t u.cur 0x70 false u.me.unitPc p (BitVec.ofNat 64 (fld p.toNat 54 10)) u.unitWords 0 va)
    ∧ (∀ f, sp = false → u.access u.myCtx u.myLaunch.bndb p n (if (loadForm i).isSome then .rd else .wr) = .error f →
      (f.cls = 0 → ∃ t, exec i s = .next t ∧ t = { u with berths := t.berths } ∧ (∀ b, b ≠ u.cur → t.berth b = u.berth b)
        ∧ t.me = { u.me with pc := u.me.unitPc, pfx := none, stalled := true })
      ∧ (f.cls ≠ 0 → f.ctxf = false → u.trapGoes u.cur va → ∃ t, exec i s = .next t
        ∧ Trapped u t u.cur (16 * f.cls + f.site.getD 0) false u.me.unitPc f.addr f.val u.unitWords 0 va)
      ∧ (f.cls ≠ 0 → f.ctxf = true → ∃ t, exec i s = .next t ∧ t.me.haltF = true ∧ t.me.cut = true ∧ t.me.pc = u.me.unitPc
        ∧ (t.ctx u.myCtx).pnd = true ∧ (t.ctx u.myCtx).stopFetch = true
        ∧ ((u.ctx u.myCtx).pendFault = none → bitN (u.ctx u.myCtx).flt.toNat 0 = false →
            (t.ctx u.myCtx).pendFault = some (16 * f.cls + f.site.getD 0, u.cur, u.myLaunch.seq, false))
        ∧ (u.me.inHandler = false → t.me.trap.tcause = BitVec.ofNat 64 (16 * f.cls + f.site.getD 0) ∧ t.me.trap.tpc = u.me.unitPc
            ∧ t.me.trap.taddr = f.addr ∧ t.me.trap.tval = f.val)))

/-- R175, R181: stream images and accumulator words. -/
def Obligations.StreamAndAccumulator : Prop :=
  ∀ s : State, let u := s.writeback s.cur
    (∀ (d : SReg) (a : GReg), s.suits (.sld d a) → (u.G a).toNat % 32 = 0 → (u.G a).toNat < 0x400000 → u.unblocked 1 (u.G a).toNat 32 false →
      ∃ t, exec (.sld d a) s = .next t ∧ t = { u with berths := t.berths, ctxs := t.ctxs } ∧ Passed u t 4
        ∧ (u.myCore.spPoison (u.G a).toNat 32 = false → t.ctxs = u.ctxs) ∧ t.me.g = u.me.g ∧ t.me.p = u.me.p ∧ t.me.q = u.me.q
        ∧ t.me.trap = u.me.trap ∧ BytesKept u t
        ∧ ∀ m, t.me.getS m = if m = d then BitVec.ofNat 256 (leNat (u.spBytes u.cur (u.G a).toNat 32)) else u.me.getS m)
    ∧ (∀ (d : SReg) (a : GReg), s.suits (.sst d a) → (u.G a).toNat % 32 = 0 → (u.G a).toNat < 0x400000 → u.unblocked 1 (u.G a).toNat 32 true →
      ∃ t, exec (.sst d a) s = .next t ∧ EndsInCore u t { u.me with landing := t.me.landing } (u.me.pc + 4) ∧ BytesKept u t
        ∧ WroteSp u t (coreOf u.cur) (u.G a).toNat (leBytes (u.me.getS d).toNat 32))
    ∧ (∀ (d a : GReg), s.suits (.accrd d a) → (u.G a).toNat % 8 = 0 → (u.G a).toNat < 0x800000 → u.unblocked 2 (u.G a).toNat 8 false →
      ∃ t, exec (.accrd d a) s = .next t ∧ t = { u with berths := t.berths, ctxs := t.ctxs } ∧ Passed u t 4
        ∧ (u.myCore.accPoison (u.G a).toNat 8 = false → t.ctxs = u.ctxs) ∧ u.me.sameBut t.me ∧ BytesKept u t
        ∧ ∀ m, t.G m = if m = d ∧ d ≠ 0 then BitVec.ofNat 64 (leNat ((List.range 8).map (fun i => u.accAt (coreOf u.cur) ((u.G a).toNat + i)))) else u.G m)
    ∧ (∀ (d a : GReg), s.suits (.accwr d a) → (u.G a).toNat % 8 = 0 → (u.G a).toNat < 0x800000 → u.unblocked 2 (u.G a).toNat 8 true →
      ∃ t, exec (.accwr d a) s = .next t ∧ EndsInCore u t u.me (u.me.pc + 4) ∧ BytesKept u t
        ∧ WroteAcc u t (coreOf u.cur) (u.G a).toNat (leBytes (u.G d).toNat 8))

/-- R74–R76, R82, R189–R191, R314, R315, R469: publish, refresh and the fences (that a publish at any scope writes every store of the strand to memory, and at
.core passes one whose home is silent, is the model's choice, log entry 29); a release first sends the buffered contributions as one
batch, and waits. -/
def Obligations.Fences : Prop :=
  (∀ s : State, let u := s.writeback s.cur
     (∀ sc : BitVec 2, s.suits (.pub sc) → u.flushed sc.toNat → ∃ t, exec (.pub sc) s = .next t ∧ Released u t sc.toNat 4
         ∧ t.me.pubs = AMap.put u.me.pubs sc.toNat (u.released u.cur) ∧ t.me.clk = u.me.clk)
     ∧ (∀ sc : BitVec 2, s.suits (.ref sc) → ∃ t, exec (.ref sc) s = .next t
         ∧ EndsWith u t { u.me with clk := u.acquired u.me ((u.refTakes sc.toNat).foldl (fun k r => k.both r.clk) []),
                                    refs := AMap.put u.me.refs sc.toNat (u.ev + 1) } (u.me.pc + 4)
         ∧ ∀ a, t.mb a = u.mb a)
     ∧ (∀ sc : BitVec 2, s.suits (.phase sc) → u.flushed sc.toNat → ∃ t, exec (.phase sc) s = .next t ∧ Released u t sc.toNat 4
         ∧ t.me.clk = u.acquired u.me ((u.refTakes sc.toNat).foldl (fun k r => k.both r.clk) []))
     ∧ (s.suits .fenceSc → u.flushed 3 → ∃ t, exec .fenceSc s = .next t ∧ Released u t 3 4 ∧ t.me.clk = u.acquired u.me [])
     ∧ (s.suits .fenceIo → u.hostAnswers u.cur = false → ∃ t, exec .fenceIo s = .next t ∧ Waits u t .rawio)
     ∧ (s.suits .fenceIo → u.hostAnswers u.cur = true → u.rawBusy u.cur = false → ∃ t, exec .fenceIo s = .next t
         ∧ t = { u with berths := t.berths, mem := t.mem, poison := t.poison } ∧ Passed u t 4 ∧ u.me.sameRegs t.me
         ∧ (∀ a, AMap.find u.me.pend a = none → t.mb a = u.mb a) ∧ (∀ a, bitN a 45 = false → t.mb a = u.mb a)
         ∧ (∀ a v, (a, v) ∈ u.me.pend → (∀ w, (a, w) ∈ u.me.pend → w = v) → bitN a 45 = true → t.mb a = v)
         ∧ t.me.pend = u.me.pend.filter (fun p => !(bitN p.1 45))))
  ∧ (∀ s : State, let u := s.writeback s.cur
       u.me.obuf ≠ [] → ∀ sc : BitVec 2, ∃ t, exec (.pub sc) s = .next t ∧ t.me.obuf = [] ∧ t.me.batch = u.me.batch + 1 ∧ t.me.st = .wait
         ∧ t.me.waiting = .reply ∧ t.me.pc = u.me.unitPc ∧ u.me.sameRegs t.me ∧ t.atoms.length = u.atoms.length + u.me.obuf.length
         ∧ t.atoms.take u.atoms.length = u.atoms ∧ (∀ r ∈ t.atoms.drop u.atoms.length, r.berth = u.cur ∧ r.ordB = some u.me.batch ∧ r.reply = false)
         ∧ ∀ a, t.mb a = u.mb a)

/-- R192, R193, R195: a push and a pop of C, and the waits on a full and on an empty FIFO. That the push's publish writes to memory, and that outside
deterministic mode a pop takes the oldest token, are the model's choices (log entries 29, 120). -/
def Obligations.TokenFifos : Prop :=
  ∀ (s : State) (f : BitVec 3), let u := s.writeback s.cur; let q := u.me.fifo f.toNat
    u.me.inHandler = false → f.toNat < u.me.fifos.length →
    (q.count < 15 → u.flushed 0 → ∃ t, exec (.tokp f) s = .next t ∧ Released u t 0 4
      ∧ (t.me.fifo f.toNat).done = q.done ++ [(q.npush, ⟨[], 0, u.released u.cur⟩)] ∧ (t.me.fifo f.toNat).npush = q.npush + 1
      ∧ (t.me.fifo f.toNat).npop = q.npop ∧ ∀ k, k ≠ f.toNat → t.me.fifo k = u.me.fifo k)
    ∧ (15 ≤ q.count → ∃ t, exec (.tokp f) s = .next t ∧ Waits u t (.tokp f.toNat))
    ∧ (∀ n k, u.me.tokwTakes u.myLaunch.det f.toNat = some (n, k) → ∃ t, exec (.tokw f) s = .next t ∧ Settled u t 4 ∧ u.me.sameRegs t.me
      ∧ t.me.clk = u.acquired (u.me.joinTok k) k.clk ∧ (t.me.fifo f.toNat).done = q.done.filter (fun p => p.1 != n) ∧ (t.me.fifo f.toNat).npop = q.npop + 1
      ∧ (t.me.fifo f.toNat).npush = q.npush ∧ (∀ k, k ≠ f.toNat → t.me.fifo k = u.me.fifo k)
      ∧ t.me.pend = (u.me.joinTok k).pend ∧ t.me.recs = (u.me.joinTok k).recs)
    ∧ (u.me.tokwTakes u.myLaunch.det f.toNat = none → ∃ t, exec (.tokw f) s = .next t ∧ Waits u t (.tokw f.toNat))

/-- R193, R194: the queue counters, and waiting for records. -/
def Obligations.QueueWaits : Prop :=
  (∀ (s : State) (d : GReg) (k : BitVec 2), ∃ t, exec (.qseq d k) s = .next t
      ∧ WroteG s t d (s.me.qsn.getD k.toNat 0 ++ s.me.app.getD k.toNat 0) 4)
  ∧ (∀ (s : State) (a : GReg) (k : BitVec 2), let u := s.writeback s.cur; let x := (u.G a).toNat % 2 ^ 32
      u.me.inHandler = false →
      ((u.me.qsn.getD k.toNat 0 - BitVec.ofNat 32 x).toNat < 2 ^ 31 → ∃ t, exec (.qwait a k) s = .next t ∧ Settled u t 4 ∧ u.me.sameRegs t.me
        ∧ (∀ r ∈ t.me.recs, ∃ x ∈ u.me.recs, r = { x with wr := r.wr })
        ∧ (∀ x ∈ u.me.recs, x.st ≠ .retired → ∃ r ∈ t.me.recs, r = { x with wr := r.wr })
        ∧ ∀ r ∈ t.me.recs, r.q = k.toNat → r.st = .retired → (BitVec.ofNat 32 r.idx - BitVec.ofNat 32 x).toNat < 2 ^ 31)
      ∧ (¬ (u.me.qsn.getD k.toNat 0 - BitVec.ofNat 32 x).toNat < 2 ^ 31 → ∃ t, exec (.qwait a k) s = .next t ∧ Waits u t (.qwait k.toNat x)))
  ∧ (∀ s : State, let u := s.writeback s.cur; u.me.inHandler = false →
      ((∀ r ∈ u.me.recs, r.st = .retired ∧ r.q < 3 ∧ upTo r.idx (u.me.app.getD r.q 0).toNat = true) → ∃ t, exec .qdrain s = .next t ∧ Settled u t 4
        ∧ u.me.sameRegs t.me ∧ t.me.recs = [] ∧ t.me.pend = u.me.joinAll.pend)
      ∧ ((∃ r ∈ u.me.recs, r.st ≠ .retired) → ∃ t, exec .qdrain s = .next t ∧ Waits u t .qdrain))

/-- R72, R198, R199: ring instructions and ring tests on an enabled ring of the core (outside deterministic mode, R305). That a publish at .core writes to memory,
and that a claim takes what happened before its slot was freed, are the model's choices (log entries 29, 105). -/
def Obligations.RingInstructions : Prop :=
  (∀ (s : State) (q : SReg) (n : Nat) (r : Ring), let u := s.writeback s.cur; let c := coreOf u.cur
     u.myRing (u.me.getQ q.toNat) = some (n, r) → u.myLaunch.det = false →
     (∀ d, r.used + u.asksAhead c n (ringPlace u.cur 0) < ringN r.desc → ∃ t, exec (.racq d q) s = .next t ∧ t = { u with berths := t.berths, cores := t.cores }
       ∧ (∀ b, b ≠ u.cur → t.berth b = u.berth b) ∧ EndedWith u t d (BitVec.ofNat 64 (ringBase r.desc + r.tail * ringSz r.desc)) 4
       ∧ t.me.clk = u.acquired u.me (r.freedBefore r.tail) ∧ RingIs u t c n
         { r with tail := (r.tail + 1) % ringN r.desc, claimed := r.claimed + 1,
                  owner := AMap.set 0 r.owner r.tail (8 * (u.cur % 2)), grants := r.grants + 1 })
     ∧ (∀ d, ringN r.desc ≤ r.used + u.asksAhead c n (ringPlace u.cur 0) → ∃ t, exec (.racq d q) s = .next t ∧ Waits u t (.racq c n))
     ∧ (∀ b k, r.claimedSlot (u.G b).toNat u.cur = some k → u.flushed 0 → ∃ t, exec (.rrel q b) s = .next t
       ∧ t = { u with berths := t.berths, cores := t.cores, mem := t.mem, poison := t.poison } ∧ Passed u t 4 ∧ u.me.sameRegs t.me
       ∧ StoresOut u t 0 ∧ RingIs u t c n
         { r with full := AMap.set false r.full k true, claimed := r.claimed - 1,
                  pay := AMap.put r.pay k ⟨[], 0, u.released u.cur⟩ })
     ∧ (∀ d, let k := AMap.get Tok.empty r.pay r.head
       r.isFull r.head = true → ∃ t, exec (.rwait d q) s = .next t ∧ OthersKept (u.joinElse c u.cur k) t ∧ (∀ a, t.mb a = u.mb a)
       ∧ EndedWith u t d (BitVec.ofNat 64 (ringBase r.desc + r.head * ringSz r.desc)) 4
       ∧ t.me.clk = u.acquired (u.me.joinTok k) k.clk ∧ t.me.recs = (u.me.joinTok k).recs ∧ t.me.pend = (u.me.joinTok k).pend)
     ∧ (∀ d, r.isFull r.head = false → ∃ t, exec (.rwait d q) s = .next t ∧ Waits u t (.rwait c n))
     ∧ (r.isFull r.head = true → u.flushed 0 → ∃ t, exec (.rpop q) s = .next t
       ∧ t = { u with berths := t.berths, cores := t.cores, mem := t.mem, poison := t.poison } ∧ Passed u t 4 ∧ u.me.sameRegs t.me
       ∧ StoresOut u t 0 ∧ RingIs u t c n
         { r with full := AMap.erase r.full r.head, head := (r.head + 1) % ringN r.desc,
                  pay := AMap.erase r.pay r.head, freed := AMap.put r.freed r.head (u.released u.cur) }))
  ∧ (∀ (s : State) (q : SReg) (n : Nat) (r : Ring), s.myRing (s.me.getQ q.toNat) = some (n, r) → s.myLaunch.det = false →
       (∀ d, ∃ t, exec (.rtest d q 0) s = .next t ∧ WroteP s t d (decide (r.used < ringN r.desc)) 4)
       ∧ (∀ d, ∃ t, exec (.rtest d q 1) s = .next t ∧ WroteP s t d (r.isFull r.head) 4)
       ∧ (∀ d, ∃ t, exec (.rstat d q) s = .next t
           ∧ WroteG s t d (BitVec.ofNat 64 (r.head + 2 ^ 8 * r.tail + 2 ^ 16 * r.claimed + 2 ^ 32 * r.nfull)) 4))

/-- R369, R381, R400: a ring instruction whose handle names no enabled ring of the core, `rpop` of an empty head, `rrel` of no claimed
slot; and what a handler may not execute. -/
def Obligations.IllegalUses : Prop :=
  (∀ (s : State) (q : SReg) (va : Word), let u := s.writeback s.cur; u.trapGoes u.cur va →
     (u.myRing (u.me.getQ q.toNat) = none →
       (∀ d, ∃ t, exec (.racq d q) s = .next t ∧ Trapped u t u.cur 0x50 false u.me.unitPc 0 (u.me.getQ q.toNat) u.unitWords 0 va)
       ∧ (∀ b, ∃ t, exec (.rrel q b) s = .next t ∧ Trapped u t u.cur 0x50 false u.me.unitPc 0 (u.me.getQ q.toNat) u.unitWords 0 va)
       ∧ (∀ d, ∃ t, exec (.rwait d q) s = .next t ∧ Trapped u t u.cur 0x50 false u.me.unitPc 0 (u.me.getQ q.toNat) u.unitWords 0 va)
       ∧ ∃ t, exec (.rpop q) s = .next t ∧ Trapped u t u.cur 0x50 false u.me.unitPc 0 (u.me.getQ q.toNat) u.unitWords 0 va)
     ∧ (∀ n r, u.myRing (u.me.getQ q.toNat) = some (n, r) →
       (r.isFull r.head = false → ∃ t, exec (.rpop q) s = .next t
         ∧ Trapped u t u.cur 0x50 false u.me.unitPc 0 (BitVec.ofNat 64 n) u.unitWords 0 va)
       ∧ (∀ b, r.claimedSlot (u.G b).toNat u.cur = none → ∃ t, exec (.rrel q b) s = .next t
         ∧ Trapped u t u.cur 0x50 false u.me.unitPc 0 (u.G b) u.unitWords 0 va)))
  ∧ (∀ (s : State) (f : BitVec 3) (a d : GReg) (k : BitVec 2), let u := s.writeback s.cur
       u.me.inHandler = true → let x := Host.Outcome.next (u.trapAt u.cur 0x50 false u.me.unitPc 0 0 u.unitWords 0)
       exec (.tokp f) s = x ∧ exec (.tokw f) s = x ∧ exec (.qwait a k) s = x ∧ exec .qdrain s = x ∧ exec .tdone s = x
         ∧ exec (.chkerr d) s = x ∧ exec .sege s = x)
  ∧ (∀ (s : State) (n : BitVec 6), s.me.inHandler = true →
       let x := Host.Outcome.next (s.trapAt s.cur 0x50 false s.me.unitPc 0 0 s.unitWords 0)
       exec .segb s = x ∧ exec (.sysc n) s = x ∧ (s.armed s.myCtx = false → exec (.brk n) s = x))

/-- R200–R202, R397, R400 (what a publish at .core writes is the model's choice, log entry 29): an arrival of C, with or without drop, publishes, counts, may complete the phase, and answers the phase arrived
in; a member that drops leaves its gang (outside deterministic mode, R305). -/
def Obligations.BarrierArrivals : Prop :=
  ∀ (s : State) (d a : GReg) (i : BarId), let u := s.writeback s.cur; let v := u.bar u.myCtx i
    u.names a i → v.ready = false → u.mayArrive u.cur i = true → u.flushed i.scope → u.myLaunch.det = false →
    (∃ t, exec (.bara d a) s = .next t ∧ BarIs u t u.myCtx i (u.barAfter u.myCtx i (v.counted false none 0 u.me.lsl (u.released u.cur)))
      ∧ EndedWith u t d (BitVec.ofNat 64 v.phase) 4 ∧ StoresOut u t i.scope ∧ t.me.gang = u.me.gang)
    ∧ ((∀ g, i = .gang g → ∃ b ∈ (u.gang u.myCtx g).members, b ≠ u.cur) → ∃ t, exec (.barad d a) s = .next t
      ∧ BarIs u t u.myCtx i (u.barAfter u.myCtx i (v.counted true none 0 u.me.lsl (u.released u.cur))) ∧ EndedWith u t d (BitVec.ofNat 64 v.phase) 4
      ∧ StoresOut u t i.scope ∧ (∀ g, i = .gang g → t.me.gang = none
        ∧ (t.gang u.myCtx g).members = (u.gang u.myCtx g).members.filter (· != u.cur)))
    ∧ (∀ g, i = .gang g → (∀ b ∈ (u.gang u.myCtx g).members, b = u.cur) → ∃ t, exec (.barad d a) s = .next t
      ∧ EndedWith u t d (BitVec.ofNat 64 v.phase) 4 ∧ t.me.gang = none ∧ t.gang u.myCtx g = Gang.zero)

/-- R202, R399: waiting for a phase and testing it, and the trap on a phase in error (the test outside deterministic mode, R305). -/
def Obligations.BarrierWaits : Prop :=
  ∀ (s : State) (a b : GReg) (i : BarId), let u := s.writeback s.cur; let v := u.bar u.myCtx i
    let past := (BitVec.ofNat 32 v.phase - (u.G b).truncate 32).toNat
    u.names a i →
    (past = 0 ∨ 2 ^ 31 ≤ past → ∃ t, exec (.barw a b) s = .next t ∧ Waits u t (.barw (u.G a).toNat ((u.G b).toNat % 2 ^ 32)))
    ∧ (0 < past → past < 2 ^ 31 → v.errSeen (u.G b) = false → ∃ t, exec (.barw a b) s = .next t
        ∧ Settled (u.joinArrs (u.G a).toNat (u.G b).toNat) t 4 ∧ u.me.sameRegs t.me
        ∧ t.me.clk = u.acquired (u.me.joinBar (u.G a).toNat (u.G b).toNat) (v.pastTo (u.G b).toNat))
    ∧ (∀ va, 0 < past → past < 2 ^ 31 → v.errSeen (u.G b) = true → u.me.inHandler = false → u.untraced u.myCtx →
        u.handler u.myCtx = some va → ∃ t, exec (.barw a b) s = .next t ∧ t.me.pc = va ∧ t.me.inHandler = true ∧ t.me.cut = true
        ∧ t.me.trap.tcause = 0x8C0 ∧ t.me.trap.tpc = u.me.pc + 4 ∧ t.me.trap.taddr = u.G a
        ∧ t.me.trap.tval = BitVec.ofNat 64 (v.ecode + 2 ^ 8 * v.ephase) ∧ u.me.sameBut { t.me with trap := u.me.trap } ∧ t.me.g = u.me.g
        ∧ t.me.clk = u.acquired (u.me.joinBar (u.G a).toNat (u.G b).toNat) (v.pastTo (u.G b).toNat))
    ∧ (∀ d, 0 < past → past < 2 ^ 31 → v.errSeen (u.G b) = true → (u.me.inHandler = true ∨ u.handler u.myCtx = none) →
        ∀ i ∈ [Instr.barw a b, Instr.bart d a b], (i = .bart d a b → u.myLaunch.det = false) → ∃ t, exec i s = .next t ∧ t.me.haltF = true ∧ t.me.cut = true
        ∧ t.me.pc = u.me.pc + 4 ∧ t.me.g = u.me.g ∧ (t.ctx u.myCtx).pnd = true ∧ (t.ctx u.myCtx).stopFetch = true)
    ∧ (∀ d, u.myLaunch.det = false → (past = 0 ∨ 2 ^ 31 ≤ past) → ∃ t, exec (.bart d a b) s = .next t ∧ WroteP u t d false 4)
    ∧ (∀ d, u.myLaunch.det = false → 0 < past → past < 2 ^ 31 → v.errSeen (u.G b) = false → ∃ t, exec (.bart d a b) s = .next t
        ∧ Settled (u.joinArrs (u.G a).toNat (u.G b).toNat) t 4 ∧ t.me.clk = u.acquired (u.me.joinBar (u.G a).toNat (u.G b).toNat) (v.pastTo (u.G b).toNat) ∧ t.me.g = u.me.g ∧ t.me.s = u.me.s ∧ t.me.q = u.me.q ∧ t.me.trap = u.me.trap
        ∧ ∀ m, t.P m = if m = d ∧ d ≠ 0 then true else u.P m)
    ∧ (∀ d va, u.myLaunch.det = false → 0 < past → past < 2 ^ 31 → v.errSeen (u.G b) = true → u.me.inHandler = false → u.untraced u.myCtx →
        u.handler u.myCtx = some va → ∃ t, exec (.bart d a b) s = .next t ∧ t.me.pc = va ∧ t.me.inHandler = true ∧ t.me.cut = true
        ∧ t.me.trap.tcause = 0x8C0 ∧ t.me.trap.tpc = u.me.pc + 4 ∧ t.me.trap.taddr = u.G a
        ∧ t.me.trap.tval = BitVec.ofNat 64 (v.ecode + 2 ^ 8 * v.ephase) ∧ t.me.g = u.me.g ∧ t.me.s = u.me.s ∧ t.me.q = u.me.q
        ∧ t.me.clk = u.acquired (u.me.joinBar (u.G a).toNat (u.G b).toNat) (v.pastTo (u.G b).toNat)
        ∧ ∀ m, t.P m = if m = d ∧ d ≠ 0 then true else u.P m)

/-- R200, R202, R203: reading a barrier and setting up its expectations (the read outside deterministic mode, R305). -/
def Obligations.BarrierSetup : Prop :=
  ∀ (s : State) (d a b : GReg) (i : BarId), let v := s.bar s.myCtx i; let y := (s.G b).toNat
    s.names a i →
    (s.myLaunch.det = false → ∃ t, exec (.barq d a) s = .next t
        ∧ WroteG s t d (BitVec.ofInt 64 ((v.phase : Int) + 2 ^ 32 * v.a + 2 ^ 48 * (v.e + v.x))) 4)
    ∧ (fld y 62 2 = 0 → fld y 12 50 = 0 → (∀ g, i = .gang g → s.gangExists s.myCtx g = true) → y % 2 ^ 12 < s.myLaunch.ncpy →
        (s.myLaunch.copy (y % 2 ^ 12)).done = false → (s.myLaunch.copy (y % 2 ^ 12)).bound = none → s.myLaunch.resident = true →
        ∃ t, exec (.barx a b) s = .next t ∧ t.bar s.myCtx i = { v with x := v.x + 1 } ∧ Passed s t 4 ∧ s.me.sameRegs t.me
        ∧ (t.myLaunch.copy (y % 2 ^ 12)).bound = some (s.G a).toNat ∧ ∀ a, t.mb a = s.mb a)
    ∧ (fld y 62 2 = 1 → fld y 16 46 = 0 → (∀ g, i = .gang g → s.gangExists s.myCtx g = true) → ∃ t, exec (.barx a b) s = .next t
        ∧ BarIs s t s.myCtx i { v with x := v.x + y % 2 ^ 16 } ∧ Passed s t 4 ∧ s.me.sameRegs t.me ∧ ∀ a, t.mb a = s.mb a)
    ∧ (fld y 62 2 = 2 → fld y 16 46 = 0 → (∀ g, i ≠ .gang g) → v.a = 0 → v.x = 0 → ∃ t, exec (.barx a b) s = .next t
        ∧ BarIs s t s.myCtx i { v with e := ((y % 2 ^ 16 : Nat) : Int) } ∧ Passed s t 4 ∧ s.me.sameRegs t.me ∧ ∀ a, t.mb a = s.mb a)

/-- R204, R205: joining and leaving a gang (outside deterministic mode, R305). -/
def Obligations.GangMembership : Prop :=
  ∀ s : State, s.myLaunch.det = false →
    (∀ d a, fld (s.G a).toNat 8 56 = 0 → s.me.gang = none → let g := (s.G a).toNat; let G := s.gang s.myCtx g
      ∃ t, exec (.gjoin d a) s = .next t ∧ t = { s with berths := t.berths, ctxs := t.ctxs } ∧ (∀ b, b ≠ s.cur → t.berth b = s.berth b)
        ∧ (t.gang s.myCtx g).members = G.members ++ [s.cur] ∧ t.me.gang = some g ∧ t.me.arrivedPh = none
        ∧ (G.bar.a = 0 → (t.gang s.myCtx g).bar = { G.bar with e := G.bar.e + 1 } ∧ EndedWith s t d (BitVec.ofNat 64 (G.bar.phase % 2 ^ 32)) 4)
        ∧ (G.bar.a ≠ 0 → (t.gang s.myCtx g).bar = { G.bar with j := G.bar.j + 1 }
            ∧ EndedWith s t d (BitVec.ofNat 64 ((G.bar.phase + 1) % 2 ^ 32)) 4))
    ∧ (∀ g, s.me.gang = some g → let G := s.gang s.myCtx g; let rest := G.members.filter (· != s.cur)
      (s.me.arrivedPh.isSome = true → rest ≠ [] → ∃ t, exec .gleave s = .next t ∧ Passed s t 4 ∧ s.me.sameRegs t.me ∧ t.me.gang = none
        ∧ t.gang s.myCtx g = ⟨{ G.bar with d := G.bar.d + 1 }, rest⟩)
      ∧ (rest = [] → ∃ t, exec .gleave s = .next t ∧ Passed s t 4 ∧ s.me.sameRegs t.me ∧ t.me.gang = none ∧ t.gang s.myCtx g = Gang.zero)
      ∧ (s.me.arrivedPh = none → rest ≠ [] → ({ G.bar with e := G.bar.e - 1 } : Bar).ready = false → ∃ t, exec .gleave s = .next t
        ∧ Passed s t 4 ∧ s.me.sameRegs t.me ∧ t.me.gang = none ∧ t.gang s.myCtx g = ⟨{ G.bar with e := G.bar.e - 1 }, rest⟩)
      ∧ (s.me.arrivedPh = none → rest ≠ [] → ({ G.bar with e := G.bar.e - 1 } : Bar).ready = true → G.bar.err = none →
        s.cont = false → (s.launch s.myCtx G.bar.lsl).det = false →
        (∀ b ∈ rest, let B := s.berth b; B.ctx = s.myCtx ∧ B.st ≠ .free ∧ B.st ≠ .save ∧ B.st ≠ .restore ∧ B.st ≠ .place) →
        ∃ t, exec .gleave s = .next t ∧ s.me.sameRegs t.me ∧ t.me.gang = none ∧ t.me.pc = s.me.pc + 4
          ∧ t.gang s.myCtx g = ⟨({ G.bar with e := G.bar.e - 1 } : Bar).complete, rest⟩))
    ∧ (∀ d a, fld (s.G a).toNat 8 56 = 0 → ∃ t, exec (.gsize d a) s = .next t
        ∧ WroteG s t d (BitVec.ofNat 64 (s.gang s.myCtx (s.G a).toNat).members.length) 4)
    ∧ (∀ d, s.me.gang = none → ∃ t, exec (.grank d) s = .next t ∧ WroteG s t d (BitVec.allOnes 64) 4)
    ∧ (∀ d g before after, s.me.gang = some g → (s.gang s.myCtx g).members = before ++ s.cur :: after → s.cur ∉ before →
        ∃ t, exec (.grank d) s = .next t ∧ WroteG s t d (BitVec.ofNat 64 before.length) 4)

/-- R216, R220, R410: registering, asking about and freeing meet tags (outside deterministic mode, R305). -/
def Obligations.MeetTags : Prop :=
  (∀ s : State, let u := s.writeback s.cur; u.myLaunch.det = false →
     (∀ d a b, let p := u.G a; let v := (u.G b).toNat; ctlOk v = true →
       ((bitN v 2 = true ∧ (handleOf p).isSome = true) ∨ (bitN v 2 = false ∧ p.toNat % 64 = 0
         ∧ u.rangeCheck u.myCtx u.myLaunch.bndb p ((v / 2 ^ 32 % 2 ^ 8) * 64 * (if v % 4 = 3 then 2 else 1)) .wr = .ok ())) →
       (∀ i < 4096, (u.tag u.myCtx i).alloc = false → (∀ j < i, (u.tag u.myCtx j).alloc = true) → ∃ t, exec (.tagal d a b) s = .next t
         ∧ OnlyG u t d (BitVec.ofNat 64 i) 4 ∧ TagIs u t u.myCtx i { Tag.zero with alloc := true, ctl := u.G b, dest := p })
       ∧ ((∀ i < 4096, (u.tag u.myCtx i).alloc = true) → ∃ t, exec (.tagal d a b) s = .next t ∧ WroteG u t d (BitVec.allOnes 64) 4))
     ∧ (∀ a, let i := (u.G a).toNat; i < 4096 → (u.tag u.myCtx i).alloc = true →
       ((∀ o ∈ u.mouts, ¬ (o.ctx = u.myCtx ∧ o.tag = i ∧ o.orphan = false)) → ∃ t, exec (.tagfr a) s = .next t ∧ Passed u t 4
         ∧ u.me.sameRegs t.me ∧ t.tag u.myCtx i = Tag.zero ∧ (∀ x, t.mb x = u.mb x)
         ∧ ((∀ k, ∀ x ∈ u.heldAt k, x.1 = u.myCtx ∧ x.2.1 = i) → ∀ j, j ≠ i → t.tag u.myCtx j = u.tag u.myCtx j)
         ∧ t.mouts = u.mouts ++ (((u.tag u.myCtx i).q0.map (fun o => ((0 : Nat), o)) ++ (u.tag u.myCtx i).q1.map (fun o => (1, o))).mergeSort
             (fun x y => decide (x.2.since ≤ y.2.since))).map (fun (x : Nat × MeetOp) => ⟨u.myCtx, i, orphanBytes (u.tag u.myCtx i) i x.2.pos x.2.berth 1 x.1 x.2.data, x.2.pz, true,
               x.2.berth, x.2.lock, u.ev + 1⟩))
       ∧ ((∃ o ∈ u.mouts, o.ctx = u.myCtx ∧ o.tag = i ∧ o.orphan = false) → ∃ t, exec (.tagfr a) s = .next t ∧ Waits u t (.tagfr i))))
  ∧ (∀ (s : State) (d a : GReg), let T := s.tag s.myCtx (s.G a).toNat
       (s.G a).toNat < 4096 → s.myLaunch.det = false → ∃ t, exec (.tagq d a) s = .next t ∧ WroteG s t d
         (BitVec.ofNat 64 ((if T.alloc then 1 else 0) + 2 ^ 8 * min 255 T.q0.length + 2 ^ 16 * min 255 T.q1.length + 2 ^ 32 * (T.delivered % 2 ^ 32))) 4)

/-- R41, R45, R206, R207, R209 (that what happened before the commit happens before the task is the model's choice, log entry 103): a `tsub` sends its image, waits, and answers with the handle; at the owner the record is stored and
committed (outside deterministic mode, R305; where the strand holds no unpublished store of its own). What `tinfo` answers. -/
def Obligations.TaskSubmission : Prop :=
  ((∀ (s : State) (d a b : GReg), let u := s.writeback s.cur; let x := (u.G a).toNat; let i := (u.G b).toNat
     u.me.answer = none → x % 64 = 0 → x < 0x400000 → i < 8 → i < u.myLaunch.nst → u.unblocked 1 x 64 false → u.flushed 2 →
     u.myCore.spPoison x 64 = false → ∃ t, exec (.tsub d a b) s = .next t ∧ t.me.st = .wait ∧ t.me.waiting = .reply ∧ t.me.pc = u.me.unitPc
       ∧ u.me.sameRegs t.me ∧ StoresOut u t 2
       ∧ t.tsubs = u.tsubs ++ [⟨u.cur, u.myCtx, u.me.lsl, i, (List.range 64).map (fun k => u.spAt (coreOf u.cur) (x + k)), false, u.ev + 1, false, none, u.unitWords⟩])
   ∧ (∀ (s : State) (d a b : GReg) (h : Word), let u := s.writeback s.cur; u.me.answer = some h →
     ∃ t, exec (.tsub d a b) s = .next t ∧ WroteG u t d h 4)
   ∧ (∀ (s : State) (r : TsubReq), let b := s.arg.b; let l := s.launch r.ctx r.lsl; let q := l.stage r.stage
     let addr := BitVec.ofNat 64 (l.qbase r.stage + 64 * (q.tail % l.cap r.stage)); let others := s.tsubs.filter (fun x => x.berth != b)
     s.tsubs.find? (fun x => x.berth == b) = some r → r.held = none →
     (r.waits = false → s.controlAhead (stackOf b) q.owner r.iss = false) →
     (∀ pa, (∀ x ∈ others, x.waits = false) → q.tail - q.head < l.cap r.stage → l.resident = true → (s.launchOf b).det = false →
       s.access r.ctx l.bndb addr 64 .wr = .ok pa →
       ∃ t, exec .tsubAtOwner s = .next t ∧ t.tsubs = others ++ [{ r with held := some q.tail }] ∧ t.berths = s.berths ∧ t.mem = s.mem
         ∧ (t.launch r.ctx r.lsl).stage r.stage =
           { q with tail := q.tail + 1,
                    slots := AMap.set TaskSlot.zero q.slots (q.tail % l.cap r.stage)
                      { TaskSlot.zero with lap := q.tail / l.cap r.stage % 16384 } })
     ∧ (l.cap r.stage ≤ q.tail - q.head → r.waits = false → ∃ t, exec .tsubAtOwner s = .next t
         ∧ t = { s with tsubs := others ++ [{ r with waits := true }] })
     ∧ (l.cap r.stage ≤ q.tail - q.head → r.waits = true → exec .tsubAtOwner s = .next s))
   ∧ (∀ (s : State) (r : TsubReq) (j pa : Nat), let b := s.arg.b; let l := s.launch r.ctx r.lsl; let q := l.stage r.stage
     s.tsubs.find? (fun x => x.berth == b) = some r → r.held = some j → l.resident = true →
     s.access r.ctx l.bndb (BitVec.ofNat 64 (l.qbase r.stage + 64 * (j % l.cap r.stage))) 64 .wr = .ok pa → pa + 64 ≤ 2 ^ 45 →
     (∀ k < 64, s.paDead (pa + k) = false ∧ s.paFenced (pa + k) = false) → (s.berth b).pend = [] → r.img.length = 64 → r.pz = false →
     ∃ t, exec .tsubAtOwner s = .next t ∧ (t.berth b).answer = some (BitVec.ofNat 64 (l.handle r.stage j))
       ∧ (∀ k < 64, t.mb (pa + k) = r.img.getD k 0) ∧ (∀ a, a < pa ∨ pa + 64 ≤ a → t.mb a = s.mb a)
       ∧ (t.launch r.ctx r.lsl).stage r.stage =
         { q with slots := AMap.set TaskSlot.zero q.slots (j % l.cap r.stage)
                    ⟨leNat (r.img.take 2), true, false, false, j / l.cap r.stage % 16384, s.released b, false⟩ }
       ∧ (∀ x ∈ t.tsubs, x.berth ≠ b) ∧ ∀ c, c ≠ b → t.berth c = s.berth c))
  ∧ (∀ (s : State) (d : GReg), let l := s.myLaunch
       (∃ t, exec (.tinfo d 0) s = .next t ∧ WroteG s t d (s.me.handle.zeroExtend 64) 4)
       ∧ (∃ t, exec (.tinfo d 1) s = .next t ∧ WroteG s t d (BitVec.ofNat 64 (s.me.stage + 2 ^ 8 * l.nst)) 4)
       ∧ (∃ t, exec (.tinfo d 2) s = .next t ∧ WroteG s t d (BitVec.ofNat 64 l.seq) 4)
       ∧ (∃ t, exec (.tinfo d 3) s = .next t ∧ WroteG s t d (BitVec.ofNat 64 (l.rcd / 2 ^ 72 % 2 ^ 4 + 2 ^ 4 * l.lead s.live)) 4)
       ∧ ∃ t, exec (.tinfo d 4) s = .next t ∧ WroteG s t d (BitVec.ofNat 64 (l.rcd / 2 ^ 76 % 2 ^ 3)) 4)

/-- R45, R208, R401: the end of a task (outside a replay, R311). -/
def Obligations.TaskEnd : Prop :=
  ∀ s : State, let u := s.writeback s.cur; let l := u.myLaunch; let h := u.me.handle.toNat
    let i := h / 2 ^ 29 % 8; let k := h % 2 ^ 14; let q := l.stage i
    u.me.inHandler = false → (∀ r ∈ u.me.recs, r.st = .retired) → (u.upd (·.joinAll)).flushed 2 → l.rpl = false →
    u.untraced u.myCtx → l.resident = true → l.seq % 2 = u.me.lsl →
    ∃ t, exec .tdone s = .next t ∧ t.me.st = .idle ∧ t.me.hasTask = false ∧ t.me.pc = u.me.pc + 4 ∧ t.me.recs = [] ∧ t.me.batch = 0 ∧ u.me.sameRegs t.me
      ∧ (∀ f < 6, t.me.fifo f = Fifo.zero) ∧ StoresOut (u.upd (·.joinAll)) t 2 ∧ (∀ b, b ≠ u.cur → t.berth b = u.berth b)
      ∧ (u.me.dbg.due = 4 → t.me.dbg.due = 4 ∧ t.me.dbg.stp = u.me.dbg.stp)
      ∧ (q.head % l.cap i ≠ k → (l.slotOf i q.head).ended = false → q.head < q.tail →
          ((t.launch u.myCtx u.me.lsl).stage i).head = q.head
          ∧ AMap.get TaskSlot.zero ((t.launch u.myCtx u.me.lsl).stage i).slots k = { AMap.get TaskSlot.zero q.slots k with ended := true })
      ∧ (∀ n, q.head + n ≤ q.tail → n ≤ l.cap i → (∀ j, q.head ≤ j → j < q.head + n → j % l.cap i = k ∨ (l.slotOf i j).ended = true) →
          (q.head + n = q.tail ∨ (n < l.cap i ∧ (q.head + n) % l.cap i ≠ k ∧ (l.slotOf i (q.head + n)).ended = false)) →
          ((t.launch u.myCtx u.me.lsl).stage i).head = q.head + n ∧ ((t.launch u.myCtx u.me.lsl).stage i).tail = q.tail
          ∧ ∀ j, q.head ≤ j → j < q.head + n → AMap.get TaskSlot.zero ((t.launch u.myCtx u.me.lsl).stage i).slots (j % l.cap i) = TaskSlot.zero)

/-- R44, R46, R206, R208, R403: a decrement is sent after a release, and takes place at the owner. -/
def Obligations.Dependences : Prop :=
  (∀ (s : State) (a : GReg), let u := s.writeback s.cur; let v := (u.G a).toNat
    v < 2 ^ 32 → u.myLaunch.badHandle v = false → u.flushed 2 → ∃ t, exec (.tdep a) s = .next t ∧ Passed u t 4 ∧ u.me.sameRegs t.me
      ∧ StoresOut u t 2 ∧ t.deps = u.deps ++ [⟨u.myCtx, u.me.lsl, v, stackOf u.cur, u.cur, u.ev + 1, u.released u.cur⟩])
  ∧ (∀ (s : State) (m : DepMsg), let l := s.launch m.ctx m.lsl; let i := m.handle / 2 ^ 29 % 8; let k := m.handle % 2 ^ 14
    let x := AMap.get TaskSlot.zero (l.stage i).slots k
    s.deps[s.arg.k]? = some m → s.controlAhead m.src (l.stage i).owner m.iss = false →
    (l.badHandle m.handle = false → x.committed = true → x.granted = false → x.lap = m.handle / 2 ^ 15 % 2 ^ 14 → x.cnt ≠ 0 → x.unread = false →
      l.resident = true →
      ∃ t, exec .depDecrement s = .next t ∧ t.deps = s.deps.eraseIdx s.arg.k ∧ t.berths = s.berths ∧ t.mem = s.mem
        ∧ (t.launch m.ctx m.lsl).stage i = { l.stage i with slots := AMap.set TaskSlot.zero (l.stage i).slots k { x with cnt := x.cnt - 1, clk := x.clk.both m.clk } })
    ∧ ((l.badHandle m.handle = true ∨ x.committed = false ∨ x.granted = true ∨ x.lap ≠ m.handle / 2 ^ 15 % 2 ^ 14
        ∨ (x.cnt = 0 ∧ x.unread = false)) → ∃ t, exec .depDecrement s = .next t
        ∧ t.deps = s.deps.eraseIdx s.arg.k ∧ (∀ b, b ≠ m.berth → t.berth b = s.berth b) ∧ t.mem = s.mem
        ∧ (let B := s.berth m.berth
          (B.residentOf m.ctx = true → B.lsl = m.lsl → (t.berth m.berth).haltF = true ∧ (t.berth m.berth).cut = true
            ∧ (t.berth m.berth).pc = B.unitPc ∧ (B.inHandler = false → (t.berth m.berth).trap.tcause = 0x159
              ∧ (t.berth m.berth).trap.tval = BitVec.ofNat 64 m.handle))
          ∧ ((B.residentOf m.ctx = false ∨ B.lsl ≠ m.lsl) → t.berth m.berth = B)) ∧ (t.ctx m.ctx).pnd = true ∧ (t.ctx m.ctx).stopFetch = true
        ∧ (t.ctx m.ctx).launches = (s.ctx m.ctx).launches
        ∧ ((s.ctx m.ctx).pendFault = none → bitN (s.ctx m.ctx).flt.toNat 0 = false → (t.ctx m.ctx).pendFault = some (0x59, m.berth, l.seq, false))))

/-- R47, R48, R203, R389 (that an entry's words and source are read as its lines move is the model's choice, log entry 98): `tstage` releases the next entry of the copy schedule, and the copy engine completes it (an entry bound to no
barrier; where the strand holds no unpublished store). -/
def Obligations.CopySchedule : Prop :=
  (∀ s : State, let u := s.writeback s.cur; let l := u.myLaunch; let n := u.myCtx; let lsl := u.me.lsl
    u.flushed 2 → l.resident = true → l.seq % 2 = lsl →
    (l.ncpy ≤ l.ntst → ∃ t, exec .tstage s = .next t ∧ Passed u t 4 ∧ u.me.sameRegs t.me ∧ StoresOut u t 2
      ∧ LaunchIs u t n lsl { l with ntst := l.ntst + 1 })
    ∧ (∀ e, l.ntst < l.ncpy → u.me.pend = [] → u.copyWord n l l.ntst = .ok e →
      (u.copyCheck n l e = none → ∃ t, exec .tstage s = .next t ∧ Passed u t 4 ∧ u.me.sameRegs t.me ∧ (∀ a, t.mb a = u.mb a)
        ∧ LaunchIs u t n lsl ({ l with ntst := l.ntst + 1 }.setCopy l.ntst { l.copy l.ntst with released := true, tid := threadOf 0 u.ev 4 }))
      ∧ (∀ c, u.copyCheck n l e = some c → c ≠ 0 → (l.copy l.ntst).bound = none → ∃ t, exec .tstage s = .next t ∧ Passed u t 4
        ∧ u.me.sameRegs t.me ∧ (∀ a, t.mb a = u.mb a) ∧ (t.launch n lsl).ntst = l.ntst + 1 ∧ ((t.launch n lsl).copy l.ntst).done = true
        ∧ (t.ctx n).pnd = true ∧ (t.ctx n).stopFetch = true)))
  ∧ (∀ (s u : State) (e : Nat), let n := s.arg.ctx; let lsl := s.arg.lsl; let k := s.arg.ent; let l := s.launch n lsl
    (l.copy k).released = true → (l.copy k).done = false → (l.copy k).bound = none → l.st = .running → l.seq % 2 = lsl →
    s.copyWord n l k = .ok e → s.copyCheck n l e = none → (l.copy k).moved = 0 → let who := (l.copy k).tid; let len := fld e 128 32
    (s.arg.n = 0 → s.copyMove who n e len = .ok u →
      ∃ t, exec .copyEntryComplete s = .next t ∧ ((t.launch n lsl).copy k).done = true ∧ t.mem = u.mem ∧ t.cores = u.cores ∧ t.berths = u.berths
        ∧ t.deps = if fld e 192 32 = 0xFFFFFFFF then u.deps
            else u.deps ++ [⟨n, lsl, fld e 192 32, l.lead u.live, 0xFF, u.ev + 1, [(who, u.ev + 1)]⟩])
    ∧ (s.arg.n ≠ 0 → 64 * s.arg.n < len → s.copyMove who n e (64 * s.arg.n) = .ok u →
      ∃ t, exec .copyEntryComplete s = .next t ∧ (t.launch n lsl).copy k = { l.copy k with moved := s.arg.n } ∧ t.mem = u.mem
        ∧ t.cores = u.cores ∧ t.berths = u.berths ∧ t.deps = u.deps))
  ∧ (∀ (s : State) (who n e len : Nat), let c := fld e 160 6; let x := fld e 0 64; let y := fld e 64 64
    (∀ bs, bitN e 167 = false → bitN e 166 = true → s.readVAf n x len (len / 65536 + 2) = .ok bs →
      ∃ t, s.copyMove who n e len = .ok t ∧ t = { s with cores := t.cores, ctxs := t.ctxs } ∧ WroteSp s t c y bs)
    ∧ (∀ t, bitN e 167 = true → bitN e 166 = false → (∀ i < len / 64, (s.core c).spPoison (x + 64 * i) 64 = false) →
      State.writeVAby (State.storeBy who n) s n y ((List.range len).map (fun i => s.spAt c (x + i))) (len / 65536 + 2) = .ok t →
      s.copyMove who n e len = .ok t))

/-- R265–R271: the priority queues: insertion, the start and the end of a selection, and the rest (outside deterministic mode, R305). -/
def Obligations.PriorityQueues : Prop :=
  (∀ (s : State) (b : GReg), let v := (s.G b).toNat; let n := v % 4; let c := coreOf s.cur; let q := (s.core c).pq n
     s.myLaunch.det = false →
     (∀ d a, v < 4 → s.pqBusy n = false → q.ents.length < 8192 → ∃ t, exec (.pqins d a b) s = .next t
       ∧ t = { s with berths := t.berths, cores := t.cores } ∧ EndedWith s t d (BitVec.ofNat 64 (q.ents.length + 1)) 4
       ∧ PqIs s t c n { q with ents := q.ents ++ [⟨(s.G a).toNat % 2 ^ 32, (s.G a).toNat / 2 ^ 32, q.ctr⟩],
                               ctr := (q.ctr + 1) % 2 ^ 32, ops := q.ops + 1 })
     ∧ (∀ d a, v < 4 → s.pqBusy n = false → 8192 ≤ q.ents.length → (∀ e ∈ q.ents, q.dead e = false) → ∃ t, exec (.pqins d a b) s = .next t
       ∧ EndedWith s t d (BitVec.allOnes 64) 4 ∧ PqIs s t c n { q with ops := q.ops + 1 } ∧ bitN (t.ctx s.myCtx).cki.toNat 2 = true)
     ∧ (∀ d f p, v < 4 → s.pqBusy n = false → s.me.pq = none →
       ((∀ e ∈ q.ents, q.dead e = true) → ∀ i ∈ [Instr.pqpop d f p b, Instr.pqpeek d f p b], ∃ t, exec i s = .next t
         ∧ t = { s with berths := t.berths, cores := t.cores } ∧ Passed s t 4 ∧ PqIs s t c n { q with ents := [], ops := q.ops + 1 }
         ∧ (∀ m, t.G m = if m = d ∧ d ≠ 0 then BitVec.allOnes 64 else s.G m)
         ∧ ∀ m, t.P m = if m ≠ 0 ∧ (m = f ∨ m = p) then false else s.P m)
       ∧ (∀ e, q.first e →
         (∃ t, exec (.pqpop d f p b) s = .next t ∧ t = { s with berths := t.berths, cores := t.cores } ∧ PqIs s t c n q.sweepDead
           ∧ (∀ x, x ≠ s.cur → t.berth x = s.berth x) ∧ t.me = { s.me with pq := some ⟨d, f, p, n, 0, some (e.key, e.pay, e.ins), true, s.ir, q.ents⟩ })
         ∧ ∃ t, exec (.pqpeek d f p b) s = .next t ∧ t = { s with berths := t.berths, cores := t.cores } ∧ PqIs s t c n q.sweepDead
           ∧ (∀ x, x ≠ s.cur → t.berth x = s.berth x) ∧ t.me = { s.me with pq := some ⟨d, f, p, n, 0, some (e.key, e.pay, e.ins), false, s.ir, q.ents⟩ }))
     ∧ (∀ a, v < 8 → fld v 3 61 = 0 → (s.G a).toNat < 2 ^ 16 → ∃ t, exec (.pqinv a b) s = .next t ∧ t = { s with berths := t.berths, cores := t.cores }
       ∧ Passed s t 4 ∧ s.me.sameRegs t.me
       ∧ PqIs s t c n { q with inv := AMap.set false q.inv (s.G a).toNat (v / 4 % 2 == 1), ops := q.ops + 1 })
     ∧ (v < 4 → s.pqBusy n = false → ∃ t, exec (.pqclr b) s = .next t ∧ t = { s with berths := t.berths, cores := t.cores } ∧ Passed s t 4
       ∧ s.me.sameRegs t.me ∧ PqIs s t c n ⟨[], [], 0, q.ops + 1⟩)
     ∧ (∀ d, v < 4 → ∃ t, exec (.pqcnt d b) s = .next t ∧ t = { s with berths := t.berths, cores := t.cores }
       ∧ EndedWith s t d (BitVec.ofNat 64 (q.ents.length + 2 ^ 32 * q.inv.length)) 4 ∧ PqIs s t c n { q with ops := q.ops + 1 }))
  ∧ (∀ (s : State) (p : PqSel) (e : PqEnt), let b := s.arg.b; let c := coreOf b; let q := (s.core c).pq p.n
       let u := { s with cur := b, ir := p.words }
       (s.berth b).pq = some p → (s.launchOf b).det = false →
       (p.cand = none → q.first e → ∃ t, exec .pqSelectionWriteback s = .next t ∧ t = { u with berths := t.berths, cores := t.cores }
         ∧ PqIs u t c p.n q.sweepDead ∧ t.me = { u.me with pq := some { p with cand := some (e.key, e.pay, e.ins) } })
       ∧ (p.cand = some (e.key, e.pay, e.ins) → (q.dead e = false ∨ 4 ≤ p.tries) → ∃ t, exec .pqSelectionWriteback s = .next t ∧ t = { u with berths := t.berths, cores := t.cores }
         ∧ Passed u t 4 ∧ t.me.pq = none
         ∧ (∀ m, t.G m = if m = p.d ∧ p.d ≠ 0 then BitVec.ofNat 64 (e.key + 2 ^ 32 * e.pay) else u.G m)
         ∧ (∀ m, t.P m = if m = p.s ∧ m ≠ 0 then q.dead e else if m = p.f ∧ m ≠ 0 then true else u.P m)
         ∧ PqIs u t c p.n { q with ents := if p.remove then q.ents.filter (· != e) else q.ents, ops := q.ops + 1 })
       ∧ (p.cand = some (e.key, e.pay, e.ins) → q.dead e = true → p.tries < 4 → ∃ t, exec .pqSelectionWriteback s = .next t
         ∧ t = { u with berths := t.berths, cores := t.cores } ∧ PqIs u t c p.n { q with ents := q.ents.filter (· != e) }
         ∧ t.me = { u.me with pq := some { p with tries := p.tries + 1, cand := none } }))

/-- R22, R26, R177, R196, R197, R243, R362, R378: reading and writing system registers; a read-only register ignores the write. -/
def Obligations.SystemRegisters : Prop :=
  (∀ (s : State) (d : GReg) (n : BitVec 12), let u := s.writeback s.cur
     (∀ v, u.sysValue n.toNat = some v → ∃ t, exec (.mfs d n) s = .next t ∧ WroteG u t d v 4)
     ∧ (AMap.find u.behind (stackOf u.cur) = none →
         (0x110 ≤ n.toNat → n.toNat ≤ 0x13F → ∃ t, exec (.mfs d n) s = .next t ∧ WroteG u t d 0 4)
         ∧ (n = 0x140 → ∃ t, exec (.mfs d n) s = .next t ∧ WroteG u t d (BitVec.ofNat 64 u.svcWord) 4)
         ∧ (n = 0x103 → ∃ t, exec (.mfs d n) s = .next t ∧ WroteG u t d 0x24900 4)
         ∧ (n = 0x104 → ∃ t, exec (.mfs d n) s = .next t ∧ WroteG u t d 0x49200 4)
         ∧ (n = 0x105 → ∃ t, exec (.mfs d n) s = .next t ∧ WroteG u t d 0x92400 4))
     ∧ (n.toNat = 2 → ∃ t, exec (.mfs d n) s = .next t ∧ EndedWith u t d (BitVec.ofNat 64 (t.stack (stackOf u.cur)).cycles) 4
         ∧ t = { u with berths := t.berths, stks := t.stks } ∧ ∀ b, b ≠ u.cur → t.berth b = u.berth b)
     ∧ (∀ va, sysAbsent n.toNat → u.trapGoes u.cur va → ∃ t, exec (.mfs d n) s = .next t
         ∧ Trapped u t u.cur 0x50 false u.me.unitPc 0 (BitVec.ofNat 64 n.toNat) u.unitWords 0 va))
  ∧ (∀ (s : State) (a : GReg) (n : BitVec 12), let u := s.writeback s.cur; let v := u.G a; let c := coreOf u.cur
       let ends := fun (B : Berth) => ∃ t, exec (.mts n a) s = .next t ∧ EndsWith u t B (u.me.pc + 4)
       (n = 3 → v.toNat < 2 ^ 8 → ∃ t, exec (.mts n a) s = .next t ∧ EndsWith u t { u.me with p := t.me.p } (u.me.pc + 4)
         ∧ ∀ m, t.P m = if m = 0 then true else v.getLsbD m.toNat)
       ∧ (n = 4 → ends { u.me with rngk := v }) ∧ (n = 5 → ends { u.me with rngc := v })
       ∧ (n = 0x11 → ends { u.me with trap := { u.me.trap with tpc := v } })
       ∧ (n = 0x15 → v.toNat < 2 ^ 8 → ends { u.me with trap := { u.me.trap with tprd := v } })
       ∧ (n = 0x16 → ends { u.me with trap := { u.me.trap with tscr := v } })
       ∧ (n = 0x17 → v.toNat < 3 → ends { u.me with trap := { u.me.trap with tact := v } })
       ∧ (∀ k, k < 16 → n.toNat = 0x1A0 + k → v.toNat < 2 ^ 16 → fld v.toNat 11 4 = 0 → ∃ t, exec (.mts n a) s = .next t
           ∧ EndsWith u t { u.me with q := t.me.q } (u.me.pc + 4) ∧ ∀ m, t.me.getQ m = if m = k then v else u.me.getQ m)
       ∧ (∀ k, k < 32 → n.toNat = 0x180 + k → let r := (u.core c).ring k; r.claimed = 0 → r.nfull = 0 → ringDescOk v = true →
           ∃ t, exec (.mts n a) s = .next t ∧ t = { u with berths := t.berths, cores := t.cores } ∧ Passed u t 4 ∧ u.me.sameRegs t.me
           ∧ RingIs u t c k { Ring.zero with desc := v, grants := r.grants })
       ∧ (n = 0x1B0 → v.toNat < 2 ^ 22 → v.toNat % 64 = 0 → ∃ t, exec (.mts n a) s = .next t ∧ t = { u with berths := t.berths, cores := t.cores }
           ∧ Passed u t 4 ∧ u.me.sameRegs t.me ∧ t.core c = { u.core c with mcb := v } ∧ ∀ k, k ≠ c → t.core k = u.core k)
       ∧ ((n.toNat ≤ 2 ∨ n = 6 ∨ n = 0x10 ∨ (0x12 ≤ n.toNat ∧ n.toNat ≤ 0x14) ∨ (0x18 ≤ n.toNat ∧ n.toNat ≤ 0x1E)
           ∨ (0x100 ≤ n.toNat ∧ n.toNat < 0x144) ∨ (0x150 ≤ n.toNat ∧ n.toNat ≤ 0x164)) → ∃ t, exec (.mts n a) s = .next t ∧ NoEffect u t 4)
       ∧ (∀ va, sysAbsent n.toNat → u.trapGoes u.cur va → ∃ t, exec (.mts n a) s = .next t
           ∧ Trapped u t u.cur 0x50 false u.me.unitPc 0 (BitVec.ofNat 64 n.toNat) u.unitWords 0 va))

/-- R221, R224, R236, R304–R312, R415: the check-interval register (that `chkerr` sends the ordered buffer first is log entry 135's reading), the log
instructions, and the order log: what a deterministic launch picks, appends and replays. The mark of `logm` stands for every event of C. -/
def Obligations.ChecksAndLog : Prop :=
  (∀ (s : State) (d : GReg), let u := s.writeback s.cur; u.me.inHandler = false →
    ((∀ r ∈ u.me.recs, r.st = .retired) → u.me.obuf = [] → u.busyReq u.cur = false → u.batchOut u.cur = false → u.rawBusy u.cur = false →
      ∃ t, exec (.chkerr d) s = .next t
      ∧ OthersKept u t ∧ (∀ a, t.mb a = u.mb a) ∧ EndedWith u t d (u.ctx u.myCtx).cki 4 ∧ t.me.pend = u.me.joinAll.pend)
    ∧ ((∀ r ∈ u.me.recs, r.st = .retired) → u.me.obuf ≠ [] → ∃ t, exec (.chkerr d) s = .next t ∧ t.me.obuf = [] ∧ t.me.st = .wait
      ∧ t.me.waiting = .reply ∧ t.me.pc = u.me.unitPc ∧ u.me.sameRegs t.me ∧ t.atoms.length = u.atoms.length + u.me.obuf.length)
    ∧ ((∃ r ∈ u.me.recs, r.st ≠ .retired) → ∃ t, exec (.chkerr d) s = .next t ∧ Waits u t .qdrain))
  ∧ (∀ (s : State) (a : GReg), let u := s.writeback s.cur; u.myLaunch.det = false → ∃ t, exec (.logm a) s = .next t ∧ NoEffect u t 4)
  ∧ (∀ (s : State) (d : GReg), let l := s.myLaunch
    (∃ t, exec (.logq d 0) s = .next t ∧ WroteG s t d (if l.det then BitVec.ofNat 64 l.log.k else 0) 4)
    ∧ ∃ t, exec (.logq d 1) s = .next t ∧ WroteG s t d
      (BitVec.ofNat 64 ((if l.det then 1 else 0) + (if l.rpl then 2 else 0) + (if l.log.brk then 4 else 0))) 4)
  ∧ (∀ (s : State) (f : BitVec 3) (k : Tok), let u := s.writeback s.cur; let q := u.me.fifo f.toNat
    u.myLaunch.det = true → u.me.inHandler = false → f.toNat < u.me.fifos.length →
    ((q.npop, k) ∈ q.done → (∀ x ∈ q.done, x.1 = q.npop → x = (q.npop, k)) → ∃ t, exec (.tokw f) s = .next t ∧ Settled u t 4 ∧ u.me.sameRegs t.me
      ∧ (t.me.fifo f.toNat).done = q.done.filter (fun x => x.1 != q.npop) ∧ (t.me.fifo f.toNat).npop = q.npop + 1)
    ∧ ((∀ x ∈ q.done, x.1 ≠ q.npop) → ∃ t, exec (.tokw f) s = .next t ∧ Waits u t (.tokw f.toNat)))
  ∧ (∀ (s : State) (a : GReg), let u := s.writeback s.cur; let n := u.myCtx; let lsl := u.me.lsl; let l := u.myLaunch; let g := l.log
    let mine := fun (q : LogReq) => q.hnd == u.me.handle.toNat && q.pk == 0 && q.pix == u.me.pixc
    l.resident = true → l.det = true → g.brk = false → g.free = false → (∀ x ∈ u.atoms, x.berth ≠ u.cur) → (∀ x ∈ u.contribs, x.req.berth ≠ u.cur) →
    (l.rpl = false →
      (∀ w, l.f 78 1 = 0 → lowI ((g.k : Int) - (u.lcnt n lsl : Nat)) 64 ≠ 2 ^ l.f 256 5 →
        u.writeVA2 n (l.f 192 64 + 32 * (g.k % 2 ^ l.f 256 5)) (leBytes (2 ^ 128 * (u.G a).toNat + 2 ^ 96 * (u.me.pixc % 2 ^ 32)
          + 2 ^ 32 * u.me.handle.toNat + 2 ^ 24 * (g.k % 256) + 2 ^ 16 * u.logBerth u.cur + 4) 32) = .ok w →
        ∃ t, exec (.logm a) s = .next t ∧ (∀ x, t.mb x = w.mb x) ∧ t.myLaunch.log.k = g.k + 1 ∧ t.me.pixc = u.me.pixc + 1
          ∧ Passed u t 4 ∧ u.me.sameRegs t.me)
      ∧ (l.f 78 1 = 0 → lowI ((g.k : Int) - (u.lcnt n lsl : Nat)) 64 = 2 ^ l.f 256 5 → ∃ t, exec (.logm a) s = .next t ∧ Waits u t .log))
    ∧ (l.rpl = true →
      (∀ k q, u.logFirst n lsl k (fun q => q.typ == 4) q → mine q = true →
        (q.obj = (u.G a).toNat → q.arg = 0 → ∃ t, exec (.logm a) s = .next t ∧ t.mem = u.mem ∧ Passed u t 4 ∧ u.me.sameRegs t.me
          ∧ t.me.pixc = u.me.pixc + 1 ∧ AMap.get false t.myLaunch.log.used k = true)
        ∧ ((q.obj ≠ (u.G a).toNat ∨ q.arg ≠ 0) → ∃ t, exec (.logm a) s = .next t ∧ t.mem = u.mem ∧ t.me.haltF = true ∧ t.me.cut = true
          ∧ t.me.pc = u.me.unitPc ∧ (t.ctx n).ldiv = BitVec.ofNat 64 (2 ^ 32 * (k % 2 ^ 32) + 2 ^ 16 * 4 + 7) ∧ (t.ctx n).pnd = true
          ∧ ((u.ctx n).pendFault = none → bitN (u.ctx n).flt.toNat 0 = false → (t.ctx n).pendFault = some (0xBA, 0xFF, l.seq, true))))
      ∧ (∀ k q j r, u.logFirst n lsl k (fun q => q.typ == 4) q → mine q = false → u.logFirst n lsl j mine r →
        (r.typ = 4 → ∃ t, exec (.logm a) s = .next t ∧ Waits u t .log)
        ∧ (5 ≤ r.typ → r.typ ≠ 0x15 → ∃ t, exec (.logm a) s = .next t ∧ t.mem = u.mem ∧ t.me.haltF = true
          ∧ (t.ctx n).ldiv = BitVec.ofNat 64 (2 ^ 32 * (j % 2 ^ 32) + 2 ^ 16 * r.typ + 1)))))
  ∧ (∀ (s : State) (d a : GReg) (k : Nat) (q : LogReq), let l := s.myLaunch; let g := (s.G a).toNat
    let mine := fun (q : LogReq) => q.hnd == s.me.handle.toNat && q.pk == 0 && q.pix == s.me.pixc
    let here := fun (q : LogReq) => q.obj == g && (q.typ == 0x13 || (q.typ == 0x16 && q.arg % 2 ^ 8 == 0x19))
    g < 2 ^ 8 → (s.gang s.myCtx g).members.length < 2 ^ 32 → l.resident = true → l.det = true → l.rpl = true → l.log.brk = false → l.log.free = false →
    (∀ x ∈ s.atoms, x.berth ≠ s.cur) → (∀ x ∈ s.contribs, x.req.berth ≠ s.cur) →
    s.logFirst s.myCtx s.me.lsl k mine q → s.logFirst s.myCtx s.me.lsl k here q → q.typ = 0x16 → q.arg % 2 ^ 32 = 0x219 →
    ∃ t, exec (.gsize d a) s = .next t ∧ t.mem = s.mem ∧ EndedWith s t d (BitVec.ofNat 64 (q.arg / 2 ^ 32 % 2 ^ 32)) 4
      ∧ AMap.get false t.myLaunch.log.used k = true ∧ t.me.pixc = s.me.pixc + 1)

/-- R222, R435, R436: opening a segment, closing it, and the trap of its bound: what holds with no condition on tracing or on the handler's
address, and all of it where tracing is off and the handler stands (that `asy` and `tword` of the bound's trap are 0 is log entry 111's choice). -/
def Obligations.Segments : Prop :=
  (∀ s : State, s.me.inHandler = false → s.me.seg.isOpen = false → ∃ t, exec .segb s = .next t
    ∧ EndsWith s t { s.me with seg := ⟨true, false, 0xFFFFFFFF, s.me.pc, 0, 0, 0, s.imm32, 0, s.me.seg.acc⟩ } (s.me.pc + 8) ∧ BytesKept s t
    ∧ t.me.seg.crc = 0xFFFFFFFF)
  ∧ (∀ s : State, let u := s.writeback s.cur; u.me.inHandler = false → u.me.seg.isOpen = true →
    ((∃ r ∈ u.me.recs, r.inSeg = true ∧ r.st ≠ .retired) → ∃ t, exec .sege s = .next t ∧ Waits u t .sege)
    ∧ ((∀ r ∈ u.me.recs, r.inSeg = true → r.st = .retired) → u.untraced u.myCtx →
      (u.me.seg.value = u.imm32 → ∃ t, exec .sege s = .next t ∧ Settled u t 8 ∧ u.me.sameRegs t.me ∧ t.me.seg.isOpen = false
        ∧ t.me.seg.acc = u.me.seg.value)
      ∧ (∀ va, u.me.seg.value ≠ u.imm32 → u.handler u.myCtx = some va → ∃ t, exec .sege s = .next t ∧ t.me.pc = va ∧ t.me.inHandler = true
        ∧ t.me.trap.tcause = 0x8D0 ∧ t.me.trap.tpc = u.me.pc + 8 ∧ t.me.trap.taddr = u.imm32.zeroExtend 64
        ∧ t.me.trap.tval = BitVec.ofNat 64 (2 ^ 62 + u.me.seg.value.toNat) ∧ t.me.seg.isOpen = false ∧ t.me.g = u.me.g ∧ t.me.p = u.me.p
        ∧ bitN (t.ctx u.myCtx).cki.toNat 7 = true)))
  ∧ (∀ (s : State) (va : Word), let b := s.arg.b; let B := (s.writeback b).berth b; B.seg.isOpen = true → B.seg.disarmed = false → B.seg.bound ≠ 0 →
    B.pfx = none → (B.st = .run ∨ B.st = .wait) → B.inHandler = false → B.haltF = false → B.cut = false → B.dbg.stp = false → s.cBusy b = false → s.untraced B.ctx →
    s.handler B.ctx = some va → ∃ t, exec .segmentCycleBound s = .next t ∧ (t.berth b).pc = va ∧ (t.berth b).st = .run ∧ (t.berth b).trap.tcause = 0x8D0
      ∧ (t.berth b).trap.tpc = B.pc ∧ (t.berth b).trap.taddr = B.seg.addr
      ∧ (t.berth b).trap.tval = BitVec.ofNat 64 (2 ^ 63 + B.seg.bound.toNat) ∧ (t.berth b).seg = { B.seg with disarmed := true }
      ∧ (t.berth b).g = B.g ∧ bitN (t.ctx B.ctx).cki.toNat 7 = true ∧ ∀ c, c ≠ b → t.berth c = s.berth c)
  ∧ (∀ s : State, s.me.inHandler = false → s.me.seg.isOpen = false → ∃ t, exec .segb s = .next t ∧ t.me.seg.isOpen = true
      ∧ t.me.seg.addr = s.me.pc ∧ t.me.seg.bound = s.imm32 ∧ t.me.seg.acc = s.me.seg.acc ∧ Settled s t 8 ∧ s.me.sameRegs t.me)
  ∧ (∀ s : State, let u := s.writeback s.cur; u.me.inHandler = false → u.me.seg.isOpen = true →
      (∀ r ∈ u.me.recs, r.inSeg = true → r.st = .retired) →
      (u.me.seg.value = u.imm32 → ∃ t, exec .sege s = .next t ∧ t.me.seg.isOpen = false ∧ t.me.seg.acc = u.me.seg.value
        ∧ Passed u t 8 ∧ u.me.sameRegs t.me)
      ∧ (u.me.seg.value ≠ u.imm32 → ∃ t, exec .sege s = .next t ∧ t.me.seg.isOpen = false ∧ t.me.trap.tcause.toNat % 2 ^ 11 = 0xD0
        ∧ t.me.trap.tpc = u.me.pc + 8 ∧ t.me.trap.taddr = u.imm32.zeroExtend 64
        ∧ t.me.trap.tval = BitVec.ofNat 64 (2 ^ 62 + u.me.seg.value.toNat) ∧ t.me.g = u.me.g ∧ bitN (t.ctx u.myCtx).cki.toNat 7 = true))
  ∧ (∀ s : State, let b := s.arg.b; let B := (s.writeback b).berth b; B.seg.isOpen = true → B.seg.disarmed = false → B.seg.bound ≠ 0 →
      B.pfx = none → (B.st = .run ∨ B.st = .wait) → B.inHandler = false → B.haltF = false → B.cut = false → B.dbg.stp = false → s.cBusy b = false →
      ∃ t, exec .segmentCycleBound s = .next t
      ∧ (t.berth b).seg = { B.seg with disarmed := true } ∧ (t.berth b).trap.tcause.toNat % 2 ^ 11 = 0xD0 ∧ (t.berth b).trap.tpc = B.pc
      ∧ (t.berth b).trap.taddr = B.seg.addr ∧ (t.berth b).trap.tval = BitVec.ofNat 64 (2 ^ 63 + B.seg.bound.toNat) ∧ (t.berth b).g = B.g
      ∧ bitN (t.ctx B.ctx).cki.toNat 7 = true ∧ ∀ c, c ≠ b → t.berth c = s.berth c)

/-- R182–R187, R439: sending a raw packet takes the lowest free tag, which no berth of the core has a status for any more; `rpt` waits for
the packet that its berth issued on the tag and returns that packet's status, 0 where there is none; how a packet is performed at its home. -/
def Obligations.RawPackets : Prop :=
  (∀ (s : State) (d a b : GReg) (k : Nat), let u := s.writeback s.cur; let n := u.ctx u.myCtx; let c := coreOf u.cur; let K := u.core c
     let off := (u.G a).toNat % 2 ^ 32; let m := (u.G a).toNat / 2 ^ 32; let x := (u.G b).toNat
     let sent := fun (t : State) (r : RawTag) => t = { u with berths := t.berths, cores := t.cores } ∧ EndedWith u t d (BitVec.ofNat 64 k) 4
       ∧ t.core c = { K with raw := AMap.put K.raw k r } ∧ (∀ j, j ≠ c → t.core j = u.core j)
       ∧ (∀ j, j ≠ u.cur → t.berth j = { u.berth j with rawBack := (t.berth j).rawBack })
       ∧ (∀ j i, AMap.find (t.berth j).rawBack i = if coreOf j = c ∧ i = k then none else AMap.find (u.berth j).rawBack i)
     n.rawSize ≠ 0 → off % 32 = 0 → off < n.rawSize → x % 32 = 0 → x < 0x400000 → u.rawOk (n.rawBase + off) = true → u.paFenced (n.rawBase + off) = false →
     (k < 8 → (AMap.get RawTag.zero K.raw k).busy = false → (∀ j < k, (AMap.get RawTag.zero K.raw j).busy = true) →
       (u.unblocked 1 x 32 false → K.spPoison x 32 = false → ∃ t, exec (.rpw d a b) s = .next t
         ∧ sent t ⟨true, u.cur, true, n.rawBase + off, m, x, u.spBytes u.cur x 32, u.ev, true⟩)
       ∧ (m = 0 → u.unblocked 1 x 32 true → ∃ t, exec (.rpr d a b) s = .next t ∧ sent t ⟨true, u.cur, false, n.rawBase + off, 0, x, [], u.ev, true⟩))
     ∧ ((∀ j < 8, (AMap.get RawTag.zero K.raw j).busy = true) → (u.unblocked 1 x 32 false → exec (.rpw d a b) s = .next u.stall)
       ∧ (m = 0 → u.unblocked 1 x 32 true → exec (.rpr d a b) s = .next u.stall)))
  ∧ (∀ (s : State) (d a : GReg) (va : Word), let u := s.writeback s.cur; let k := (u.G a).toNat; let r := AMap.get RawTag.zero u.myCore.raw k
     let ends := fun (v : Word) => ∃ t, exec (.rpt d a) s = .next t
       ∧ EndsWith u t { u.me with g := t.me.g, landing := u.me.landing.filter (fun l => l.1 != k) } (u.me.pc + 4) ∧ (∀ y, t.mb y = u.mb y)
       ∧ ∀ m, t.G m = if m = d ∧ d ≠ 0 then v else u.G m
     (∀ v, u.me.answer = some v → ends v)
     ∧ (u.me.answer = none → (u.ctx u.myCtx).rawSize ≠ 0 → k < 8 →
       (r.busy = true → r.berth = u.cur → r.mine = true → ∃ t, exec (.rpt d a) s = .next t ∧ Waits u t (.raw k))
       ∧ ((r.busy = false ∨ r.berth ≠ u.cur ∨ r.mine = false) → (AMap.find u.me.rawBack k = none → ends 0)
         ∧ ∀ st, AMap.find u.me.rawBack k = some (st + 1) → ends (BitVec.ofNat 64 st)))
     ∧ (u.me.answer = none → ((u.ctx u.myCtx).rawSize = 0 ∨ 8 ≤ k) → u.trapGoes u.cur va → ∃ t, exec (.rpt d a) s = .next t
       ∧ Trapped u t u.cur 0x50 false u.me.unitPc 0 (u.G a) u.unitWords 0 va))
  ∧ (∀ s : State, let c := s.arg.core; let k := s.arg.tag; let K := s.core c; let r := AMap.get RawTag.zero K.raw k; let e := s.arg.ecc
       let n := (K.cseq + 1) % 256
       r.busy = true → (∀ x ∈ K.raw, x.2.busy = true → x.2.pa = r.pa → r.order ≤ x.2.order) → s.paDead r.pa = false → s.paFenced r.pa = false →
       r.mine = true → r.data.length = 32 → r.mask < 2 ^ 32 →
       ∃ t st, exec .rawPacketComplete s = .next t ∧ (AMap.get RawTag.zero (t.core c).raw k).busy = false ∧ (t.core c).cseq = n
         ∧ AMap.find (t.berth r.berth).rawBack k = some (st + 1) ∧ (∀ j, j ≠ k → AMap.find (t.berth r.berth).rawBack j = AMap.find (s.berth r.berth).rawBack j)
         ∧ (t.berth r.berth).answer = (if (s.berth r.berth).waiting = .raw k then some (BitVec.ofNat 64 st) else (s.berth r.berth).answer)
         ∧ (∀ b, b ≠ r.berth → t.berth b = s.berth b) ∧ (s.berth r.berth).sameRegs (t.berth r.berth)
         ∧ (∀ y, y < r.pa ∨ r.pa + 32 ≤ y → t.mb y = s.mb y)
         ∧ (r.write = true → (r.mask = 0 ∨ r.mask = 0xFFFFFFFF) → st = 1 + 2 ^ 8 * n
           ∧ ∀ i < 32, t.mb (r.pa + i) = if r.mask = 0 then s.mb (r.pa + i) else r.data.getD i 0)
         ∧ (r.write = true → r.mask ≠ 0 → r.mask ≠ 0xFFFFFFFF → st = 3 + (if e = 1 then 4 else 0) + (if 2 ≤ e then 8 else 0) + 2 ^ 8 * n
           ∧ ∀ i < 32, t.mb (r.pa + i) = if e < 2 ∧ r.mask.testBit i = true then r.data.getD i 0 else s.mb (r.pa + i))
         ∧ (r.write = true → ∀ y, t.spAt c y = s.spAt c y)
         ∧ (r.write = false → st = 1 + (if e = 1 then 4 else 0) + (if 2 ≤ e then 8 else 0) + 2 ^ 8 * n
           ∧ (∀ i < 32, t.mb (r.pa + i) = s.mb (r.pa + i)) ∧ (e < 2 → ∀ i < 32, t.spAt c (r.dst + i) = s.mb (r.pa + i))
           ∧ ∀ y, y < r.dst ∨ r.dst + 32 ≤ y → t.spAt c y = s.spAt c y))

/-- R86–R89, R118, R119, R214, R215: opening and closing a reduction window (outside deterministic mode, R305); contributions are
accumulated exactly, one that finds its window closed is an atomic, and a closing window is merged once nothing is on its way (the
merge outside deterministic mode, R305). -/
def Obligations.Windows : Prop :=
  (∀ s : State, let u := s.writeback s.cur; u.myLaunch.det = false →
     (∀ d a b, let p := u.G a; let y := (u.G b).toNat; let n := y % 2 ^ 16; let op := y / 2 ^ 16; let ks := maskList u.winStacks
       p.toNat % 64 = 0 → u.rangeCheck u.myCtx u.myLaunch.bndb p (4 * n) .at = .ok () → op ≤ 10 → 16 ≤ n → n ≤ 32768 → n % 16 = 0 →
       (∀ k < 8, (u.win u.myCtx k).isOpen = true → fld p.toNat 0 50 + 4 * n ≤ fld (u.win u.myCtx k).base.toNat 0 50
         ∨ fld (u.win u.myCtx k).base.toNat 0 50 + 4 * (u.win u.myCtx k).n ≤ fld p.toNat 0 50) → u.flushed 2 →
       (∀ k < 8, (u.win u.myCtx k).isOpen = false → (∀ j < k, (u.win u.myCtx j).isOpen = true) → (∀ x ∈ ks, (u.stack x).redSlots + n ≤ 32768) →
         ∃ t, exec (.rwopen d a b) s = .next t ∧ EndedWith u t d (BitVec.ofNat 64 k) 4 ∧ StoresOut u t 2
         ∧ t.win u.myCtx k = ⟨true, p, n, op, u.winStacks, [], 0, none⟩ ∧ (∀ j, j ≠ k → t.win u.myCtx j = u.win u.myCtx j)
         ∧ ∀ x, (t.stack x).redSlots = if x ∈ ks then (u.stack x).redSlots + n else (u.stack x).redSlots)
       ∧ (((∀ k < 8, (u.win u.myCtx k).isOpen = true) ∨ ∃ x ∈ ks, 32768 < (u.stack x).redSlots + n) → ∃ t, exec (.rwopen d a b) s = .next t
         ∧ EndedWith u t d (BitVec.allOnes 64) 4 ∧ StoresOut u t 2 ∧ t.ctxs = u.ctxs ∧ t.stks = u.stks))
     ∧ (∀ a, let k := (u.G a).toNat; let w := u.win u.myCtx k
       (u.me.answer = none → k < 8 → w.isOpen = true → w.closing = none → u.flushed 2 → ∃ t, exec (.rwclose a) s = .next t
         ∧ t.win u.myCtx k = { w with closing := some u.cur } ∧ StoresOut u t 2 ∧ t.me.st = .wait ∧ t.me.waiting = .reply ∧ u.me.sameRegs t.me)
       ∧ (∀ b, u.me.answer = none → k < 8 → w.isOpen = true → w.closing = some b → u.flushed 2 → ∃ t, exec (.rwclose a) s = .next t
         ∧ t.win u.myCtx k = w ∧ StoresOut u t 2 ∧ t.me.st = .wait ∧ t.me.waiting = .win k ∧ t.me.pc = u.me.unitPc ∧ u.me.sameRegs t.me)
       ∧ (u.me.answer ≠ none → ∃ t, exec (.rwclose a) s = .next t ∧ NoEffect u t 4)))
  ∧ ((∀ (s : State) (c : Contrib), let r := c.req; let w := s.win r.ctx c.win; s.contribs[s.arg.k]? = some c →
       (∀ x, w.isOpen = true → fld r.ptr.toNat 0 50 = fld w.base.toNat 0 50 + 4 * c.elem → bitN w.stks r.stk = true →
         (s.launch r.ctx r.lsl).det = false → AMap.get Acc.zero w.parts (65536 * r.stk + c.elem) = x →
         ∃ t, exec .reductionContributionArrive s = .next t
         ∧ t = { s with ctxs := t.ctxs, contribs := s.contribs.eraseIdx s.arg.k, berths := t.berths }
         ∧ t.win r.ctx c.win = { w with parts := AMap.put w.parts (65536 * r.stk + c.elem) (x.add w.op r.y.toNat r.pz) }
         ∧ (r.byRec = none → (t.berth r.berth).answer = if r.reply then some 0 else (s.berth r.berth).answer)
         ∧ ∀ b, b ≠ r.berth → t.berth b = s.berth b)
       ∧ (w.isOpen = false → (s.launch r.ctx r.lsl).det = false → (s.kin c).head? = some c → ∃ t, exec .reductionContributionArrive s = .next t
         ∧ t = { s with atoms := s.atoms ++ [r], contribs := s.contribs.eraseIdx s.arg.k }))
     ∧ (∀ (s : State) (b : Nat), let n := s.arg.ctx; let k := s.arg.win; let w := s.win n k
       w.closing = some b → w.isOpen = true → (∀ c ∈ s.contribs, c.req.ctx = n → c.win ≠ k) → s.mayMerge n w = true → (s.launchOf b).det = false →
       ∃ t, exec .windowMerge s = .next t ∧ t.win n k = Window.zero ∧ (t.berth b).answer = some 0 ∧ (∀ c, c ≠ b → t.berth c = s.berth c)
         ∧ t.mem = (w.touched.foldl (fun u e => u.mergeElem n b w e) s).mem
         ∧ ∀ x < 4, (t.stack x).redSlots = if bitN w.stks x then (s.stack x).redSlots - w.n else (s.stack x).redSlots)
     ∧ (∀ (s : State) (n b : Nat) (w : Window) (e : Nat) (l : Leaf), s.walk n (fld w.base.toNat 0 50 + 4 * e) 0 = .ok l →
       (∀ i < 4, (s.mergeElem n b w e).mb (l.pa + i)
         = (leBytes (((Acc.zero.add w.op (memNat s.mem l.pa 4) false).merge (w.elem e) w.op).read w.op) 4).getD i 0)
       ∧ ∀ a, a < l.pa ∨ l.pa + 4 ≤ a → (s.mergeElem n b w e).mb a = s.mb a))

/-- R118, R119, R88: for every window operation but the float maximum and minimum, an exact sum does not depend on the order of its contributions. -/
def Obligations.ExactSums : Prop :=
  ∀ (op : Nat) (xs ys : List (BitVec 32)), op ≤ 10 → op ≠ 9 → op ≠ 10 → xs.Perm ys → xs.length < 2 ^ 16 →
    (xs.foldl (fun (a : Acc) x => a.add op x.toNat false) Acc.zero).read op = (ys.foldl (fun (a : Acc) x => a.add op x.toNat false) Acc.zero).read op

/-- R76, R77, R83, R210–R213, R314 (what a publish at .core writes is the model's choice, log entry 29): an `atom` sends its request, or a contribution to an open window, or buffers it; one that awaits an answer
ends with it (outside deterministic mode, R307). -/
def Obligations.AtomsIssue : Prop :=
  ∀ (i : Instr) (s : State) (fn n : Nat) (d a b : GReg) (cmp : Word) (o sc : Nat) (ord : Bool), let u := s.writeback s.cur
    atomForm i u.G = some (fn, n, d, a, b, cmp, o, sc, ord) → o ≤ 4 → u.myLaunch.det = false →
    let p := u.G a; let y := u.G b; let va := fld p.toNat 0 50; let acq := o = 1 ∨ o = 3 ∨ o = 4
    (∀ v, u.me.answer = some v → ∃ t, exec i s = .next t ∧ OthersKept u t ∧ (∀ x, t.mb x = u.mb x) ∧ EndedWith u t d v 8
      ∧ t.me.clk = if acq then u.acquired u.me [] else u.me.clk)
    ∧ (u.me.answer = none → ∀ pa, u.access u.myCtx u.myLaunch.bndb p n .at = .ok pa →
      (u.winAt u.myCtx va = none → ord = false → (bitN pa 45 = true → sc = 3 ∧ (fn = 0 ∨ fn = 9 ∨ fn = 10)) →
        (∀ e ∈ u.me.obuf, va + n ≤ fld e.ptr.toNat 0 50 ∨ fld e.ptr.toNat 0 50 + (if e.wide then 8 else 4) ≤ va) →
        (o = 0 → d = 0 → u.batchOut u.cur = false → ∃ t, exec i s = .next t ∧ t = { u with berths := t.berths, atoms := t.atoms }
          ∧ (∀ x, x ≠ u.cur → t.berth x = u.berth x) ∧ t.me = u.me.ended t.me ∧ t.me.pc = u.me.pc + 8
          ∧ t.atoms = u.atoms ++ [u.atomReq fn n p y cmp false o sc])
        ∧ (o ≤ 1 → (o ≠ 0 ∨ d ≠ 0) → u.batchOut u.cur = false → ∃ t, exec i s = .next t ∧ t = { u with berths := t.berths, atoms := t.atoms }
          ∧ (∀ x, x ≠ u.cur → t.berth x = u.berth x) ∧ t.me = { u.me with st := .wait, waiting := .reply, pc := u.me.unitPc, pfx := none }
          ∧ t.atoms = u.atoms ++ [u.atomReq fn n p y cmp true o sc])
        ∧ (2 ≤ o → u.flushed (relScope o sc) → ∃ t, exec i s = .next t ∧ StoresOut u t (relScope o sc) ∧ u.me.sameRegs t.me
          ∧ t.me.st = .wait ∧ t.me.waiting = .reply ∧ t.me.pc = u.me.unitPc ∧ t.atoms = u.atoms ++ [u.atomReq fn n p y cmp true o sc]))
      ∧ (u.winAt u.myCtx va = none → ord = true → o = 0 → d = 0 → bitN pa 45 = false → u.me.obuf.length < 32 → u.batchOut u.cur = false →
        ∃ t, exec i s = .next t ∧ EndsWith u t { u.me with obuf := u.me.obuf ++ [⟨fn, sc, n == 8, y, p, u.me.batch, false, none, u.me.tid, u.ev + 1, u.me.clk⟩] } (u.me.pc + 8))
      ∧ (∀ w e op, u.winAt u.myCtx va = some (w, e) → (ord = true → o = 0 ∧ bitN pa 45 = false) →
        (ord = false → ∀ e ∈ u.me.obuf, va + n ≤ fld e.ptr.toNat 0 50 ∨ fld e.ptr.toNat 0 50 + (if e.wide then 8 else 4) ≤ va) → d = 0 → n = 4 → winOp fn = some op →
        (u.win u.myCtx w).op = op → let c : Contrib := ⟨u.atomReq fn 4 p y 0 (o != 0) o sc, w, e⟩
        (o = 0 → ∃ t, exec i s = .next t ∧ t = { u with berths := t.berths, contribs := u.contribs ++ [c] } ∧ Passed u t 8 ∧ u.me.sameRegs t.me)
        ∧ (o = 1 → ∃ t, exec i s = .next t ∧ t = { u with berths := t.berths, contribs := u.contribs ++ [c] }
          ∧ (∀ x, x ≠ u.cur → t.berth x = u.berth x) ∧ t.me = { u.me with st := .wait, waiting := .reply, pc := u.me.unitPc, pfx := none })
        ∧ (2 ≤ o → u.flushed (relScope o sc) → ∃ t, exec i s = .next t ∧ t.contribs = u.contribs ++ [c] ∧ StoresOut u t (relScope o sc)
          ∧ u.me.sameRegs t.me ∧ t.me.st = .wait ∧ t.me.waiting = .reply ∧ t.me.pc = u.me.unitPc)))

/-- R77, R81, R82, R211, R315: an atomic is performed at its home as one access, alone or as the entry of an ordered batch (outside
deterministic mode, R305; where the strand has no unpublished store there). -/
def Obligations.AtomsPerform : Prop :=
  ∀ (s : State) (r : AtomReq) (l : Leaf), let old := memNat s.mem l.pa r.w; let new := leBytes (atomNew r.fn r.w old r.y.toNat r.cmp.toNat) r.w
    s.atoms[s.arg.k]? = some r → r.byRec = none → s.xlate r.ctx (fld r.ptr.toNat 0 50) r.ptr .at = .ok l → s.held l.pa = false →
    (s.launch r.ctx r.lsl).det = false → (∀ p ∈ (s.berth r.berth).pend, p.1 < l.pa ∨ l.pa + r.w ≤ p.1) →
    (r.ordB = none → (∀ q ∈ s.atoms.take s.arg.k, s.goesFirst q r = false) → (∀ p ∈ (s.berth r.berth).refs, p.2 ≤ r.iss) →
      ∃ t, exec .atomicPerform s = .next t ∧ t.atoms = s.atoms.eraseIdx s.arg.k ∧ (∀ i < r.w, t.mb (l.pa + i) = new.getD i 0)
        ∧ (∀ a, a < l.pa ∨ l.pa + r.w ≤ a → t.mb a = s.mb a) ∧ (∀ b, b ≠ r.berth → t.berth b = s.berth b)
        ∧ (t.berth r.berth).g = (s.berth r.berth).g
        ∧ (∀ sc, r.acq = some sc → (s.berth r.berth).tid = r.tid → (t.berth r.berth).clk = s.acquired (s.berth r.berth)
            (((s.relsAt l.pa r.w).filter (fun x => !x.via && covers x.sc x.src r.berth && covers sc x.src r.berth)).foldl
              (fun k x => k.both x.clk) []))
        ∧ (r.acq = none → (t.berth r.berth).clk = (s.berth r.berth).clk)
        ∧ (t.berth r.berth).answer = if r.reply then some (BitVec.ofNat 64 old) else (s.berth r.berth).answer)
    ∧ (∀ n, r.ordB = some n → (∀ q ∈ s.atoms, q.berth = r.berth → q.ordB.isSome = true → q = r) → s.atoms.count r = 1 →
      (∀ q ∈ s.atoms, q ≠ r → s.goesFirst q r = false) →
      ∃ t, exec .orderedBatchPerform s = .next t ∧ t.atoms = s.atoms.erase r ∧ (∀ i < r.w, t.mb (l.pa + i) = new.getD i 0)
        ∧ (∀ a, a < l.pa ∨ l.pa + r.w ≤ a → t.mb a = s.mb a) ∧ ∀ b, b ≠ r.berth → t.berth b = s.berth b)
    ∧ (∀ n, r.ordB = some n → let part := s.atoms.filter (s.samePart r); let rest := s.atoms.filter (fun q => !(s.samePart r q))
      (∀ q ∈ part, ∃ m, s.xlate q.ctx (fld q.ptr.toNat 0 50) q.ptr .at = .ok m ∧ s.held m.pa = false) →
      (∀ q ∈ s.atoms, q.berth = r.berth → ∀ m, q.ordB = some m → n ≤ m) → (∀ q ∈ s.atoms.takeWhile (fun q => !(s.samePart r q)), s.goesFirst q r = false) →
      ∃ t, exec .orderedBatchPerform s = .next t ∧ t.atoms = rest ∧ (∀ b, b ≠ r.berth → t.berth b = s.berth b)
        ∧ t.mem = ((({ s with atoms := rest } : State).bumpCnt r.ctx r.lsl (0x15 * 2 ^ 64 + s.portOf r.ctx r.ptr)).performed part).mem)
    ∧ (s.atomRun r l.pa).mb = fun a => if l.pa ≤ a ∧ a < l.pa + r.w then new.getD (a - l.pa) 0 else s.mb a

/-- R92: the copy of a frame, the leaf's redirection and the swap of the list entry. -/
def Obligations.FrameMoves : Prop :=
  ∀ (s : State) (m : Migr), s.migrs[s.arg.k]? = some m → Memory.wf s.mem = true → (m.old + 2 ^ 21 ≤ m.new ∨ m.new + 2 ^ 21 ≤ m.old) →
    (m.pte + 8 ≤ m.new ∨ m.new + 2 ^ 21 ≤ m.pte) → (m.ent + 8 ≤ m.new ∨ m.new + 2 ^ 21 ≤ m.ent) → (m.pte + 8 ≤ m.ent ∨ m.ent + 8 ≤ m.pte) →
    let e := memNat s.mem m.pte 8
    256 * fld e 8 38 ≤ e → e - 256 * fld e 8 38 + m.new < 2 ^ 64 → m.old + 1 < 2 ^ 64 →
    ∃ t, exec .migrationCopyComplete s = .next t ∧ t.migrs = s.migrs.eraseIdx s.arg.k ∧ (∀ j < 2 ^ 21, t.mb (m.new + j) = s.mb (m.old + j))
      ∧ memNat t.mem m.pte 8 = e - 256 * fld e 8 38 + m.new ∧ memNat t.mem m.ent 8 = m.old + 1
      ∧ ∀ a, (a < m.new ∨ m.new + 2 ^ 21 ≤ a) → (a < m.pte ∨ m.pte + 8 ≤ a) → (a < m.ent ∨ m.ent + 8 ≤ a) → t.mb a = s.mb a

/-- R31, R139, R152, R230, R231, R264, R369: C appends a record that passes its checks and goes on (outside deterministic mode, R236,
R305); where a record is not appended: a full queue, a fault of its checks, a handler. -/
def Obligations.RecordsAppend : Prop :=
  (∀ (i : Instr) (s : State) (q opn : Nat) (r : Rec), let u := s.writeback s.cur; let live := !r.pen || (u.P r.pred ^^ r.pneg)
     recForm i = some (q, opn, r) → u.me.inHandler = false → (u.me.queue q).length < 16 → u.myLaunch.det = false → u.me.app.length = 3 →
     (live = true → u.appendFault q opn r = none) →
     ∃ t x, exec i s = .next t ∧ OthersKept u t ∧ Passed u t 64 ∧ t.me.recs = u.me.recs ++ [x]
       ∧ x.q = q ∧ x.opn = opn ∧ x.r = r ∧ x.addr = u.me.pc ∧ x.idx = (u.me.app.getD q 0).toNat ∧ x.live = live ∧ x.st = .waitTok ∧ x.point = 0
       ∧ x.slots.map (·.stream) = [u.me.getS r.sD.str, u.me.getS r.sA.str, u.me.getS r.sB.str, u.me.getS r.sC.str]
       ∧ x.tid = threadOf u.cur u.ev (q + 1) ∧ x.clk = u.released u.cur ∧ x.wr = [] ∧ x.joins = [] ∧ x.left = [] ∧ x.key = u.me.rngk ∧ x.draw0 = u.me.rngc.toNat ∧ t.me.rngc = u.me.rngc + BitVec.ofNat 64 x.draws
       ∧ (live = false → x.draws = 0 ∧ x.ranges = []) ∧ t.me.app.getD q 0 = u.me.app.getD q 0 + 1 ∧ (∀ k, k ≠ q → t.me.app.getD k 0 = u.me.app.getD k 0)
       ∧ t.me.g = u.me.g ∧ t.me.p = u.me.p ∧ t.me.s = u.me.s ∧ t.me.q = u.me.q ∧ t.me.rngk = u.me.rngk ∧ t.me.trap = u.me.trap
       ∧ t.me.pend = u.me.pend ∧ ∀ a, t.mb a = u.mb a)
  ∧ (∀ (i : Instr) (s : State) (q opn : Nat) (r : Rec), let u := s.writeback s.cur; let live := !r.pen || (u.P r.pred ^^ r.pneg)
       recForm i = some (q, opn, r) →
       (u.me.inHandler = false → 16 ≤ (u.me.queue q).length → exec i s = .next u.stall)
       ∧ (∀ f va, u.me.inHandler = false → (u.me.queue q).length < 16 → live = true → u.appendFault q opn r = some f → f.cls < 16 →
           u.trapGoes u.cur va → ∃ t, exec i s = .next t
           ∧ Trapped u t u.cur (f.cls * 16) false u.me.unitPc f.addr f.val u.unitWords 0 va)
       ∧ (u.me.inHandler = true → exec i s = .next (u.trapAt u.cur 0x50 false u.me.unitPc 0 0 u.unitWords 0)))

/-- R227, R231–R233, R236, R241–R263, R275–R278, R366, R372: a record starts, makes its issues and retires; an issue that faults enters the handler at the end of its
cycle, or its context faults; what each issue writes to the scratchpad, the accumulator and global memory, element by element, and sends. The model's choices in it: what a publish at
.core writes (log entry 29), the elementary functions and zero signs of lanes (9, 49), the width that `v.shr` shifts (43), the scale of a 1-bit integer (90),
`v.cvt` between class 1 streams (129) and the sweep at minus infinity (133). -/
def Obligations.RecordsRun : Prop :=
  (∀ (s : State) (r : QRec), let b := s.arg.b; let q := s.arg.q; let B := s.berth b
    s.headIs b q r → s.queueRuns b = true → s.untraced B.ctx → r.left = [] →
    (r.st = .waitTok → r.pops = [] → (r.live = false ∨ (B.rangeHeld r = false ∧ r.slots.length = 4 ∧ ∀ k < 4, r.onRing k = false)) →
      ∃ t, exec .recordStart s = .next t ∧ OthersKept { s with cur := b } { t with cur := b } ∧ B.sameC (t.berth b) ∧ (∀ a, t.mb a = s.mb a)
        ∧ (t.berth b).recs.length = B.recs.length ∧ ∃ x, (t.berth b).head q = some x ∧ x.st = .started ∧ x.idx = r.idx ∧ x.r = r.r ∧ x.point = r.point)
    ∧ (r.st = .started → r.live = true → r.skip = false → r.point < recIssues r.r → s.engineTurn b q = true → (q = 2 → r.opn = 4 ∨ r.opn = 6 → r.sent = 0) →
      let n := r.point; let u := s.engineAged b q; let pz := u.readsPoison b r n; let w := u.issueWrites b r n; let buf := u.writesBuf b r w
      let x : QRec := { r with point := n + 1, gval := w.gval, poisoned := r.poisoned || pz, clk := AMap.put r.clk r.tid (s.ev + 1),
                               wr := buf.gl.foldl (fun m p => AMap.put m p.1 p.2) r.wr }
      (s.issueFault b r n = none → ¬ (q = 0 ∧ r.opn = 2) → ¬ (q = 2 ∧ (r.opn = 3 ∨ r.opn = 4 ∨ r.opn = 6)) →
        ∃ t, exec .recordIssue s = .next t ∧ B.sameC (t.berth b) ∧ (∀ a, t.mb a = s.mb a) ∧ (∀ c, c ≠ b → c ≠ b ^^^ 1 → t.berth c = s.berth c)
        ∧ (t.berth b).head q = some x ∧ (∀ j, j ≠ coreOf b → t.core j = s.core j)
        ∧ (∀ y, t.spAt (coreOf b) y = (AMap.find buf.sp y).getD (s.spAt (coreOf b) y))
        ∧ (∀ y, t.accAt (coreOf b) y = (AMap.find buf.acc y).getD (s.accAt (coreOf b) y))
        ∧ t.mcs = s.mcs ∧ t.meets = s.meets ∧ t.rmsgs = s.rmsgs ∧ t.atoms = s.atoms ∧ t.contribs = s.contribs)
      ∧ (s.issueFault b r n = none → q = 0 → r.opn = 2 → let A := u.str b r 1; let land := u.mcLanding b r n
        ∃ t, exec .recordIssue s = .next t ∧ B.sameC (t.berth b) ∧ (∀ a, t.mb a = s.mb a) ∧ (∀ j, t.core j = s.core j)
        ∧ t.mcs = s.mcs ++ (mcCores b r.r.imm).map (fun j => ⟨B.ctx, b, j, n, land.1.toNat,
            leBytes (packCodes ((List.range (recNe r.r)).map (fun (i : Nat) => u.code b x A (r.ix 1 n + i))) A.c) land.2,
            recNe r.r * A.c % 8, pz, n + 1 == recIssues r.r, fld r.r.ctl.toNat 12 4, x.clk⟩)
        ∧ (t.berth b).head q = some { x with sent := r.sent + (mcCores b r.r.imm).length })
      ∧ (s.issueFault b r n = none → q = 2 → r.opn = 3 → s.batchOut b = false → s.redFlushes b r n = false →
        let D := u.str b r 0; let vals := u.redVals b r n; let ord := bitN r.r.imm.toNat 2
        let win := fun (v : Nat × Nat × Bool) => s.winAt B.ctx (fld (D.ptr (v.1 * 4)).toNat 0 50)
        vals = (List.range (recNe r.r)).map (fun (v : Nat) => ((r.ix 0 n + (v : Int)).toNat, u.code b r (u.str b r 1) (r.ix 1 n + v),
            u.touchPoison b ⟨(u.str b r 1).plain, v, r.ix 1 n + v, .rd, false⟩))
        ∧ ((∀ v ∈ vals, win v = none) → ord = false → ∃ t, exec .recordIssue s = .next t ∧ B.sameC (t.berth b) ∧ (∀ a, t.mb a = s.mb a)
          ∧ (∀ j, t.core j = s.core j) ∧ (t.berth b).obuf = B.obuf ∧ t.contribs = s.contribs
          ∧ (∃ l, t.atoms = s.atoms ++ l ∧ l.map (fun a => (a.ptr, a.y, a.pz)) = vals.map (fun v => (D.ptr (v.1 * 4), BitVec.ofNat 64 v.2.1, v.2.2))
            ∧ ∀ a ∈ l, a.ctx = B.ctx ∧ a.berth = b ∧ a.fn = opFn (fld r.r.ctl.toNat 12 4) ∧ a.w = 4 ∧ a.reply = false ∧ a.byRec = some 2 ∧ a.tid = r.tid)
          ∧ (t.berth b).head q = some { x with sent := r.sent + recNe r.r })
        ∧ ((∀ v ∈ vals, win v = none) → ord = true → B.obuf.length + recNe r.r ≤ 32 → ∃ t, exec .recordIssue s = .next t ∧ (∀ a, t.mb a = s.mb a)
          ∧ t.atoms = s.atoms ∧ t.contribs = s.contribs ∧ (t.berth b).obuf = B.obuf ++ vals.map (fun v => ⟨opFn (fld r.r.ctl.toNat 12 4), r.r.imm.toNat % 4, false,
            BitVec.ofNat 64 v.2.1, D.ptr (v.1 * 4), B.batch, v.2.2, some r.idx, r.tid, s.ev + 1, x.clk⟩)
          ∧ (t.berth b).head q = some { x with sent := r.sent + recNe r.r })
        ∧ ((∀ v ∈ vals, (win v).isSome = true) → ∃ t, exec .recordIssue s = .next t ∧ (∀ a, t.mb a = s.mb a) ∧ t.atoms = s.atoms ∧ (t.berth b).obuf = B.obuf
          ∧ (∃ l, t.contribs = s.contribs ++ l ∧ l.map (fun c => (c.req.ptr, c.req.y, c.req.pz, some (c.win, c.elem)))
              = vals.map (fun v => (D.ptr (v.1 * 4), BitVec.ofNat 64 v.2.1, v.2.2, win v)))
          ∧ (t.berth b).head q = some { x with sent := r.sent + recNe r.r }))
      ∧ (s.issueFault b r n = none → q = 2 → B.obuf = [] →
        (r.opn = 4 → s.recWaits b r 2 = false → s.recLost b r = false →
          let p := s.recPublish b r 2; let v := p.engineAged b q; let y := ((p.berth b).head q).getD r; let span := v.sendSpan b y n; let tag := r.r.imm.toNat % 4096
          ∃ t, exec .recordIssue s = .next t ∧ t.mem = p.mem ∧ (∀ j, t.core j = s.core j) ∧ (s.berth b).sameC (t.berth b)
          ∧ t.meets = s.meets ++ [⟨B.ctx, tag, b2n (bitN r.r.imm.toNat 12), v.strBytes b y (v.str b y 1) span.1 span.2, v.readsPoison b y n, b, stackOf b,
              v.lockOf B.ctx tag, false, true, s.ev + 1⟩]
          ∧ ∃ h, (t.berth b).head q = some h ∧ h.idx = r.idx ∧ h.point = n + 1 ∧ h.sent = 1)
        ∧ (∀ j d, r.opn = 6 → handleOf r.r.imm = some (j, d) → let sc := if j = coreOf b then 0 else 2
          s.recWaits b r sc = false → s.recLost b r = false →
          let p := s.recPublish b r sc; let v := p.engineAged b q; let y := ((p.berth b).head q).getD r; let span := v.sendSpan b y n
          ∃ t, exec .recordIssue s = .next t ∧ t.mem = p.mem ∧ (∀ j, t.core j = s.core j) ∧ (s.berth b).sameC (t.berth b)
          ∧ (∃ K, t.rmsgs = s.rmsgs ++ [⟨B.ctx, j, d, v.strBytes b y (v.str b y 1) span.1 span.2, v.readsPoison b y n, b, B.lsl, s.ev + 1, K⟩]
              ∧ AMap.get 0 K r.tid = s.ev + 1)
          ∧ ∃ h, (t.berth b).head q = some h ∧ h.idx = r.idx ∧ h.point = n + 1 ∧ h.sent = 1))
      ∧ (∀ f, s.issueFault b r n = some f → 16 ≤ f.code → f.code < 256 → s.cBusy b = false → B.outLoad = none → B.inHandler = false →
        (∀ va, f.ctxf = false → s.cont = false → (∀ x ∈ B.recs, x.st ≠ .faulted) → s.handler B.ctx = some va → B.cut = false → ∃ t, exec .recordIssue s = .next t
          ∧ (t.berth b).pc = va ∧ (t.berth b).trap.tcause = BitVec.ofNat 64 (f.code + 256 + 2048) ∧ (t.berth b).trap.tpc = B.unitPc
          ∧ (t.berth b).trap.taddr = f.addr ∧ (t.berth b).trap.tval = f.val ∧ (t.berth b).trap.tlane = BitVec.ofNat 64 (65536 * f.slot + f.lane)
          ∧ (t.berth b).cut = true ∧ (t.berth b).g = B.g ∧ (∀ a, t.mb a = s.mb a) ∧ (∀ j, t.core j = s.core j)
          ∧ ∃ x, (t.berth b).head q = some x ∧ x.st = .faulted ∧ x.idx = r.idx ∧ x.point = n)
        ∧ (f.ctxf = true → ∃ t, exec .recordIssue s = .next t ∧ (t.berth b).haltF = true ∧ (t.berth b).cut = true ∧ (t.berth b).pc = B.unitPc
          ∧ (t.berth b).trap.tcause = BitVec.ofNat 64 (f.code + 256) ∧ (t.berth b).trap.taddr = f.addr ∧ (t.berth b).g = B.g ∧ (t.ctx B.ctx).pnd = true
          ∧ (∀ a, t.mb a = s.mb a) ∧ (∀ j, t.core j = s.core j) ∧ ∃ x, (t.berth b).head q = some x ∧ x.st = .faulted ∧ x.idx = r.idx ∧ x.point = n)))
    ∧ (r.st = .started → (r.live = false ∨ (r.sent = 0 ∧ (r.skip = true ∨ recIssues r.r ≤ r.point))) → r.pushes = [] →
      (∀ k < 4, r.onRing k = false) → (∀ k < 4, r.boundAt k = none) → r.r.ctl.toNat.testBit 19 = false → ¬ (q = 2 ∧ r.opn = 5) → r.joinAtEnd = false →
      ∃ t, exec .recordRetire s = .next t ∧ B.sameC (t.berth b) ∧ (∀ a, t.mb a = s.mb a) ∧ (t.berth b).recs.length = B.recs.length
        ∧ (t.berth b).qsn = B.qsn.modify q (· + 1)
        ∧ ∃ x ∈ (t.berth b).recs, x.q = q ∧ x.idx = r.idx ∧ x.st = .retired ∧ x.wr = r.wr))
  ∧ (∀ (u : State) (b n : Nat) (r : QRec), CopyIssue u b n r ∧ VectorIssue u b n r ∧ ReduceIssue u b n r ∧ BlockIssue u b n r ∧ SdfIssue u b n r ∧ WritesLaid u b r)
  ∧ ∀ ps sA sB, SegmentLaw ps sA sB

/-- R54, R183, R191, R193, R195, R198, R199, R202, R220, R222, R225, R280, R309: a wait that is over ends, and the instruction issues again; one that is not goes
on; when a wait of each kind is over (a `racq` outside a replay; log entries 52 and 119 are choices of the model here). -/
def Obligations.WaitsEnd : Prop :=
  (∀ s : State, let b := s.arg.b; let B := s.berth b; B.st = .wait → s.dueBars B.ctx = [] →
    (s.waitOver b = true → B.sw.asked = false → ∃ t, exec .waitSatisfied s = .next t ∧ t = { s with berths := t.berths }
      ∧ (∃ k, t.berth b = { B with st := .run, waiting := k } ∧ (k = .none ∨ ∃ c d, B.waiting = .racq c d ∧ k = .racq c d)) ∧ ∀ c, c ≠ b → t.berth c = s.berth c)
    ∧ (s.waitOver b = false → exec .waitSatisfied s = .next s))
  ∧ (∀ (s : State) (b : Nat), let B := s.berth b; let l := s.launchOf b; let ends := s.waitOver b = true; let K := s.core (coreOf b)
    (B.waiting = .none → ends)
    ∧ (∀ f, B.waiting = .tokp f → (ends ↔ (B.fifo f).done.length < 15))
    ∧ (∀ f, B.waiting = .tokw f → (l.det = false → (ends ↔ (B.fifo f).done ≠ [] ∧ ¬ ((B.fifo f).done.length = 1 ∧ B.recordPops false f = true)))
      ∧ (l.det = true → (ends ↔ ∃ x ∈ (B.fifo f).done, x.1 = (B.fifo f).npop)))
    ∧ (∀ k x, B.waiting = .qwait k x → (ends ↔ (2 ^ 32 + (B.qsn.getD k 0).toNat - x % 2 ^ 32) % 2 ^ 32 < 2 ^ 31))
    ∧ (B.waiting = .qdrain → (ends ↔ ∀ r ∈ B.recs, r.st = .retired))
    ∧ (∀ c d, let R := (s.core c).ring d; B.waiting = .racq c d → l.follows = false →
        (ends ↔ ringEn R.desc = false ∨ R.used + s.asksAhead c d (4 * (b % 2)) < ringN R.desc))
    ∧ (∀ c d, let R := (s.core c).ring d; B.waiting = .rwait c d → (ends ↔ ringEn R.desc = false ∨ R.isFull R.head = true))
    ∧ (∀ i x, let n := (2 ^ 32 + (s.bar B.ctx (barId i (coreOf b))).phase - x % 2 ^ 32) % 2 ^ 32; B.waiting = .barw i x → (ends ↔ 1 ≤ n ∧ n < 2 ^ 31))
    ∧ (B.waiting = .waitpv → (ends ↔ s.predRuns B.ctx B.lsl = false))
    ∧ (B.waiting = .reply → (ends ↔ B.answer ≠ none ∨ (s.busyReq b = false ∧ s.batchOut b = false)))
    ∧ (∀ i, B.waiting = .tagfr i → (ends ↔ ∀ o ∈ s.mouts, o.ctx = B.ctx → o.tag = i → o.orphan = true))
    ∧ (B.waiting = .sege → (ends ↔ ∀ r ∈ B.recs, r.inSeg = true → r.st = .retired))
    ∧ (∀ i, let T := AMap.get RawTag.zero K.raw i; B.waiting = .raw i → (ends ↔ B.answer ≠ none ∨ ¬ (T.busy = true ∧ T.berth = b ∧ T.mine = true)))
    ∧ (B.waiting = .rawio → (ends ↔ (∀ p ∈ B.pend, bitN p.1 45 = true → s.paDead p.1 = false) ∧ ∀ x ∈ K.raw, x.2.busy = true → x.2.berth ≠ b))
    ∧ (∀ sc, B.waiting = .home sc → (ends ↔ (∃ p ∈ B.pend, s.paFenced p.1 = true) ∨ ∀ p ∈ B.pend, s.goesAt sc p.1 = true → s.paDead p.1 = false))
    ∧ (∀ n, B.waiting = .win n → (ends ↔ (AMap.get Window.zero (s.ctx B.ctx).wins n).closing = none))
    ∧ (B.waiting = .log → (ends ↔ l.rpl = true ∨ l.det = false ∨ lowI ((l.log.k : Int) - (s.lcnt B.ctx B.lsl : Nat)) 64 < l.logCap)))

/-- R33, R49, R69, R280, R281, R283, R284 (what counts as a free berth when a task is asked for, where a retired strand's host stores go, and how the last grants
compare are the model's choices, log entries 97, 52, 37): placing a strand, in a FREE berth or in that of one that is retired; zeroing its core; the state that the
scheduler keeps of a stage; the reports of the completion tree's nodes. -/
def Obligations.Scheduling : Prop :=
  (∀ (s : State) (b : Nat), let n := s.arg.ctx; let lsl := s.arg.lsl; let i := s.arg.stg
    s.wants n lsl i = true → s.serves n s.arg.stk = true → s.bestBerth n lsl i = some b → stackOf b = s.arg.stk →
    (∀ x ∈ s.stages, x ≠ (n, lsl, i) → (s.wants x.1 x.2.1 x.2.2 = true ∨ (s.startsNow x.1 x.2.1 x.2.2 = true ∧ (x.1, x.2.1) ≠ (n, lsl))) →
      s.couldTake x.1 x.2.1 x.2.2 b = true → s.beats x (n, lsl, i) = false) →
    (∀ x ∈ s.parked, bankOf x.2.2.2 ≠ some b) →
    ∃ t, exec .strandPlacement s = .next t ∧ BerthIs s t b
      { (s.berth b).empty with st := .place, ctx := n, lsl := lsl, stage := i, lastOcc := some n, tid := threadOf b s.ev 0,
                               profAt := if (s.berth b).lastOcc = some n then (s.berth b).profAt else s.ev,
                               awaited := if (s.berth b).lastOcc = some n then (s.berth b).awaited else [] })
  ∧ (∀ (s : State) (v : Nat), let n := s.arg.ctx; let lsl := s.arg.lsl; let i := s.arg.stg; let V := s.berth v
    s.wants n lsl i = true → s.serves n s.arg.stk = true → s.bestBerth n lsl i = none → s.retiree n lsl i = some v → stackOf v = s.arg.stk →
    (s.retire v).rivalFor (n, lsl, i) v = false →
    V.st = .idle ∧ V.gang = none ∧ V.dbg.stp = false ∧ (s.launchOf v).smin V.stage < (s.strands V.ctx V.lsl V.stage).length
      ∧ (s.launchOf v).eff V.stage < (s.launch n lsl).eff i ∧ s.anyFree n lsl = false
      ∧ ∃ t, exec .strandPlacement s = .next t ∧ (t.berth v).st = .place ∧ (t.berth v).ctx = n ∧ (t.berth v).lsl = lsl ∧ (t.berth v).stage = i
        ∧ (t.berth v).hasTask = false ∧ (t.berth v).lastOcc = some n ∧ (∀ c, c ≠ v → t.berth c = s.berth c) ∧ ∀ a, t.mb a = s.mb a)
  ∧ (∀ (s : State) (n lsl i b : Nat), s.bestBerth n lsl i = some b → b < 32 * s.shape.pkg ∧ s.couldTake n lsl i b = true
    ∧ ∀ c < 32 * s.shape.pkg, s.couldTake n lsl i c = true → s.placeKey n lsl i b ≤ s.placeKey n lsl i c)
  ∧ (∀ s : State, let b := s.arg.b; let B := s.berth b; let K := s.core (coreOf b); B.st = .place →
    (K.held = some B.ctx → ∃ t, exec .placeZeroingDone s = .next t ∧ BerthIs s t b { B with st := .idle })
    ∧ (K.held ≠ some B.ctx → (∀ x ∈ s.parked, coreOf x.2.1 ≠ coreOf b) → ∃ t, exec .placeZeroingDone s = .next t ∧ t = { s with berths := t.berths, cores := t.cores }
      ∧ t.berth b = { B with st := .idle } ∧ (∀ c, c ≠ b → t.berth c = s.berth c) ∧ (∀ c, c ≠ coreOf b → t.core c = s.core c)
      ∧ (t.core (coreOf b)).held = some B.ctx ∧ (∀ x, t.spAt (coreOf b) x = 0) ∧ (∀ x, t.accAt (coreOf b) x = 0)
      ∧ (∀ d, (t.core (coreOf b)).ring d = Ring.zero) ∧ (∀ k, (t.core (coreOf b)).pq k = Pq.zero) ∧ (t.core (coreOf b)).mcb = 0))
  ∧ (∀ s : State, let n := s.arg.ctx; let lsl := s.arg.lsl; let i := s.arg.stg; let l := s.launch n lsl; let q := l.stage i; l.st = .running →
    ((l.nextTask i).isSome = true → ∃ t, exec .stageAgeTick s = .next t ∧ StageIs s t n lsl i { q with age := min 15 (q.age + 1) })
    ∧ (∀ b ∈ s.ctxBerths n, i < l.nst → stackOf b = s.arg.stk → (s.berth b).st = .idle → (s.berth b).lsl = lsl → q.owner ≠ s.arg.stk →
        q.reqs.contains s.arg.stk = false → s.serves n s.arg.stk = true → s.controlAhead s.arg.stk q.owner (s.ev + 1) = false → ∃ t, exec .taskRequest s = .next t
        ∧ StageIs s t n lsl i { q with reqs := q.reqs ++ [s.arg.stk] })
    ∧ (∃ t, exec .completionReport s = .next t ∧ t = { s with ctxs := t.ctxs }
        ∧ LaunchIs s t n lsl { l with shares := (t.launch n lsl).shares, quads := (t.launch n lsl).quads }
        ∧ ∀ k, (t.launch n lsl).shares.testBit k = (if s.arg.flag = true ∧ k = s.arg.stk then decide (s.stackCount n lsl k ≠ 0) else l.shares.testBit k)
          ∧ (t.launch n lsl).quads.testBit k = (if s.arg.flag = false ∧ k = 4 * s.arg.stk + s.arg.q % 4
              then decide (s.quadCount n lsl s.arg.stk (s.arg.q % 4) ≠ 0) else l.quads.testBit k)))

/-- R35, R41–R43, R178, R362 (that what happened before the commit happens before the task is the model's choice, log entry 103): a task is granted to an idle strand, and the state in which it starts (outside deterministic mode, R305). -/
def Obligations.TaskStart : Prop :=
  ∀ (s : State) (j : Nat) (bs : List Byte), let b := s.arg.b; let n := s.arg.ctx; let lsl := s.arg.lsl; let i := s.arg.stg
    let l := s.launch n lsl; let k := j % l.cap i; let h := l.handle i j; let q := l.stage i; let T := l.slotOf i j
    s.canDispatch b n lsl i = true → l.det = false → s.nextGrant n lsl i = some j → s.readVA n (l.qbase i + 64 * k) 64 = .ok bs →
    s.untraced n → q.head ≤ j ∧ j < q.tail ∧ T.committed = true ∧ T.granted = false ∧ (T.unread = false → T.cnt = 0)
      ∧ (∀ m, q.head ≤ m → m < j → (l.slotOf i m).eligible = false)
      ∧ (stackOf b = q.owner ∨ q.reqs.find? (s.asks n lsl i) = some (stackOf b))
      ∧ (T.unread = true → T.cnt < leNat bs % 2 ^ 16 → ∃ t, exec .taskDispatch s = .next t ∧ t.berths = s.berths ∧ t.mem = s.mem
        ∧ AMap.get TaskSlot.zero ((t.launch n lsl).stage i).slots k = { T with cnt := leNat bs % 2 ^ 16 - T.cnt, unread := false })
      ∧ ((T.unread = true → leNat bs % 2 ^ 16 ≤ T.cnt) → ∃ t, exec .taskDispatch s = .next t ∧ (t.berth b).st = .run ∧ (t.berth b).hasTask = true ∧ (t.berth b).stage = i
        ∧ (t.berth b).handle = BitVec.ofNat 32 h ∧ (t.berth b).pc = BitVec.ofNat 64 (l.entry i) ∧ (t.berth b).getG 0 = 0
        ∧ (∀ x, 1 ≤ x → x ≤ 7 → (t.berth b).getG (BitVec.ofNat 6 x) = BitVec.ofNat 64 (leNat bs / 2 ^ (64 * x)))
        ∧ (t.berth b).getG 8 = BitVec.ofNat 64 h ∧ (t.berth b).getG 9 = BitVec.ofNat 64 (l.rcd / 2 ^ 640)
        ∧ (∀ x, 10 ≤ x → x ≤ 63 → (t.berth b).getG (BitVec.ofNat 6 x) = 0) ∧ (∀ x, (t.berth b).getP x = decide (x = 0))
        ∧ (∀ x, (t.berth b).getS x = 0) ∧ (∀ x, (t.berth b).getQ x = 0)
        ∧ (t.berth b).rngk = mix64 (BitVec.ofNat 64 (2 ^ 32 * l.seq + h)) ∧ (t.berth b).rngc = 0 ∧ (t.berth b).trap.tcause = 0
        ∧ (t.berth b).trap.tscr = 0 ∧ (t.berth b).clk = AMap.put ((s.berth b).clk.both (l.slotOf i j).clk) 0 (s.ev + 1) ∧ (t.berth b).recs = [] ∧ (t.berth b).seg.isOpen = false ∧ (∀ c, c ≠ b → t.berth c = s.berth c)
        ∧ (∀ a, t.mb a = s.mb a)
        ∧ AMap.get TaskSlot.zero ((t.launch n lsl).stage i).slots k = { AMap.get TaskSlot.zero q.slots k with granted := true }
        ∧ ((t.launch n lsl).stage i).age = 0 ∧ ((t.launch n lsl).stage i).lastGrant = s.ev
        ∧ ((s.berth b).dbg.due ≠ 0 → (t.berth b).dbg.stp = true ∧ (t.berth b).cut = true))

/-- R36–R39, R52, R54, R318, R371, R404: a launch is accepted or refused, and starts once its strands have their berths (outside deterministic mode,
R305), or is considered anew when a change of view has made its level or its stacks wrong; `sms` marks it and `waitpv` waits for the one before it. -/
def Obligations.LaunchStarts : Prop :=
  (∀ (s : State) (l : Launch), let n := s.arg.ctx; let c := s.ctx n; c.launches = [l] → l.st = .queued → l.rdnC = none → s.mayStart n l = true →
    c.skipLvl = false → c.rdnRes = none →
    (s.refusal n l = none → ∀ m, s.openStages n l l.nst = .ok m → ∃ t, exec .launchStart s = .next t
      ∧ CtxIs s t n { c with launches := [{ l with st := .waitBerths, stks := s.runsOn l, stages := m, early := false, order := s.ev }] })
    ∧ (∀ code, s.refusal n l = some code → bitN c.flt.toNat 0 = false → ∃ t, exec .launchStart s = .next t ∧ t.berths = s.berths ∧ t.mem = s.mem
      ∧ (t.ctx n).svd = true ∧ (t.ctx n).stopFetch = true ∧ (t.ctx n).launches = [{ l with st := .refused }]
      ∧ (t.ctx n).flt = BitVec.ofNat 64 (2 ^ 32 * (l.seq % 2 ^ 32) + 2 ^ 16 * 0xFF + 2 ^ 8 * code + 5)
      ∧ (bitN c.fltm.toNat 11 = true → AMap.get false t.msixP (c.fltm.toNat % 2 ^ 11) = true)))
  ∧ (∀ (s u : State) (l : Launch), let n := s.arg.ctx; let c := s.ctx n; c.launches = [l] → l.st = .waitBerths → l.det = false → l.early = false →
    s.drn = false → c.pnd = false → c.frozen = false → c.rdnRes = none →
    (s.stillRight n l = true → s.placeMins n (l.seq % 2) = some u →
      ∃ t, exec .launchStart s = .next t ∧ t.berths = u.berths ∧ t.mem = u.mem ∧ ((u.ctx n).launches = [l] → (t.launch n (l.seq % 2)).st = .running))
    ∧ (s.stillRight n l = true → s.placeMins n (l.seq % 2) = none → exec .launchStart s = .next s)
    ∧ (s.stillRight n l = false → ∃ t, exec .launchStart s = .next t ∧ CtxIs s t n { c with launches := [{ l with st := .queued }] }))
  ∧ (∀ (s : State) (p l : Launch), let n := s.arg.ctx; let c := s.ctx n; c.launches = [p, l] → p.st = .running → l.rdnC = none → c.rdnRes = none →
    (l.st = .queued → c.skipLvl = false →
      (s.mayStart n l = true ↔ s.vnum ≠ 0 ∧ s.drn = false ∧ c.pnd = false ∧ c.frozen = false ∧ c.rdnWait = none ∧ p.sms = true ∧ l.f 79 1 = 1
        ∧ p.seq % 2 ≠ l.seq % 2 ∧ s.pairRuns n p.seq = false)
      ∧ (s.mayStart n l = false → exec .launchStart s = .next s)
      ∧ (s.mayStart n l = true → s.refusal n l = none → ∀ m, s.openStages n l l.nst = .ok m → ∃ t, exec .launchStart s = .next t
        ∧ CtxIs s t n { c with launches := [p, { l with st := .waitBerths, stks := s.runsOn l, stages := m, early := true, order := s.ev }] }))
    ∧ (l.st = .waitBerths → l.early = true → l.det = false → p.seq % 2 ≠ l.seq % 2 → s.stillRight n l = true →
        (∃ i < 8, s.wants n (1 - l.seq % 2) i = true) → exec .launchStart s = .next s))
  ∧ (∀ s : State, let l := s.myLaunch; l.resident = true →
    ∃ t, exec .sms s = .next t ∧ Passed s t 4 ∧ s.me.sameRegs t.me ∧ (∀ a, t.mb a = s.mb a) ∧ LaunchIs s t s.myCtx s.me.lsl { l with sms := true })
  ∧ (∀ s : State, let u := s.writeback s.cur
    (u.predRuns u.myCtx u.me.lsl = false → ∃ t, exec .waitpv s = .next t ∧ EndsWith u t { u.me with clk := u.acquired u.me (u.pastOf u.myCtx) } (u.me.pc + 4))
    ∧ (u.predRuns u.myCtx u.me.lsl = true → ∃ t, exec .waitpv s = .next t ∧ Waits u t .waitpv))

/-- R51, R56, R331–R333: the launch queue is written, kicked and fetched from, and a launch whose node counts zero completes (outside
deterministic mode, R305; in a context without redundant pairs). -/
def Obligations.LaunchQueue : Prop :=
  (∀ s : State, let n := s.arg.ctx; let c := s.ctx n; let v := s.arg.v.toNat; s.windows = true →
    (c.launches = [] → 1 ≤ v % 16 → v % 16 ≤ 12 → ∃ t, exec .lqCfgWrite s = .next t ∧ CtxIs s t n
      { c with lqCfg := BitVec.ofNat 64 (2 ^ 32 * (v / 2 ^ 32) + 2 ^ 8 * (v / 2 ^ 8 % 2) + v % 16), fetched := v / 2 ^ 32,
               completed := v / 2 ^ 32, skipLvl := false, rdnSeen := [] })
    ∧ (c.lqCfg.getLsbD 8 = true → v % 2 ^ 32 ≠ c.kicked → lowI ((v % 2 ^ 32 : Nat) - (c.fetched : Int)) 32 ≤ 2 ^ (c.lqCfg.toNat % 16) →
      (c.fetching = true ∨ c.stopFetch = true → ∃ t, exec .lqKick s = .next t ∧ CtxIs s t n { c with kicked := v % 2 ^ 32 })
      ∧ (∀ bs, let q := (c.fetched + 1) % 2 ^ 32; c.fetching = false → c.stopFetch = false → v % 2 ^ 32 = q →
        s.readVA n (512 * fld c.lqBase.toNat 9 41 + 512 * (q % 2 ^ (c.lqCfg.toNat % 16))) 384 = .ok bs → leNat bs / 2 ^ 32 % 2 ^ 32 = q →
        chkOk bs = true → ∃ t, exec .lqKick s = .next t ∧ CtxIs s t n
          { c with kicked := q, fetched := q, tries := 0, launches := c.launches ++ [{ Launch.none with rcd := leNat bs }] })))
  ∧ (∀ (s : State) (bs : List Byte), let n := s.arg.ctx; let c := s.ctx n; let q := (c.fetched + 1) % 2 ^ 32
    c.fetching = true → c.stopFetch = false → c.kicked = q → 1 ≤ c.lqCfg.toNat % 16 →
    s.readVA n (512 * fld c.lqBase.toNat 9 41 + 512 * (q % 2 ^ (c.lqCfg.toNat % 16))) 384 = .ok bs →
    (leNat bs / 2 ^ 32 % 2 ^ 32 = q → chkOk bs = true → ∃ t, exec .launchFetchRetry s = .next t ∧ CtxIs s t n
      { c with fetching := false, fetched := q, tries := 0, launches := c.launches ++ [{ Launch.none with rcd := leNat bs }] })
    ∧ ((leNat bs / 2 ^ 32 % 2 ^ 32 ≠ q ∨ chkOk bs = false) → c.tries < 8 → ∃ t, exec .launchFetchRetry s = .next t
      ∧ CtxIs s t n { c with tries := c.tries + 1 }))
  ∧ (∀ (s u : State), let n := s.arg.ctx; let lsl := s.arg.lsl; let c := s.ctx n; let l := s.launch n lsl
    l.st = .running → s.nodeZero n lsl = true → c.pnd = false → c.frozen = false → l.det = false → s.dueBars n = [] → c.rdn = 0 → l.rdnC = none →
    l.recovery = false → (∀ b ∈ s.ctxBerths n, (s.berth b).lsl = lsl → (s.berth b).st ≠ .place) →
    (s.publishLaunch l ((s.ctxBerths n).filter (fun b => (s.berth b).lsl == lsl))).writeVA2 n (l.rcd / 2 ^ 512 % 2 ^ 64)
      (leBytes (l.seq + (if c.cki &&& 0x9B = 0 then 0 else 2 ^ 32)) 8) = .ok u →
    ∃ t, exec .launchComplete s = .next t ∧ (∀ a, t.mb a = u.mb a) ∧ (t.ctx n).completed = l.seq
      ∧ (t.ctx n).launches = c.launches.filter (fun x => !(x.resident && x.seq % 2 == lsl))
      ∧ (l.rcd.testBit 591 = true → AMap.get false t.msixP (l.rcd / 2 ^ 576 % 2 ^ 11) = true)
      ∧ (∀ b ∈ s.ctxBerths n, (s.berth b).lsl = lsl → (t.berth b).st = .free ∧ (t.berth b).hasTask = false ∧ (t.berth b).qsn = (s.berth b).qsn)
      ∧ ∀ b, b ∉ s.ctxBerths n → (t.berth b).g = (s.berth b).g)

/-- R223, R288–R294, R300, R373 (that the save is one event, what is parked and where, and what the kept copy holds are the model's choices, log entries 65,
13, 21): a pre-emption is asked for, reaches the strands at their switch points, and the context is saved and goes on. -/
def Obligations.Preemption : Prop :=
  (∀ s : State, let n := s.arg.ctx; let c := s.ctx n; s.windows = true →
    (c.pnd = false → c.svd = false → c.resuming = false → ∃ t, exec .preemptPre s = .next t
      ∧ CtxIs s t n { c with pnd := true, arrivedStk := 0, cfault := false })
    ∧ (c.svd = true → c.svdOpen = false → c.resuming = false → (bitN c.flt.toNat 0 = false ∨ bitN c.flt.toNat 2 = false) →
      (∀ b ∈ c.savedBerths, s.corePresent (coreOf b) = true) → ∃ t, exec .preemptRes s = .next t ∧ CtxIs s t n { c with resuming := true, rsd := false })
    ∧ ((∀ x ∈ s.parked, x.1 ≠ n) → exec .preemptFls s = .next s)
    ∧ (∀ b j e u v, s.parked.filter (fun x => x.1 == n) = [(n, b, j, e)] → c.savedState ≠ [] → s.writeVA2 n (c.strandVa b + 0x100 + 8 * j) (leBytes (s.parkedValue b e).toNat 8) = .ok u →
      u.writeVA2 n (c.strandVa b + 0x580 + 8 * j) (leBytes inMemory.toNat 8) = .ok v → ∃ t, exec .preemptFls s = .next t ∧ t.mem = v.mem
        ∧ ∀ x ∈ (t.ctx n).savedState, x.1 = b → AMap.get 0 x.2.spill j = inMemory))
  ∧ (∀ s : State, let n := s.arg.ctx; let c := s.ctx n; let k := s.arg.stk; c.pnd = true → bitN c.arrivedStk k = false → s.up k = true →
    (∀ b ∈ s.heldBerths n, stackOf b ≠ k ∧ (s.berth b).sw.asked = false) → (∀ b ∈ s.ctxBerths n, s.gangWait b = none) →
    ∃ t, exec .preemptRequestArrive s = .next t ∧ CtxIs s t n { c with arrivedStk := setBitN c.arrivedStk k true })
  ∧ (∀ (s : State) (b : Nat), let n := s.arg.ctx; let c := s.ctx n; let k := s.arg.stk; let B := s.berth b
    c.pnd = true → bitN c.arrivedStk k = false → s.up k = true → s.berthsInOrder → s.heldBerths n = [b] → stackOf b = k → s.untraced n → B.outLoad = none →
    s.gangWait b = none → B.pq = none → s.cBusy b = false →
    ((B.st = .idle ∨ B.st = .wait ∨ (B.st = .run ∧ (B.haltF = true ∨ B.dbg.stp = true ∨ c.pbnd.toNat % 2 ^ 32 = 0))) →
      ∃ t, exec .preemptRequestArrive s = .next t ∧ (t.berth b).st = .save ∧ (t.berth b).pc = B.unitPc ∧ (t.berth b).cut = true
        ∧ (t.berth b).sw.before = B.st ∧ (t.berth b).sw.live = none ∧ B.sameRegs (t.berth b) ∧ ∀ x, x ≠ b → t.berth x = s.berth x)
    ∧ (B.st = .run → B.haltF = false → B.dbg.stp = false → c.cfault = false → c.pbnd.toNat % 2 ^ 32 ≠ 0 →
      ∃ t, exec .preemptRequestArrive s = .next t ∧ t.berth b = { B with sw := { B.sw with asked := true, hintOver := false } }
        ∧ ∀ x, x ≠ b → t.berth x = s.berth x))
  ∧ (∀ s : State, let b := s.arg.b; let B := s.berth b; s.berthsInOrder → s.heldBerths B.ctx = [b] → B.st = .run → B.sw.asked = true → s.untraced B.ctx →
    B.outLoad = none → B.pq = none → s.cBusy b = false → s.up (stackOf b) = true →
    ∃ t, exec .preemptHintBoundExpiry s = .next t ∧ (t.berth b).st = .save ∧ (t.berth b).pc = B.unitPc ∧ (t.berth b).cut = true
      ∧ B.sameRegs (t.berth b) ∧ ∀ x, x ≠ b → t.berth x = s.berth x)
  ∧ (∀ s : State, let u := s.writeback s.cur
    (u.me.sw.asked = false → ∃ t, exec .plive s = .next t ∧ NoEffect u t 8)
    ∧ (∀ m, u.me.sw.asked = true → u.untraced u.myCtx → u.me.outLoad = none →
      u.liveMap u.myCtx u.me.unitPc.toNat u.imm32.toNat = some m → ∃ t, exec .plive s = .next t ∧ t.me.st = .save ∧ t.me.pc = u.me.pc + 8
      ∧ t.me.cut = true ∧ t.me.sw.before = u.me.st ∧ t.me.sw.live = some (u.imm32.toNat, m) ∧ u.me.sameRegs t.me))
  ∧ (∀ (s u v : State), let n := s.arg.ctx; let c := s.ctx n; c.pnd = true → u = s.switchAll n → u.canSave n = true → c.pendFault = none →
    (((u.heldBerths n).foldl (fun x b => x.drainStores b) (u.updCtx n (fun c => { c with savedBerths := u.heldBerths n }))).spillMaps (u.heldBerths n)
      s.arg.v s.arg.flag).saveMem n (u.heldBerths n) = .ok (some v) →
    ∃ t, exec .contextSaveComplete s = .next t ∧ (t.ctx n).svd = true ∧ (t.ctx n).pnd = false ∧ t.mem = v.mem
      ∧ (∀ b ∈ u.heldBerths n, (t.berth b).st = .free) ∧ (t.ctx n).savedBerths = u.heldBerths n
      ∧ ∀ l ∈ (t.ctx n).launches, l.st ≠ .running)
  ∧ (∀ s u v w : State, let n := s.arg.ctx; let c := s.ctx n; c.resuming = true → s.drn = false → s.windowRoom n = true →
    (∀ b ∈ c.savedBerths, (s.berth b).st = .restore ∧ (s.berth b).ctx = n ∧ s.corePresent (coreOf b) = true) →
    eachOk c.savedCores s (fun s x => s.loadCore n x.1 x.2) = .ok u → u.loadContext n = .ok v → eachOk c.savedState v (fun s x => s.loadStrand n x.1 x.2) = .ok w →
    w.dueBars n = [] → (w.ctx n).kicked = (w.ctx n).fetched →
    ∃ t, exec .resumeComplete s = .next t ∧ t.mem = s.mem ∧ (∀ b, t.berth b = w.berth b) ∧ (∀ k, t.core k = w.core k) ∧ (t.ctx n).resuming = false
      ∧ (t.ctx n).svd = false ∧ (t.ctx n).rsd = true ∧ (t.ctx n).savedBerths = []
      ∧ (t.ctx n).launches = (w.ctx n).launches.map (fun l => if l.st = .saved then { l with st := .running } else l))
  ∧ (∀ (s : State) (b : Nat) (B : Berth) (m : Mem) (n : Nat), let w := fun (off : Nat) => BitVec.ofNat 64 (memNat m off 8)
    s.loadRange n ((s.ctx n).strandVa b) 0 0x2000 2 = .ok m → ∃ t, s.loadStrand n b B = .ok t ∧ t.mem = s.mem ∧ (∀ c, c ≠ b → t.berth c = s.berth c)
      ∧ (t.berth b).pc = w 0 ∧ (t.berth b).rngk = w 0x18 ∧ (t.berth b).rngc = w 0x20 ∧ (t.berth b).pfx = none ∧ (t.berth b).getG 0 = 0
      ∧ (∀ j : BitVec 6, j ≠ 0 → (t.berth b).getG j = if bitN (w (0x580 + 8 * j.toNat)).toNat 63 then w (0x100 + 8 * j.toNat) else 0)
      ∧ (B.trapped = true → ∀ k < 15, (t.berth b).trap.reg k = w (0x780 + 8 * k)) ∧ (B.trapped = false → (t.berth b).trap = B.trap)
      ∧ (t.berth b).dbg.stp = bitN (w 0x70).toNat 1 ∧ (t.berth b).dbg.err = bitN (w 0x70).toNat 3 ∧ (t.berth b).preds.toNat % 256 = (memNat m 0x10 8) % 256 / 2 * 2 + 1)

/-- R216–R219, R244, R263, R407–R410: operands meet, results, orphans, `s.ring` bytes and `l.mc` images are delivered (outside deterministic
mode, R305). Where an `l.mc` lands when its receiver has changed since the issue is the model's choice (log entry 100). -/
def Obligations.Deliveries : Prop :=
  (∀ (s : State) (m : MeetMsg), let T := s.tag m.ctx m.tag; let k := s.arg.k
    s.meets[k]? = some m → (∀ x ∈ s.meets.take k, x.stk = m.stk → x.lock = m.lock → (s.meetGate x).held = true) → s.meetClassAhead m.stk m.lock m.iss = false →
    T.alloc = true → (s.launchOf m.berth).det = false → m.side = 0 →
    m.pz = false →
    (∀ o r, T.q1 = o :: r → o.lock = m.lock → o.stored = true → o.spilled = none → o.pz = false → s.heldAt m.lock = [] → ∃ t, exec .meetOperandArrive s = .next t
      ∧ t.meets = s.meets.eraseIdx k ∧ t.mouts = s.mouts ++ [⟨m.ctx, m.tag, T.combine m.data o.data, false, false, T.n0, m.lock, s.ev + 1⟩]
      ∧ t.tag m.ctx m.tag = { T with n0 := T.n0 + 1, q1 := r } ∧ t.mem = s.mem
      ∧ (t.stack m.lock).meetSlots = (s.stack m.lock).meetSlots - 1)
    ∧ ((∀ o ∈ T.q1, o.lock ≠ m.lock) → (s.stack m.lock).meetSlots < 512 → ∃ t, exec .meetOperandArrive s = .next t
      ∧ t.meets = s.meets.eraseIdx k ∧ t.mouts = s.mouts ∧ t.mem = s.mem ∧ (t.stack m.lock).meetSlots = (s.stack m.lock).meetSlots + 1
      ∧ t.tag m.ctx m.tag = { T with n0 := T.n0 + 1, q0 := T.q0 ++ [⟨T.n0, m.data, false, m.berth, none, true, m.lock, s.ev⟩] }))
  ∧ (∀ (u : State) (k n i side : Nat) (o : MeetOp), u.heldLongest k = some (n, i, side, o) → let t := u.storeSlotFreed k
    (t.stack k).meetSlots = (u.stack k).meetSlots ∧ t.tag n i = (u.tag n i).setOp side o.pos (fun o => { o with stored := true })
      ∧ (n, i, side, o) ∈ u.heldAt k ∧ ∀ x ∈ u.heldAt k, o.since ≤ x.2.2.2.since)
  ∧ (∀ (t : Tag) (x y : List Byte), t.op = 3 → t.combine x y = x ++ y)
  ∧ (∀ (s u : State) (o : MeetOut), let k := s.arg.k; let T := s.tag o.ctx o.tag; s.mouts[k]? = some o → (s.ctx o.ctx).pendFault = none →
    (s.ctx o.ctx).frozen = false → o.orphan = false → T.dring = false → T.ben = false → o.pz = false →
    (∀ x ∈ s.mouts.take k, x.stk = o.stk → s.goesTo x = s.goesTo o → s.outWaits x = true ∧ s.sameRing x o = false) →
    s.meetClassAhead o.stk (s.goesTo o) o.iss = false →
    s.writeVAby (State.storeBy (threadOf 0 s.ev 4) o.ctx) o.ctx (fld T.dest.toNat 0 50) o.data 3 = .ok u → ∃ t, exec .meetResultDelivery s = .next t ∧ t.mem = u.mem
      ∧ t.mouts = s.mouts.eraseIdx k ∧ t.tag o.ctx o.tag = { T with delivered := T.delivered + 1 })
  ∧ (∀ (s : State) (o : MeetOp), let n := s.arg.ctx; let i := s.arg.tag; let side := s.arg.side; (s.tag n i).opAt side s.arg.k = some o →
    (o.stored = false → o.spilled = none → (s.stack o.lock).meetSlots < 512 → ∃ t, exec .spillHoldExpiry s = .next t ∧ t.mem = s.mem
      ∧ (t.stack o.lock).meetSlots = (s.stack o.lock).meetSlots + 1
      ∧ t.tag n i = (s.tag n i).setOp side s.arg.k (fun o => { o with stored := true }))
    ∧ (fld (s.ctx n).morph.toNat 48 16 ≠ 0 → (∀ l ∈ (s.ctx n).launches, l.resident = true → l.det = false) →
      (∀ x ∈ s.heldAt o.lock, x = (n, i, side, o)) → ∃ t, exec .orphanTimeout s = .next t
      ∧ t.mem = s.mem ∧ t.mouts = s.mouts ++ [⟨n, i, orphanBytes (s.tag n i) i o.pos o.berth 0 side o.data, o.pz, true, o.berth, o.lock, s.ev + 1⟩]
      ∧ (t.tag n i).opAt (1 - side) 0 = (s.tag n i).opAt (1 - side) 0 ∧ (t.tag n i).alloc = (s.tag n i).alloc))
  ∧ (∀ (s : State) (m : RingMsg), let k := s.arg.k; let r := (s.core m.core).ring m.desc; s.rmsgs[k]? = some m →
    (∀ x ∈ s.rmsgs.take k, stackOf x.berth = stackOf m.berth → x.core / 16 = m.core / 16 →
      (stackOf m.berth ≠ m.core / 16 → s.ringFull x.core x.desc = true ∧ ¬ (x.core = m.core ∧ x.desc = m.desc))
        ∧ (stackOf m.berth = m.core / 16 → ¬ (x.core = m.core ∧ x.desc = m.desc ∧ x.berth = m.berth))) →
    s.meetClassAhead (stackOf m.berth) (m.core / 16) m.iss = false → ringEn r.desc = true → (s.core m.core).held = some m.ctx →
    m.data.length ≤ ringSz r.desc → r.used < ringN r.desc → (s.launch m.ctx m.lsl).det = false → ∃ t, exec .ringDelivery s = .next t
      ∧ t.rmsgs = s.rmsgs.eraseIdx k ∧ t.mem = s.mem ∧ ((t.core m.core).ring m.desc).isFull r.tail = true
      ∧ ((t.core m.core).ring m.desc).tail = (r.tail + 1) % ringN r.desc ∧ ((t.core m.core).ring m.desc).claimed = r.claimed
      ∧ (∀ x < m.data.length, t.spAt m.core (ringSlot r.desc r.tail + x) = m.data.getD x 0)
      ∧ (∀ x, x < ringSlot r.desc r.tail ∨ ringSlot r.desc r.tail + m.data.length ≤ x → t.spAt m.core x = s.spAt m.core x))
  ∧ (∀ (s : State) (m : McMsg), let k := s.arg.k; let off := (s.core m.core).mcb.toNat + m.lo
    s.mcs[k]? = some m → (∀ x ∈ s.mcs.take k, x.berth = m.berth → x.core ≠ m.core ∧ x.issue ≠ m.issue) →
    ((s.core m.core).held ≠ some m.ctx → ∃ t, exec .multicastDelivery s = .next t ∧ t.mcs = s.mcs.eraseIdx k ∧ t.cores = s.cores ∧ t.mem = s.mem)
    ∧ ((s.core m.core).held = some m.ctx → m.last = false → m.tail = 0 → off + m.data.length ≤ 0x400000 → ∃ t, exec .multicastDelivery s = .next t ∧ t.mcs = s.mcs.eraseIdx k ∧ t.mem = s.mem
      ∧ (∀ x < m.data.length, t.spAt m.core (off + x) = m.data.getD x 0)
      ∧ (∀ x, x < off ∨ off + m.data.length ≤ x → t.spAt m.core x = s.spAt m.core x) ∧ ∀ c, c ≠ m.core → t.core c = s.core c))

/-- R65, R304, R323, R330, R331, R337–R340, R373, R394, R421, R434, R439: what the host writes. What a new report request clears, which states take a debug token,
and what `dsc` ends are the model's choices (log entries 76, 77, 54). -/
def Obligations.HostWrites : Prop :=
  ∀ s : State, let n := s.arg.ctx; let c := s.ctx n; let v := s.arg.v.toNat; let k := s.arg.stk
    (s.windows = true →
      (∃ t, exec .ctxCkiClear s = .next t ∧ CtxIs s t n { c with cki := 0 })
      ∧ (s.dueBars n = [] → ∃ t, exec .ctxLogcWrite s = .next t
        ∧ CtxIs s t n (if s.arg.par = 0 then { c with logc0 := s.arg.v } else { c with logc1 := s.arg.v }))
      ∧ (∃ t, exec .svcTimWrite s = .next t ∧ t = { s with svcTimNew := some (BitVec.ofNat 64 (v % 2 ^ 48)) })
      ∧ (s.shed = 0 → bitN s.live k = true → s.nlive ≠ 1 → s.pendShed = none → exec .svcCtlShed s = .next { s with pendShed := some (false, k), drn := true })
      ∧ (bitN s.shed k = true → (s.stack k).hostShed = true → s.pendShed = none → ∃ t, exec .svcCtlReturn s = .next t
        ∧ t = { s with pendShed := some (true, k), drn := t.drn })
      ∧ (c.svd = true → c.svdOpen = true → c.kicked = c.fetched → ∃ t, exec .ctxFltDsc s = .next t ∧ CtxIs s t n { c with
          svd := false, svdOpen := false, launches := c.launches.filter (fun l => l.st != .refused), flt := BitVec.ofNat 64 (setBitN c.flt.toNat 0 false),
          stopFetch := c.pendFault.isSome, fetching := false, tries := 0 })
      ∧ (c.svd = true → c.svdOpen = false → c.kicked = c.fetched → ∃ t, exec .ctxFltDsc s = .next t ∧ (t.ctx n).svd = false ∧ (t.ctx n).pnd = false
        ∧ bitN (t.ctx n).flt.toNat 0 = false ∧ (t.ctx n).ldiv = 0 ∧ (t.ctx n).stopFetch = false ∧ (t.ctx n).gangs = [] ∧ (t.ctx n).tags = []
        ∧ (t.ctx n).wins = [] ∧ (t.ctx n).launches = c.launches.filter (fun l => l.st == .queued) ∧ (∀ b ∈ s.heldBerths n, (t.berth b).st = .free)
        ∧ ∀ a ∈ t.atoms, a.ctx ≠ n))
    ∧ (s.windows = true → s.arg.flag = false → ∀ m, s.arg.off = 0x10000 * m + 0xE800 → m < 16 → s.heldBerths m = [] → ∃ t, exec .registerWrite s = .next t
      ∧ CtxIs s t m { s.ctx m with ptroot := BitVec.ofNat 64 (2 ^ 20 * (v / 2 ^ 20 % 2 ^ 26)) })
    ∧ (s.windows = true → s.arg.flag = false → ∀ m, s.arg.off = 0x10000 * m + 0xE800 + 0x68 → m < 16 → s.heldBerths m = [] → ∃ t, exec .registerWrite s = .next t
      ∧ CtxIs s t m { s.ctx m with trap := BitVec.ofNat 64 (4 * (v / 4 % 2 ^ 48) + v % 2) })
    ∧ (s.windows = true → s.arg.flag = false → ∀ m, s.arg.off = 0x10000 * m + 0xE000 → m < 16 → ∃ t, exec .registerWrite s = .next t
      ∧ CtxIs s t m { s.ctx m with lqBase := BitVec.ofNat 64 (2 ^ 9 * (v / 2 ^ 9 % 2 ^ 41)) })
    ∧ (s.portUp = true →
      (∃ t, exec .dvPcapWrite s = .next t ∧ t = { s with pcap := t.pcap }
        ∧ ∀ j < 4, fld t.pcap.toNat (16 * j) 16 = if j < s.shape.pkg then min (v / 2 ^ (16 * j) % 2 ^ 16) s.shape.capW else 0)
      ∧ (∃ t, exec .dvEccClear s = .next t ∧ t = { s with stks := t.stks } ∧ ∀ j, t.stack j = { s.stack j with ecc := 0 })
      ∧ (∃ t, exec .dvUccClear s = .next t ∧ t = { s with stks := t.stks } ∧ ∀ j, t.stack j = { s.stack j with ucc := 0 })
      ∧ (s.repBusy = false → s.life ≠ 2 → exec .attestationRequest s = .next { s with repBusy := true, repReady := false })
      ∧ (s.tokenSigned → exec .debugTokenSubmit s
          = .next { s with features := BitVec.ofNat 64 (memNat s.token 64 8 % 64), challenges := s.challenges + 1 })
      ∧ (¬ s.tokenSigned → exec .debugTokenSubmit s = .next s)
      ∧ (s.scrub = none → bitN (AMap.get 0 s.qlist (v % 2 ^ 9)).toNat 63 = true → exec .dvQscrWrite s = .next { s with scrub := some (v % 2 ^ 9) }))
    ∧ (s.repBusy = true → s.life ≠ 2 → ∃ t, exec .attestationReportReady s = .next t ∧ t = { s with repBusy := false, repReady := true, report := t.report }
        ∧ t.report.take 1488 = s.reportBody ∧ t.report.length = 3908)
    ∧ (∀ e, s.scrub = some e → let f := fld (AMap.get 0 s.qlist e).toNat 16 30; bitN (AMap.get 0 s.qlist e).toNat 63 = true →
        s.up (s.home (65536 * f)) = true → ∃ t, exec .quarantineScrubDone s = .next t ∧ t.scrub = none ∧ t.qlist = AMap.set 0 s.qlist e (BitVec.ofNat 64 ((AMap.get 0 s.qlist e).toNat % 2 ^ 63))
        ∧ t = { s with scrub := none, qlist := t.qlist, mem := t.mem, hist := t.hist, poison := t.poison } ∧ (∀ x < 65536, t.mb (65536 * f + x) = 0)
        ∧ ∀ a, a < 65536 * f ∨ 65536 * f + 65536 ≤ a → t.mb a = s.mb a)
    ∧ (s.life < s.arg.n → s.arg.n ≤ 2 → exec .lifeCycleAdvance s
        = .next { s with life := s.arg.n, seed := if s.arg.n = 2 then List.replicate 32 0 else s.seed })

/-- R20, R324, R334–R336, R340, R418–R420, R422, R424, R438–R440: power, boot, links and errors in the stores. View 0 before the first, a power-up for an
unverified stack only, and messages for heartbeats only are the model's choices (log entries 71, 73, 62). -/
def Obligations.PackageEvents : Prop :=
  ∀ s : State, let k := s.arg.stk; let K := s.stack k; let x := s.arg
    (s.unfenced k = true → K.power = false → K.image = [] →
      (K.imageSigned x.img → ∃ t, exec .stackPowerUp s = .next t ∧ t.stack k = { K with power := true, image := sha3 (imageWhole x.img), tst := true,
                                                                                           tested := false, clk := 900 }
        ∧ (∀ j, j ≠ k → t.stack j = s.stack j) ∧ t.live = s.live ∧ t.vnum = s.vnum ∧ t.berths = s.berths ∧ t.mem = s.mem)
      ∧ (¬ K.imageSigned x.img → ∃ t, exec .stackPowerUp s = .next t ∧ t.stack k = { K with fenced := true, tst := false }
        ∧ (∀ j, j ≠ k → t.stack j = if j < s.shape.pkg then (s.stack j).parted j k else s.stack j)
        ∧ fld t.svcSus.toNat 24 4 = k ∧ t.live = s.live ∧ t.berths = s.berths ∧ t.mem = s.mem))
    ∧ (s.takesPart k = true → K.power = true → K.tst = true → k < 4 →
      (x.flag = true → 12 ≤ popN (K.fuseCores &&& x.n) 16 → ∃ t, exec .selfTestComplete s = .next t
        ∧ t.stack k = { K with tst := false, tested := true, present := K.fuseCores &&& x.n } ∧ (∀ j, j ≠ k → t.stack j = s.stack j)
        ∧ (s.vnum = 0 → AMap.find t.props k = some ⟨1, 2 ^ k, 0, 0, 0, 0, 0, false⟩))
      ∧ ((x.flag = false ∨ popN (K.fuseCores &&& x.n) 16 < 12) → ∃ t, exec .selfTestComplete s = .next t ∧ (t.stack k).fenced = true
        ∧ (t.stack k).power = false ∧ (t.stack k).gates = 7 ∧ fld t.svcSus.toNat 24 4 = k
        ∧ ∀ j, j ≠ k → t.stack j = if j < s.shape.pkg then (s.stack j).parted j k else s.stack j))
    ∧ (∃ t, exec .stackPowerLoss s = .next t ∧ StackIs s t k { K with power := false })
    ∧ (K.fenced = true → ∃ t, exec .fencedStackPowerDown s = .next t ∧ StackIs s t k { K with power := false, gates := 7 })
    ∧ (∃ t, exec .powerCapExceeded s = .next t ∧ StackIs s t k { K with withhold := true })
    ∧ (∃ t, exec .powerFallsBelowCap s = .next t ∧ StackIs s t k { K with withhold := false })
    ∧ (s.works k = true → ∃ t, exec .lockstepMismatch s = .next t ∧ (t.stack k).halted = true
        ∧ t.reports = s.reports ++ ((maskList s.live).filter (· != k)).map (fun j => (j, k, k, 0xDD)))
    ∧ (let m := x.msg; let T := s.stack x.dst; let key := 8 * x.src + m.cls; let E := AMap.get 0 T.recv key; let q := m.seq
      (T.halted = true → exec .fabricMessageReceive s = .next s)
      ∧ (s.linked x.src x.dst = true → T.power = true → T.halted = false → E < 65536 →
      ((m.crcOk = false ∨ m.fits x.src x.dst = false) → ∃ t, exec .fabricMessageReceive s = .next t ∧ StackIs s t x.dst { T with lrec := setBitN T.lrec x.src true })
      ∧ (m.crcOk = true → m.fits x.src x.dst = true → m.ack = false → q = E → ∃ t, exec .fabricMessageReceive s = .next t
        ∧ t = { s with stks := t.stks, lacks := s.lacks ++ [(x.dst, x.src, m.cls, E)] }
        ∧ t.stack x.dst = { T with recv := AMap.put T.recv key ((E + 1) % 65536) } ∧ ∀ j, j ≠ x.dst → t.stack j = s.stack j)
      ∧ (m.crcOk = true → m.fits x.src x.dst = true → m.ack = false → q ≠ E → (E + 65536 - q) % 65536 ≤ 32768 → exec .fabricMessageReceive s
          = .next { s with lacks := s.lacks ++ [(x.dst, x.src, m.cls, (E + 65535) % 65536)] })
      ∧ (m.crcOk = true → m.fits x.src x.dst = true → m.ack = false → 32768 < (E + 65536 - q) % 65536 → q ≠ E →
        (bitN T.lrec x.src = true → exec .fabricMessageReceive s = .next s)
        ∧ (bitN T.lrec x.src = false → s.works x.dst = true → ∃ t, exec .fabricMessageReceive s = .next t
          ∧ t.reports = s.reports ++ ((maskList s.live).filter (· != x.dst)).map (fun j => (j, x.dst, x.src, 0xBB)) ∧ t.lacks = s.lacks))))
    ∧ (∀ a b, (x.src, x.dst, x.cls, x.seq) ∈ s.lacks → (s.sender x.dst x.src x.cls).unacked = a ++ x.seq :: b → x.seq ∉ a → (s.stack x.dst).power = true →
        ∃ t, exec .fabricAckReceive s = .next t ∧ (t.sender x.dst x.src x.cls).unacked = b ∧ t.lacks = s.lacks.erase (x.src, x.dst, x.cls, x.seq))
    ∧ (let S := s.sender x.src x.dst x.cls; S.unacked ≠ [] → s.works x.src = true → S.rtx = 0 → ∃ t, exec .ackTimeout s = .next t
        ∧ t.sender x.src x.dst x.cls = { S with rtx := S.unacked.length } ∧ t = { s with stks := t.stks })
    ∧ (let S := s.sender x.src x.dst x.cls; S.unacked ≠ [] → s.works x.src = true → S.rtx ≠ 0 → ∃ t, exec .ackTimeout s = .next t
        ∧ t.reports = s.reports ++ ((maskList s.live).filter (· != x.src)).map (fun j => (j, x.src, x.dst, 0xEB)))
    ∧ (∃ t, exec .linkRecoveryExpiry s = .next t ∧ StackIs s t k { K with lrec := setBitN K.lrec x.src false })
    ∧ (s.works k = true → s.vnum ≠ 0 → ∃ t, exec .heartbeatTimer s = .next t ∧ t = { s with stks := t.stks } ∧ (∀ j, j ≠ k → t.stack j = s.stack j)
        ∧ ∀ j < 4, (t.sender k j 4).unacked = if bitN s.live j = true ∧ j ≠ k ∧ (s.sender k j 4).unacked.length < 8
          then (s.sender k j 4).unacked ++ [(s.sender k j 4).next] else (s.sender k j 4).unacked)
    ∧ (let h := s.home x.pa; let g := x.pa / 32 * 32; bitN x.pa 45 = false → s.paBad x.pa = false → s.up h = true →
      (x.ecc = 1 → ∃ t, exec .patrolScrub s = .next t ∧ StackIs s t h { s.stack h with ecc := min 65535 ((s.stack h).ecc + 1) })
      ∧ (2 ≤ x.ecc → ∃ t, exec .patrolScrub s = .next t ∧ (∀ i < 32, t.mb (g + i) = 0xFF) ∧ (∀ a, a < g ∨ g + 32 ≤ a → t.mb a = s.mb a)
        ∧ t.poisoned g 32 = true ∧ t.stack h = { s.stack h with ucc := min 65535 ((s.stack h).ucc + 1) } ∧ t.berths = s.berths))
    ∧ (∀ c line, x.err = .scratch c line → ∃ t, exec .onDieUncorrectableError s = .next t ∧ t = { s with cores := t.cores }
        ∧ (t.core c).spPoison (64 * line) 64 = true ∧ (∀ y, y < 64 * line ∨ 64 * line + 64 ≤ y → t.spAt c y = s.spAt c y)
        ∧ ∀ j, j ≠ c → t.core j = s.core j)
    ∧ (∀ b site, x.err = .unit b site → (s.berth b).st ≠ .free → ∃ t, exec .onDieUncorrectableError s = .next t ∧ (t.berth b).haltF = true
        ∧ (t.berth b).cut = true ∧ (t.berth b).g = (s.berth b).g ∧ (t.berth b).p = (s.berth b).p ∧ (t.berth b).s = (s.berth b).s ∧ (t.berth b).q = (s.berth b).q
        ∧ ((s.berth b).inHandler = true → (t.berth b).trap = (s.berth b).trap)
        ∧ ((s.berth b).inHandler = false → (t.berth b).trap.tcause = BitVec.ofNat 64 (0xC0 + site % 4 + if site % 4 = 0 then 0 else 256)
          ∧ (t.berth b).trap.tpc = (s.berth b).unitPc)
        ∧ (t.ctx (s.berth b).ctx).pnd = true ∧ ∀ c, c ≠ b → t.berth c = s.berth c)

/-- R320, R322, R421–R424 (what a commit does in one step, and which report's code a fence shows, are the model's choices, log entries 60, 61): reports, proposals, acknowledgements and the commit of a view, and its message's arrival. -/
def Obligations.Views : Prop :=
  ∀ s : State, let x := s.arg; let k := x.stk; let K := s.stack k
    (∃ t, exec .suspectReportExpiry s = .next t ∧ StackIs s t k { K with sus := K.sus.filter (fun h => !(h.1 == x.rep && h.2.1 == x.acc)) })
    ∧ ((k, x.rep, x.acc, x.code) ∈ s.reports →
        (∃ q ∈ s.reports.takeWhile (· != (k, x.rep, x.acc, x.code)), q.1 = k ∧ q.2.1 = x.rep) → exec .suspectReportReceive s = .next s)
    ∧ ((k, x.rep, x.acc, x.code) ∈ s.reports → s.works k = true → s.unfenced x.rep = true →
      (∀ q ∈ s.reports.takeWhile (· != (k, x.rep, x.acc, x.code)), q.1 = k → q.2.1 ≠ x.rep) →
      (∀ P, AMap.find s.props k = some P → 2 ≤ popN s.live 4 →
        (∀ j ∈ fencedBy (K.sus.filter (fun h => !(h.1 == x.rep && h.2.1 == x.acc)) ++ [(x.rep, x.acc, x.code)]) s.unfenced, bitN P.fence j = true) →
        ∃ t, exec .suspectReportReceive s = .next t
        ∧ t = { s with stks := t.stks, reports := s.reports.erase (k, x.rep, x.acc, x.code) }
        ∧ t.stack k = { K with sus := K.sus.filter (fun h => !(h.1 == x.rep && h.2.1 == x.acc)) ++ [(x.rep, x.acc, x.code)] })
      ∧ (∀ r c, K.sus = [(r, x.acc, c)] → r ≠ x.rep → x.acc ≠ k → x.acc < 4 → s.unfenced x.acc = true → AMap.find s.props k = none → AMap.find s.behind k = none → s.vnum ≠ 0 → s.wantFence = 0 →
        s.wantShed = 0 → s.live < 16 → 2 ≤ popN s.live 4 → ∃ t P, exec .suspectReportReceive s = .next t ∧ AMap.find t.props k = some P
        ∧ P.num = s.vnum + 1 ∧ P.fence = 2 ^ x.acc ∧ P.code = x.code ∧ P.forced = true ∧ ∀ j < 4, bitN P.live j = (bitN s.live j && j != x.acc)))
    ∧ (∀ P, AMap.find s.props x.src = some P → k ≠ x.src → s.works k = true → AMap.find s.behind k = none → bitN P.fence k = false → bitN P.heard k = false →
        (AMap.find s.props k = none ∨ x.src < k) → ∃ t, exec .viewProposalReceive s = .next t ∧ t = { s with props := t.props }
        ∧ AMap.find t.props x.src = some { P with heard := setBitN P.heard k true })
    ∧ (∀ P, AMap.find s.props x.dst = some P → bitN P.heard x.src = true → ∃ t, exec .viewAckReceive s = .next t ∧ t = { s with props := t.props }
        ∧ AMap.find t.props x.dst = some { P with acks := setBitN P.acks x.src true })
    ∧ (∀ P, x.flag = false → AMap.find s.props k = some P → bitN P.fence k = true → exec .viewCommit s = .next s)
    ∧ (∀ P, x.flag = false → AMap.find s.props k = some P → s.works k = true → bitN P.fence k = false → P.num = s.vnum + 1 → (P.forced = true ∨ s.quiescent = true) →
        (∀ j < 4, j ≠ k → s.takesPart j = true → bitN P.fence j = false → bitN P.acks j = true) → ∃ t, exec .viewCommit s = .next t
        ∧ t.live = P.live ∧ t.shed = P.shed ∧ t.vnum = s.vnum + 1 ∧ t.gen = (s.gen + 1) % 256 ∧ t.svcTim = s.svcTimNew.getD s.svcTim ∧ t.svcTimNew = none
        ∧ ∀ j < 4, bitN P.fence j = true → (t.stack j).fenced = true)
    ∧ (x.flag = true → (AMap.find s.behind x.dst).isSome = true → s.up x.dst = true → ∃ t, exec .viewCommit s = .next t ∧ AMap.find t.behind x.dst = none
        ∧ t.live = s.live ∧ t.vnum = s.vnum ∧ ∀ j, j ≠ x.dst → AMap.find t.behind j = AMap.find s.behind j)
    ∧ (∀ live shed j, s.drn = true → s.quiescent = true → s.props = [] → s.plan = some (live, shed) → (List.range 4).find? s.speaker = some j →
        ∃ t, exec .quiescentPoint s = .next t ∧ t = { s with props := t.props } ∧ AMap.find t.props j = some ⟨s.vnum + 1, live, shed, 0, 0, 0, 0, false⟩)

/-- R444–R449, R451, R454: the debugger's accesses to a resident strand; which of them count for `err`, and what becomes of a wait when the pc is written, are the
model's choices (log entries 136, 84). -/
def Obligations.Debugger : Prop :=
  ∀ s : State, let n := s.arg.ctx; let b := s.arg.b; let B := s.berth b; let v := s.arg.v; let d := B.dbg
    s.windows = true → s.holdsHere n b = true →
    (s.feature 0 = true →
      (d.stp = false → s.cBusy b = false → s.untraced B.ctx → s.noneAsked b → ∃ t, exec .dbgCtlStop s = .next t ∧ BerthIs s t b
        { B with pc := B.unitPc, pfx := none, cut := true, dbg := { d with stp := true, why := 1, bcode := 0, due := 0, skipBp := false, err := false } })
      ∧ (d.stp = false → s.cBusy b = false → ∃ t, exec .dbgCtlStop s = .next t ∧ (t.berth b).dbg.stp = true ∧ (t.berth b).dbg.why = 1
        ∧ (t.berth b).pc = B.unitPc ∧ (t.berth b).cut = true ∧ B.sameRegs (t.berth b) ∧ (∀ c, c ≠ b → t.berth c = s.berth c)
        ∧ t.atoms = s.atoms.filter (fun a => !(a.ofC b && a.reply)) ∧ t.tsubs = s.tsubs.filter (fun x => x.berth != b || x.held.isSome))
      ∧ (d.stp = false → s.cBusy b = true → d.due = 0 → ∃ t, exec .dbgCtlStop s = .next t ∧ BerthIs s t b { B with dbg := { d with due := 1, err := false } })
      ∧ (d.stp = true → (∃ t, exec .dbgCtlRun s = .next t ∧ BerthIs s t b
          { B with cut := B.inHandler || B.haltF, dbg := { d with stp := false, why := 0, bcode := 0, due := 0, skipBp := true, err := false } })
        ∧ ∃ t, exec .dbgCtlStep s = .next t ∧ BerthIs s t b
          { B with cut := B.inHandler || B.haltF, dbg := { d with stp := false, why := 0, bcode := 0, due := 4, skipBp := true, err := false } })
      ∧ (s.debugged n = [b] → d.stp = false → s.cBusy b = false → s.untraced B.ctx → ∃ t, exec .dbgCctlSall s = .next t ∧ (t.berth b).dbg.stp = true
        ∧ (t.berth b).dbg.why = 5 ∧ B.sameRegs (t.berth b))
      ∧ (s.debugged n = [b] → d.stp = true → ∃ t, exec .dbgCctlRall s = .next t ∧ (t.berth b).dbg.stp = false ∧ B.sameRegs (t.berth b)))
    ∧ (s.feature 0 = false → ∃ t, exec .dbgCtlStop s = .next t ∧ BerthIs s t b { B with dbg := { d with err := true } })
    ∧ (∃ t, exec .dbgStClear s = .next t ∧ BerthIs s t b
        { B with dbg := { d with err := d.err && !(bitN v.toNat 3), dlw := d.dlw && !(bitN v.toNat 0) } })
    ∧ (s.feature 1 = true → d.stp = true → d.sel.toNat % 16 = 0 → d.sel.toNat / 16 % 2 ^ 12 < 64 → ∃ t, exec .dbgDatRead s = .next t ∧ BerthIs s t b
        { B with dbg := { d with dat := B.getG (BitVec.ofNat 6 (d.sel.toNat / 16)), err := false } })
    ∧ (s.feature 1 = true → d.stp = true → d.sel.toNat % 16 = 0 → 64 ≤ d.sel.toNat / 16 % 2 ^ 12 → ∃ t, exec .dbgDatRead s = .next t ∧ BerthIs s t b
        { B with dbg := { d with dat := 0, err := true } })
    ∧ (s.feature 2 = true → d.stp = true → d.sel.toNat % 16 = 0 → d.sel.toNat / 16 % 2 ^ 12 < 64 → ∃ t, exec .dbgDatWrite s = .next t
        ∧ BerthIs s t b { B.setG (BitVec.ofNat 6 (d.sel.toNat / 16)) v with
            outLoad := if B.outLoad.any (fun o => o.d.toNat == d.sel.toNat / 16 % 2 ^ 12) then none else B.outLoad,
            dbg := { d with dlw := d.dlw || B.outLoad.any (fun o => o.d.toNat == d.sel.toNat / 16 % 2 ^ 12), err := false } })
    ∧ (s.feature 2 = true → d.stp = false → ∃ t, exec .dbgDatWrite s = .next t ∧ BerthIs s t b { B with dbg := { d with err := true } })
    ∧ (s.feature 2 = true → d.stp = true → (∀ a ∈ s.atoms, a.ofC b = true → a.reply = true → (s.launch a.ctx a.lsl).det = false) → ∃ t, exec .dbgPcWrite s = .next t
        ∧ t.berth b = { B with pc := v, st := if B.st = .wait then .run else B.st, waiting := .none, dbg := { d with err := false } } ∧ ∀ c, c ≠ b → t.berth c = s.berth c)
    ∧ (s.feature 4 = true → s.arg.flag = false → ∃ t, exec .traceConfigWrite s = .next t
        ∧ CtxIs s t n { s.ctx n with trWr := [], trEnd := 0, trCfg := BitVec.ofNat 64 (2 ^ 8 * (v.toNat / 2 ^ 8 % 2 ^ 8) + v.toNat % 2) })
    ∧ (s.feature 4 = true → s.arg.flag = true → ∃ t, exec .traceConfigWrite s = .next t
        ∧ CtxIs s t n { s.ctx n with
            trWr := [], trCfg := (t.ctx n).trCfg,
            trBase := BitVec.ofNat 64 (2 ^ 58 * (v.toNat / 2 ^ 58 % 2 ^ 6) + 2 ^ 12 * (v.toNat / 2 ^ 12 % 2 ^ 38)) }
        ∧ ∀ k < 64, (t.ctx n).trCfg.getLsbD k = ((s.ctx n).trCfg.getLsbD k && k != 1))
    ∧ (s.feature 5 = true → ∃ t, exec .dbgCctlPclr s = .next t ∧ t = { s with berths := t.berths }
        ∧ ∀ c, t.berth c = if (s.berth c).lastOcc = some n then { s.berth c with profAt := s.ev, awaited := [] } else s.berth c)

/-! ## The decoder, the step and the machine at reset -/

/-- R121–R140, R374–R376: no bit of an encoding is lost. -/
def Obligations.EncodeDecode : Prop :=
  (∀ (i : Instr) (v : Half) (rest : List Half), i.wf = true → i.isEvent = false → i ≠ .mod →
    decode (encode i v ++ rest) = .ok (i, (encode i v).length))
  ∧ ∀ p : Pfx, p.round.toNat ≤ 5 → decode [pfxWord p] = .ok (.mod, 1) ∧ pfxOf (pfxWord p).toNat = p

/-- R121, R374–R376: what the decoder accepts is a well-formed instruction of as many words as its selector asks for, and no event, and its
encoding is those very words. -/
def Obligations.DecodedIsWellFormed : Prop :=
  ∀ (w : Half) (ws : List Half) (i : Instr) (n : Nat), decode (w :: ws) = .ok (i, n) →
    i.wf = true ∧ i.isEvent = false ∧ n = itemWords w ∧ n ≤ ws.length + 1
      ∧ (i ≠ .mod → encode i (ws.getD 0 0) = (w :: ws).take n) ∧ (i = .mod → pfxWord (pfxOf w.toNat) = w)

/-- R122–R138: words written out from the manual's encodings. -/
def Obligations.DecodedWords : Prop :=
  decode [0x04308104#32] = .ok (.sub 1 2 3, 1) ∧ decode [0x00000000#32] = .ok (.nop, 1) ∧ decode [0x08000000#32] = .ok (.tgt, 1)
    ∧ decode [0x00000001#32] = .ok (.mod, 1) ∧ decode [0x00000002#32, 5#32] = .ok (.movi 0 5, 2)
    ∧ (∃ e, decode [0xFFFFFFFF#32] = .error e) ∧ ∃ e, decode [0x000000FC#32] = .error e

/-- R61, R121, R127, R286: when an issue of berth b is next, its core chooses b and the words at its pc decode, the step is the instruction; what cannot be
fetched, or a breakpoint, is met there instead. The end of the unit adds a debug stop that is due and nothing else; a prefix alone and a stall are no issue; the
end of the cycle adds what its arrivals complete, its faults and the profile's notes; an event that is next takes place; a prefixed unit that has begun
comes first. What an agenda is, and which act comes when, is the model's choice (log entries 1, 112). -/
def Obligations.StepRunsTheInstruction : Prop :=
  (∀ (s : State) (b : Nat) (rest : List Choice) (ws : List Half) (i : Instr) (n : Nat), s.agenda = .issue b :: rest →
    (∀ x ∈ s.berths, x.2.pfx = none) → s.coreChoice (coreOf b) = some b →
    let o := ({ s with ev := s.ev + 1, joined := s.cont, cont := false } : State).takeAgenda (.issue b) rest; let u := o.issued b; let pc := (u.berth b).pc
    ({ u with cur := b, ir := [] } : State).breakAt b = none → pc.toNat % 4 = 0 → u.fetchItem (u.berth b).ctx pc = .ok ws →
    (2 ≤ ws.length → pc.toNat % 8 = 0) → decode ws = .ok (i, n) → step s = endCycle (afterIssue o b (afterUnit b (exec i { u with cur := b, ir := ws }))))
  ∧ (∀ (s : State) (b : Nat) (rest : List Choice) (t : State), s.agenda = .issue b :: rest → (∀ x ∈ s.berths, x.2.pfx = none) →
    s.coreChoice (coreOf b) = some b →
    let o := ({ s with ev := s.ev + 1, joined := s.cont, cont := false } : State).takeAgenda (.issue b) rest
    (o.issued b).unitAt b = .stop t → step s = endCycle (afterIssue o b (.next t)))
  ∧ (∀ (o u : State) (b : Nat), ((u.berth b).stalled = false → (u.berth b).pfx = none → afterIssue o b (.next u) = .next u)
    ∧ ((u.berth b).stalled = true ∨ (u.berth b).pfx ≠ none → afterIssue o b (.next u) = .next (u.unissued o b))
    ∧ (u.unissued o b) = { u with berths := (u.unissued o b).berths }
    ∧ ∀ c, (u.unissued o b).berth c = if c = b ∨ c = b ^^^ 1 then { u.berth c with issueAge := (o.berth c).issueAge, lastIssue := (o.berth c).lastIssue }
        else u.berth c)
  ∧ (∀ (t : State) (b : Nat), (t.berth b).dbg.due = 0 → afterUnit b (.next t) = .next t)
  ∧ (∀ (s : State) (i : Instr) (x : EvArg) (rest : List Choice), s.agenda = .event i x :: rest → i.isEvent = true → (∀ y ∈ s.berths, y.2.pfx = none) →
    step s = endCycle (exec i { (({ s with ev := s.ev + 1, joined := s.cont, cont := false } : State).takeAgenda (.event i x) rest).unstall with arg := x }))
  ∧ (∀ s : State, s.unstall = { s with berths := s.unstall.berths } ∧ ∀ b, s.unstall.berth b = { s.berth b with stalled := false })
  ∧ (∀ (t : State) (c : Choice) (r : List Choice), r.head? ≠ some .same → t.takeAgenda c r = { t with agenda := r, cont := false })
  ∧ (∀ t : State, t.cont = false → t.joined = false → (∀ x ∈ t.berths, (∀ r ∈ x.2.recs, r.st ≠ .faulted) ∧ (x.2.dbg.stp = false ∨ x.2.dbg.due = 0)) →
    ∃ u, endCycle (.next t) = .next u ∧ u = { t with berths := u.berths } ∧ u.berths.map (·.1) = t.berths.map (·.1)
      ∧ ∀ b, u.berth b = { t.berth b with profStop := (u.berth b).profStop, awaited := (u.berth b).awaited })
  ∧ (∀ (s : State) (b : Nat), s.latched = some b →
    step s = endCycle (afterIssue { s with ev := s.ev + 1 } b (runUnit b ((({ s with ev := s.ev + 1 } : State).issued b).unitAt b))))

/-- No instruction and no event stops the machine, but a raw packet of a window that lies where R182 forbids it (the model's reading of
the whole manual, log entry 16). -/
def Obligations.EveryStepGoesOn : Prop :=
  (∀ (i : Instr) (s : State), (∀ d a b, i ≠ .rpw d a b ∧ i ≠ .rpr d a b) → ∃ t, exec i s = .next t)
  ∧ ∀ s : State, s.GoesOn ∨ step s = .fault .rawWindow

/-- R5, R35, R280, R320, R324, R335, R340, R421: the machine after reset. -/
def Obligations.ResetState : Prop :=
  let s := State.reset
  (∀ b, (s.berth b).st = .free ∧ (∀ n, (s.berth b).getG n = 0) ∧ (∀ n, (s.berth b).getP n = decide (n = 0))) ∧ s.vnum = 0 ∧ s.live = 0
    ∧ s.svcTim = BitVec.ofNat 64 (200 * 2 ^ 32 + 150 * 2 ^ 16 + 100) ∧ (∀ k < 4, fld s.pcap.toNat (16 * k) 16 = 70)
    ∧ (∀ k < 4, (s.stack k).tst = true ∧ (s.stack k).power = false) ∧ (∀ n, (s.ctx n).pnd = false ∧ (s.ctx n).svd = false)
    ∧ Memory.wf s.mem = true ∧ s.berthsInOrder

/-- R5, R62, R73: every step keeps memory in its canonical form. -/
def Obligations.MemoryStaysCanonical : Prop :=
  ∀ s t : State, Memory.wf s.mem = true → step s = .next t → Memory.wf t.mem = true

/-- R35, R280: every step keeps the table of berths in order. -/
def Obligations.BerthsStayInOrder : Prop :=
  ∀ s t : State, s.berthsInOrder → step s = .next t → t.berthsInOrder
end

