-- ==== Sys2Proof/Laws/AMap.lean ====
section
/-! SUPPORT. The sparse table: reading after a change, and the canonical form that every change keeps. -/

namespace Sys2Proof.Machine

variable {α : Type}

/-! ## Reading after a change -/

@[simp] theorem AMap.get_nil (d : α) (k : Nat) : AMap.get d [] k = d := rfl
@[simp] theorem AMap.find_nil (k : Nat) : AMap.find ([] : AMap α) k = none := rfl

theorem AMap.get_eq_find (d : α) (m : AMap α) (k : Nat) : AMap.get d m k = (AMap.find m k).getD d := by
  induction m with
  | nil => rfl
  | cons p r ih => obtain ⟨j, v⟩ := p; simp only [AMap.get, AMap.find]; split <;> simp [ih]

theorem AMap.find_cons (j : Nat) (v : α) (r : AMap α) (k : Nat) :
    AMap.find ((j, v) :: r) k = if j = k then some v else AMap.find r k := rfl

theorem AMap.find_erase (m : AMap α) (k i : Nat) : AMap.find (AMap.erase m k) i = if i = k then none else AMap.find m i := by
  induction m with
  | nil => simp [AMap.erase]
  | cons p r ih =>
    obtain ⟨j, v⟩ := p
    rw [AMap.erase] at ih
    rw [AMap.erase, List.filter_cons, AMap.find_cons]
    by_cases hj : j = k
    · rw [if_neg (by simp [hj]), ih]
      by_cases hi : i = k
      · rw [if_pos hi, if_pos hi]
      · rw [if_neg hi, if_neg hi, if_neg (by omega)]
    · rw [if_pos (by simp [hj]), AMap.find_cons, ih]
      by_cases hji : j = i
      · rw [if_pos hji, if_pos hji, if_neg (by omega)]
      · rw [if_neg hji, if_neg hji]

theorem AMap.find_insert (m : AMap α) (k i : Nat) (v : α) (h : AMap.find m k = none) :
    AMap.find (AMap.insert m k v) i = if i = k then some v else AMap.find m i := by
  induction m with
  | nil => simp only [AMap.insert, AMap.find, eq_comm]
  | cons p r ih =>
    obtain ⟨j, w⟩ := p
    simp only [AMap.find] at h
    by_cases hjk : j = k
    · simp [hjk] at h
    · simp only [hjk, if_false] at h
      simp only [AMap.insert]
      split
      · rw [AMap.find_cons]
        by_cases hi : i = k
        · rw [if_pos hi.symm, if_pos hi]
        · rw [if_neg (Ne.symm hi), if_neg hi]
      · rw [AMap.find_cons, AMap.find_cons, ih h]
        by_cases hi : i = k
        · rw [if_pos hi, if_neg (by omega), if_pos hi]
        · rw [if_neg hi, if_neg hi]

theorem AMap.find_put (m : AMap α) (k i : Nat) (v : α) : AMap.find (AMap.put m k v) i = if i = k then some v else AMap.find m i := by
  rw [AMap.put, AMap.find_insert _ _ _ _ (by simp [AMap.find_erase]), AMap.find_erase]
  split <;> rfl

theorem AMap.get_put (d : α) (m : AMap α) (k i : Nat) (v : α) : AMap.get d (AMap.put m k v) i = if i = k then v else AMap.get d m i := by
  simp only [AMap.get_eq_find, AMap.find_put]; split <;> rfl

theorem AMap.get_erase (d : α) (m : AMap α) (k i : Nat) : AMap.get d (AMap.erase m k) i = if i = k then d else AMap.get d m i := by
  simp only [AMap.get_eq_find, AMap.find_erase]; split <;> rfl

/-- A read after a write. -/
theorem AMap.get_set [DecidableEq α] (d : α) (m : AMap α) (k i : Nat) (v : α) :
    AMap.get d (AMap.set d m k v) i = if i = k then v else AMap.get d m i := by
  unfold AMap.set
  split
  · subst_vars; exact AMap.get_erase _ m k i
  · exact AMap.get_put d m k i v

@[simp] theorem AMap.get_set_same [DecidableEq α] (d : α) (m : AMap α) (k : Nat) (v : α) : AMap.get d (AMap.set d m k v) k = v := by
  simp [AMap.get_set]
theorem AMap.get_set_other [DecidableEq α] (d : α) (m : AMap α) {k i : Nat} (v : α) (h : i ≠ k) :
    AMap.get d (AMap.set d m k v) i = AMap.get d m i := by simp [AMap.get_set, h]
@[simp] theorem AMap.get_put_same (d : α) (m : AMap α) (k : Nat) (v : α) : AMap.get d (AMap.put m k v) k = v := by
  simp [AMap.get_put]

/-- Laying an overlay whose keys are not i leaves i alone. -/
theorem AMap.get_overlay_none [DecidableEq α] (d : α) (m o : AMap α) (i : Nat) (h : AMap.find o i = none) :
    AMap.get d (AMap.overlay d m o) i = AMap.get d m i := by
  induction o generalizing m with
  | nil => rfl
  | cons p r ih =>
    obtain ⟨j, v⟩ := p
    simp only [AMap.find] at h
    split at h
    · exact absurd h (by simp)
    · rename_i hj
      simp only [AMap.overlay, List.foldl_cons]
      rw [show List.foldl _ _ r = AMap.overlay d (AMap.set d m j v) r from rfl, ih _ h, AMap.get_set_other d m v (fun e => hj e.symm)]

/-! ## The canonical form -/

/-- Every key of the table is above k. -/
def AMap.above (k : Nat) (m : AMap α) : Prop := ∀ p ∈ m, k < p.1

theorem AMap.wf_cons [DecidableEq α] (d : α) (k : Nat) (v : α) (m : AMap α) :
    AMap.wf d ((k, v) :: m) = true ↔ v ≠ d ∧ AMap.above k m ∧ AMap.wf d m = true := by
  induction m generalizing k v with
  | nil => simp [AMap.wf, AMap.above]
  | cons p r ih =>
    obtain ⟨j, w⟩ := p
    have := ih j w
    constructor
    · intro h
      simp only [AMap.wf, Bool.and_eq_true, decide_eq_true_eq] at h
      obtain ⟨⟨h1, h2⟩, h3⟩ := h
      refine ⟨h2, ?_, h3⟩
      intro q hq
      rcases List.mem_cons.mp hq with rfl | hq
      · exact h1
      · exact Nat.lt_trans h1 ((this.mp h3).2.1 q hq)
    · rintro ⟨h1, h2, h3⟩
      simp only [AMap.wf, Bool.and_eq_true, decide_eq_true_eq]
      exact ⟨⟨h2 (j, w) (by simp), h1⟩, h3⟩

theorem AMap.wf_filter [DecidableEq α] (d : α) (m : AMap α) (f : Nat × α → Bool) (h : AMap.wf d m = true) :
    AMap.wf d (m.filter f) = true := by
  induction m with
  | nil => exact h
  | cons p r ih =>
    obtain ⟨j, v⟩ := p
    obtain ⟨h1, h2, h3⟩ := (AMap.wf_cons d j v r).mp h
    rw [List.filter_cons]
    split
    · exact (AMap.wf_cons d j v _).mpr ⟨h1, fun q hq => h2 q (List.mem_of_mem_filter hq), ih h3⟩
    · exact ih h3

theorem AMap.wf_erase [DecidableEq α] (d : α) (m : AMap α) (k : Nat) (h : AMap.wf d m = true) : AMap.wf d (AMap.erase m k) = true :=
  AMap.wf_filter d m _ h

theorem AMap.mem_insert (m : AMap α) (k : Nat) (v : α) (p : Nat × α) (h : p ∈ AMap.insert m k v) : p = (k, v) ∨ p ∈ m := by
  induction m with
  | nil => simpa [AMap.insert] using h
  | cons q r ih =>
    obtain ⟨j, w⟩ := q
    simp only [AMap.insert] at h
    split at h
    · simpa using h
    · rcases List.mem_cons.mp h with rfl | h
      · simp
      · rcases ih h with h | h <;> simp [h]

theorem AMap.wf_insert [DecidableEq α] (d : α) (m : AMap α) (k : Nat) (v : α) (h : AMap.wf d m = true) (hv : v ≠ d)
    (hk : ∀ p ∈ m, p.1 ≠ k) : AMap.wf d (AMap.insert m k v) = true := by
  induction m with
  | nil => simp [AMap.insert, AMap.wf, hv]
  | cons p r ih =>
    obtain ⟨j, w⟩ := p
    obtain ⟨h1, h2, h3⟩ := (AMap.wf_cons d j w r).mp h
    simp only [AMap.insert]
    split
    · rename_i hkj
      refine (AMap.wf_cons d k v _).mpr ⟨hv, ?_, h⟩
      intro q hq
      rcases List.mem_cons.mp hq with rfl | hq
      · exact hkj
      · exact Nat.lt_trans hkj (h2 q hq)
    · rename_i hkj
      refine (AMap.wf_cons d j w _).mpr ⟨h1, ?_, ih h3 (fun q hq => hk q (List.mem_cons_of_mem _ hq))⟩
      intro q hq
      rcases AMap.mem_insert r k v q hq with rfl | hq
      · have := hk (j, w) (by simp)
        simp only at this ⊢; omega
      · exact h2 q hq

theorem AMap.wf_put [DecidableEq α] (d : α) (m : AMap α) (k : Nat) (v : α) (h : AMap.wf d m = true) (hv : v ≠ d) :
    AMap.wf d (AMap.put m k v) = true := by
  refine AMap.wf_insert d _ k v (AMap.wf_erase d m k h) hv (fun p hp => ?_)
  simpa using List.of_mem_filter hp

/-- A write keeps the canonical form. -/
theorem AMap.wf_set [DecidableEq α] (d : α) (m : AMap α) (k : Nat) (v : α) (h : AMap.wf d m = true) :
    AMap.wf d (AMap.set d m k v) = true := by
  unfold AMap.set
  split
  · exact AMap.wf_erase d m k h
  · exact AMap.wf_put d m k v h ‹_›

theorem AMap.wf_overlay [DecidableEq α] (d : α) (m o : AMap α) (h : AMap.wf d m = true) : AMap.wf d (AMap.overlay d m o) = true := by
  unfold AMap.overlay
  induction o generalizing m with
  | nil => exact h
  | cons p r ih => exact ih _ (AMap.wf_set d m p.1 p.2 h)

theorem AMap.wf_clearRange [DecidableEq α] (d : α) (m : AMap α) (lo n : Nat) (h : AMap.wf d m = true) :
    AMap.wf d (AMap.clearRange m lo n) = true := AMap.wf_filter d m _ h

/-! ## Bytes -/

theorem memPut_wf (m : Mem) (a : Nat) (bs : List Byte) (h : AMap.wf 0 m = true) : AMap.wf 0 (memPut m a bs) = true := by
  induction bs generalizing m a with
  | nil => exact h
  | cons v vs ih => exact ih _ _ (AMap.wf_set 0 m a v h)

/-- A byte outside the bytes written reads as before. -/
theorem memPut_outside (m : Mem) (a : Nat) (bs : List Byte) (i : Nat) (h : i < a ∨ a + bs.length ≤ i) :
    AMap.get 0 (memPut m a bs) i = AMap.get 0 m i := by
  induction bs generalizing m a with
  | nil => rfl
  | cons v vs ih =>
    simp only [List.length_cons] at h
    rw [memPut, ih _ _ (by omega), AMap.get_set_other 0 m v (by omega)]

/-- A byte inside reads as written. -/
theorem memPut_inside (m : Mem) (a : Nat) (bs : List Byte) (i : Nat) (h : i < bs.length) :
    AMap.get 0 (memPut m a bs) (a + i) = bs.getD i 0 := by
  induction bs generalizing m a i with
  | nil => simp at h
  | cons v vs ih =>
    cases i with
    | zero => rw [memPut, memPut_outside _ _ _ _ (by omega)]; simp
    | succ i =>
      have := ih (AMap.set 0 m a v) (a + 1) i (by simpa using h)
      rw [memPut, show a + (i + 1) = a + 1 + i by omega, this]; simp

theorem ovPut_find_outside (m : Mem) (a : Nat) (bs : List Byte) (i : Nat) (h : i < a ∨ a + bs.length ≤ i) :
    AMap.find (ovPut m a bs) i = AMap.find m i := by
  induction bs generalizing m a with
  | nil => rfl
  | cons v vs ih =>
    simp only [List.length_cons] at h
    rw [ovPut, ih _ _ (by omega), AMap.find_put, if_neg (by omega)]

theorem ovPut_find_inside (m : Mem) (a : Nat) (bs : List Byte) (i : Nat) (h : i < bs.length) :
    AMap.find (ovPut m a bs) (a + i) = some (bs.getD i 0) := by
  induction bs generalizing m a i with
  | nil => simp at h
  | cons v vs ih =>
    cases i with
    | zero => rw [ovPut, ovPut_find_outside _ _ _ _ (by omega), AMap.find_put]; simp
    | succ i =>
      have := ih (AMap.put m a v) (a + 1) i (by simpa using h)
      rw [ovPut, show a + (i + 1) = a + 1 + i by omega, this]; simp

end Sys2Proof.Machine
end

