-- ==== Sys2Proof/Laws/State.lean ====
section
/-! SUPPORT. One lemma per field and update of the state, true by unfolding, so that no proof opens a record update; and reading a part
after a part is set. -/

namespace Sys2Proof.Machine

/-! ## What setting a part leaves of the state -/

@[simp] theorem State.setBerth_shape (s : State) (k : Nat) (v : Berth) : (s.setBerth k v).shape = s.shape := rfl
@[simp] theorem State.setBerth_cores (s : State) (k : Nat) (v : Berth) : (s.setBerth k v).cores = s.cores := rfl
@[simp] theorem State.setBerth_stks (s : State) (k : Nat) (v : Berth) : (s.setBerth k v).stks = s.stks := rfl
@[simp] theorem State.setBerth_ctxs (s : State) (k : Nat) (v : Berth) : (s.setBerth k v).ctxs = s.ctxs := rfl
@[simp] theorem State.setBerth_mem (s : State) (k : Nat) (v : Berth) : (s.setBerth k v).mem = s.mem := rfl
@[simp] theorem State.setBerth_hist (s : State) (k : Nat) (v : Berth) : (s.setBerth k v).hist = s.hist := rfl
@[simp] theorem State.setBerth_sync (s : State) (k : Nat) (v : Berth) : (s.setBerth k v).sync = s.sync := rfl
@[simp] theorem State.setBerth_poison (s : State) (k : Nat) (v : Berth) : (s.setBerth k v).poison = s.poison := rfl
@[simp] theorem State.setBerth_vnum (s : State) (k : Nat) (v : Berth) : (s.setBerth k v).vnum = s.vnum := rfl
@[simp] theorem State.setBerth_live (s : State) (k : Nat) (v : Berth) : (s.setBerth k v).live = s.live := rfl
@[simp] theorem State.setBerth_shed (s : State) (k : Nat) (v : Berth) : (s.setBerth k v).shed = s.shed := rfl
@[simp] theorem State.setBerth_gen (s : State) (k : Nat) (v : Berth) : (s.setBerth k v).gen = s.gen := rfl
@[simp] theorem State.setBerth_act (s : State) (k : Nat) (v : Berth) : (s.setBerth k v).act = s.act := rfl
@[simp] theorem State.setBerth_altv (s : State) (k : Nat) (v : Berth) : (s.setBerth k v).altv = s.altv := rfl
@[simp] theorem State.setBerth_alt (s : State) (k : Nat) (v : Berth) : (s.setBerth k v).alt = s.alt := rfl
@[simp] theorem State.setBerth_shown (s : State) (k : Nat) (v : Berth) : (s.setBerth k v).shown = s.shown := rfl
@[simp] theorem State.setBerth_behind (s : State) (k : Nat) (v : Berth) : (s.setBerth k v).behind = s.behind := rfl
@[simp] theorem State.setBerth_drn (s : State) (k : Nat) (v : Berth) : (s.setBerth k v).drn = s.drn := rfl
@[simp] theorem State.setBerth_pendShed (s : State) (k : Nat) (v : Berth) : (s.setBerth k v).pendShed = s.pendShed := rfl
@[simp] theorem State.setBerth_wantShed (s : State) (k : Nat) (v : Berth) : (s.setBerth k v).wantShed = s.wantShed := rfl
@[simp] theorem State.setBerth_wantFence (s : State) (k : Nat) (v : Berth) : (s.setBerth k v).wantFence = s.wantFence := rfl
@[simp] theorem State.setBerth_props (s : State) (k : Nat) (v : Berth) : (s.setBerth k v).props = s.props := rfl
@[simp] theorem State.setBerth_reports (s : State) (k : Nat) (v : Berth) : (s.setBerth k v).reports = s.reports := rfl
@[simp] theorem State.setBerth_svcTim (s : State) (k : Nat) (v : Berth) : (s.setBerth k v).svcTim = s.svcTim := rfl
@[simp] theorem State.setBerth_svcTimNew (s : State) (k : Nat) (v : Berth) : (s.setBerth k v).svcTimNew = s.svcTimNew := rfl
@[simp] theorem State.setBerth_svcSus (s : State) (k : Nat) (v : Berth) : (s.setBerth k v).svcSus = s.svcSus := rfl
@[simp] theorem State.setBerth_life (s : State) (k : Nat) (v : Berth) : (s.setBerth k v).life = s.life := rfl
@[simp] theorem State.setBerth_seed (s : State) (k : Nat) (v : Berth) : (s.setBerth k v).seed = s.seed := rfl
@[simp] theorem State.setBerth_nonce (s : State) (k : Nat) (v : Berth) : (s.setBerth k v).nonce = s.nonce := rfl
@[simp] theorem State.setBerth_report (s : State) (k : Nat) (v : Berth) : (s.setBerth k v).report = s.report := rfl
@[simp] theorem State.setBerth_repBusy (s : State) (k : Nat) (v : Berth) : (s.setBerth k v).repBusy = s.repBusy := rfl
@[simp] theorem State.setBerth_repReady (s : State) (k : Nat) (v : Berth) : (s.setBerth k v).repReady = s.repReady := rfl
@[simp] theorem State.setBerth_token (s : State) (k : Nat) (v : Berth) : (s.setBerth k v).token = s.token := rfl
@[simp] theorem State.setBerth_challenges (s : State) (k : Nat) (v : Berth) : (s.setBerth k v).challenges = s.challenges := rfl
@[simp] theorem State.setBerth_features (s : State) (k : Nat) (v : Berth) : (s.setBerth k v).features = s.features := rfl
@[simp] theorem State.setBerth_pcap (s : State) (k : Nat) (v : Berth) : (s.setBerth k v).pcap = s.pcap := rfl
@[simp] theorem State.setBerth_qlist (s : State) (k : Nat) (v : Berth) : (s.setBerth k v).qlist = s.qlist := rfl
@[simp] theorem State.setBerth_scrub (s : State) (k : Nat) (v : Berth) : (s.setBerth k v).scrub = s.scrub := rfl
@[simp] theorem State.setBerth_msixT (s : State) (k : Nat) (v : Berth) : (s.setBerth k v).msixT = s.msixT := rfl
@[simp] theorem State.setBerth_msixP (s : State) (k : Nat) (v : Berth) : (s.setBerth k v).msixP = s.msixP := rfl
@[simp] theorem State.setBerth_atoms (s : State) (k : Nat) (v : Berth) : (s.setBerth k v).atoms = s.atoms := rfl
@[simp] theorem State.setBerth_contribs (s : State) (k : Nat) (v : Berth) : (s.setBerth k v).contribs = s.contribs := rfl
@[simp] theorem State.setBerth_tsubs (s : State) (k : Nat) (v : Berth) : (s.setBerth k v).tsubs = s.tsubs := rfl
@[simp] theorem State.setBerth_deps (s : State) (k : Nat) (v : Berth) : (s.setBerth k v).deps = s.deps := rfl
@[simp] theorem State.setBerth_meets (s : State) (k : Nat) (v : Berth) : (s.setBerth k v).meets = s.meets := rfl
@[simp] theorem State.setBerth_mouts (s : State) (k : Nat) (v : Berth) : (s.setBerth k v).mouts = s.mouts := rfl
@[simp] theorem State.setBerth_rmsgs (s : State) (k : Nat) (v : Berth) : (s.setBerth k v).rmsgs = s.rmsgs := rfl
@[simp] theorem State.setBerth_mcs (s : State) (k : Nat) (v : Berth) : (s.setBerth k v).mcs = s.mcs := rfl
@[simp] theorem State.setBerth_lacks (s : State) (k : Nat) (v : Berth) : (s.setBerth k v).lacks = s.lacks := rfl
@[simp] theorem State.setBerth_migrs (s : State) (k : Nat) (v : Berth) : (s.setBerth k v).migrs = s.migrs := rfl
@[simp] theorem State.setBerth_migQueue (s : State) (k : Nat) (v : Berth) : (s.setBerth k v).migQueue = s.migQueue := rfl
@[simp] theorem State.setBerth_ev (s : State) (k : Nat) (v : Berth) : (s.setBerth k v).ev = s.ev := rfl
@[simp] theorem State.setBerth_cur (s : State) (k : Nat) (v : Berth) : (s.setBerth k v).cur = s.cur := rfl
@[simp] theorem State.setBerth_ir (s : State) (k : Nat) (v : Berth) : (s.setBerth k v).ir = s.ir := rfl
@[simp] theorem State.setBerth_arg (s : State) (k : Nat) (v : Berth) : (s.setBerth k v).arg = s.arg := rfl
@[simp] theorem State.setBerth_turn (s : State) (k : Nat) (v : Berth) : (s.setBerth k v).turn = s.turn := rfl
@[simp] theorem State.setBerth_cont (s : State) (k : Nat) (v : Berth) : (s.setBerth k v).cont = s.cont := rfl
@[simp] theorem State.setBerth_joined (s : State) (k : Nat) (v : Berth) : (s.setBerth k v).joined = s.joined := rfl
@[simp] theorem State.setBerth_agenda (s : State) (k : Nat) (v : Berth) : (s.setBerth k v).agenda = s.agenda := rfl
@[simp] theorem State.setCore_shape (s : State) (k : Nat) (v : Core) : (s.setCore k v).shape = s.shape := rfl
@[simp] theorem State.setCore_berths (s : State) (k : Nat) (v : Core) : (s.setCore k v).berths = s.berths := rfl
@[simp] theorem State.setCore_stks (s : State) (k : Nat) (v : Core) : (s.setCore k v).stks = s.stks := rfl
@[simp] theorem State.setCore_ctxs (s : State) (k : Nat) (v : Core) : (s.setCore k v).ctxs = s.ctxs := rfl
@[simp] theorem State.setCore_mem (s : State) (k : Nat) (v : Core) : (s.setCore k v).mem = s.mem := rfl
@[simp] theorem State.setCore_hist (s : State) (k : Nat) (v : Core) : (s.setCore k v).hist = s.hist := rfl
@[simp] theorem State.setCore_sync (s : State) (k : Nat) (v : Core) : (s.setCore k v).sync = s.sync := rfl
@[simp] theorem State.setCore_poison (s : State) (k : Nat) (v : Core) : (s.setCore k v).poison = s.poison := rfl
@[simp] theorem State.setCore_vnum (s : State) (k : Nat) (v : Core) : (s.setCore k v).vnum = s.vnum := rfl
@[simp] theorem State.setCore_live (s : State) (k : Nat) (v : Core) : (s.setCore k v).live = s.live := rfl
@[simp] theorem State.setCore_shed (s : State) (k : Nat) (v : Core) : (s.setCore k v).shed = s.shed := rfl
@[simp] theorem State.setCore_gen (s : State) (k : Nat) (v : Core) : (s.setCore k v).gen = s.gen := rfl
@[simp] theorem State.setCore_act (s : State) (k : Nat) (v : Core) : (s.setCore k v).act = s.act := rfl
@[simp] theorem State.setCore_altv (s : State) (k : Nat) (v : Core) : (s.setCore k v).altv = s.altv := rfl
@[simp] theorem State.setCore_alt (s : State) (k : Nat) (v : Core) : (s.setCore k v).alt = s.alt := rfl
@[simp] theorem State.setCore_shown (s : State) (k : Nat) (v : Core) : (s.setCore k v).shown = s.shown := rfl
@[simp] theorem State.setCore_behind (s : State) (k : Nat) (v : Core) : (s.setCore k v).behind = s.behind := rfl
@[simp] theorem State.setCore_drn (s : State) (k : Nat) (v : Core) : (s.setCore k v).drn = s.drn := rfl
@[simp] theorem State.setCore_pendShed (s : State) (k : Nat) (v : Core) : (s.setCore k v).pendShed = s.pendShed := rfl
@[simp] theorem State.setCore_wantShed (s : State) (k : Nat) (v : Core) : (s.setCore k v).wantShed = s.wantShed := rfl
@[simp] theorem State.setCore_wantFence (s : State) (k : Nat) (v : Core) : (s.setCore k v).wantFence = s.wantFence := rfl
@[simp] theorem State.setCore_props (s : State) (k : Nat) (v : Core) : (s.setCore k v).props = s.props := rfl
@[simp] theorem State.setCore_reports (s : State) (k : Nat) (v : Core) : (s.setCore k v).reports = s.reports := rfl
@[simp] theorem State.setCore_svcTim (s : State) (k : Nat) (v : Core) : (s.setCore k v).svcTim = s.svcTim := rfl
@[simp] theorem State.setCore_svcTimNew (s : State) (k : Nat) (v : Core) : (s.setCore k v).svcTimNew = s.svcTimNew := rfl
@[simp] theorem State.setCore_svcSus (s : State) (k : Nat) (v : Core) : (s.setCore k v).svcSus = s.svcSus := rfl
@[simp] theorem State.setCore_life (s : State) (k : Nat) (v : Core) : (s.setCore k v).life = s.life := rfl
@[simp] theorem State.setCore_seed (s : State) (k : Nat) (v : Core) : (s.setCore k v).seed = s.seed := rfl
@[simp] theorem State.setCore_nonce (s : State) (k : Nat) (v : Core) : (s.setCore k v).nonce = s.nonce := rfl
@[simp] theorem State.setCore_report (s : State) (k : Nat) (v : Core) : (s.setCore k v).report = s.report := rfl
@[simp] theorem State.setCore_repBusy (s : State) (k : Nat) (v : Core) : (s.setCore k v).repBusy = s.repBusy := rfl
@[simp] theorem State.setCore_repReady (s : State) (k : Nat) (v : Core) : (s.setCore k v).repReady = s.repReady := rfl
@[simp] theorem State.setCore_token (s : State) (k : Nat) (v : Core) : (s.setCore k v).token = s.token := rfl
@[simp] theorem State.setCore_challenges (s : State) (k : Nat) (v : Core) : (s.setCore k v).challenges = s.challenges := rfl
@[simp] theorem State.setCore_features (s : State) (k : Nat) (v : Core) : (s.setCore k v).features = s.features := rfl
@[simp] theorem State.setCore_pcap (s : State) (k : Nat) (v : Core) : (s.setCore k v).pcap = s.pcap := rfl
@[simp] theorem State.setCore_qlist (s : State) (k : Nat) (v : Core) : (s.setCore k v).qlist = s.qlist := rfl
@[simp] theorem State.setCore_scrub (s : State) (k : Nat) (v : Core) : (s.setCore k v).scrub = s.scrub := rfl
@[simp] theorem State.setCore_msixT (s : State) (k : Nat) (v : Core) : (s.setCore k v).msixT = s.msixT := rfl
@[simp] theorem State.setCore_msixP (s : State) (k : Nat) (v : Core) : (s.setCore k v).msixP = s.msixP := rfl
@[simp] theorem State.setCore_atoms (s : State) (k : Nat) (v : Core) : (s.setCore k v).atoms = s.atoms := rfl
@[simp] theorem State.setCore_contribs (s : State) (k : Nat) (v : Core) : (s.setCore k v).contribs = s.contribs := rfl
@[simp] theorem State.setCore_tsubs (s : State) (k : Nat) (v : Core) : (s.setCore k v).tsubs = s.tsubs := rfl
@[simp] theorem State.setCore_deps (s : State) (k : Nat) (v : Core) : (s.setCore k v).deps = s.deps := rfl
@[simp] theorem State.setCore_meets (s : State) (k : Nat) (v : Core) : (s.setCore k v).meets = s.meets := rfl
@[simp] theorem State.setCore_mouts (s : State) (k : Nat) (v : Core) : (s.setCore k v).mouts = s.mouts := rfl
@[simp] theorem State.setCore_rmsgs (s : State) (k : Nat) (v : Core) : (s.setCore k v).rmsgs = s.rmsgs := rfl
@[simp] theorem State.setCore_mcs (s : State) (k : Nat) (v : Core) : (s.setCore k v).mcs = s.mcs := rfl
@[simp] theorem State.setCore_lacks (s : State) (k : Nat) (v : Core) : (s.setCore k v).lacks = s.lacks := rfl
@[simp] theorem State.setCore_migrs (s : State) (k : Nat) (v : Core) : (s.setCore k v).migrs = s.migrs := rfl
@[simp] theorem State.setCore_migQueue (s : State) (k : Nat) (v : Core) : (s.setCore k v).migQueue = s.migQueue := rfl
@[simp] theorem State.setCore_ev (s : State) (k : Nat) (v : Core) : (s.setCore k v).ev = s.ev := rfl
@[simp] theorem State.setCore_cur (s : State) (k : Nat) (v : Core) : (s.setCore k v).cur = s.cur := rfl
@[simp] theorem State.setCore_ir (s : State) (k : Nat) (v : Core) : (s.setCore k v).ir = s.ir := rfl
@[simp] theorem State.setCore_arg (s : State) (k : Nat) (v : Core) : (s.setCore k v).arg = s.arg := rfl
@[simp] theorem State.setCore_turn (s : State) (k : Nat) (v : Core) : (s.setCore k v).turn = s.turn := rfl
@[simp] theorem State.setCore_cont (s : State) (k : Nat) (v : Core) : (s.setCore k v).cont = s.cont := rfl
@[simp] theorem State.setCore_joined (s : State) (k : Nat) (v : Core) : (s.setCore k v).joined = s.joined := rfl
@[simp] theorem State.setCore_agenda (s : State) (k : Nat) (v : Core) : (s.setCore k v).agenda = s.agenda := rfl
@[simp] theorem State.setStack_shape (s : State) (k : Nat) (v : Stack) : (s.setStack k v).shape = s.shape := rfl
@[simp] theorem State.setStack_berths (s : State) (k : Nat) (v : Stack) : (s.setStack k v).berths = s.berths := rfl
@[simp] theorem State.setStack_cores (s : State) (k : Nat) (v : Stack) : (s.setStack k v).cores = s.cores := rfl
@[simp] theorem State.setStack_ctxs (s : State) (k : Nat) (v : Stack) : (s.setStack k v).ctxs = s.ctxs := rfl
@[simp] theorem State.setStack_mem (s : State) (k : Nat) (v : Stack) : (s.setStack k v).mem = s.mem := rfl
@[simp] theorem State.setStack_hist (s : State) (k : Nat) (v : Stack) : (s.setStack k v).hist = s.hist := rfl
@[simp] theorem State.setStack_sync (s : State) (k : Nat) (v : Stack) : (s.setStack k v).sync = s.sync := rfl
@[simp] theorem State.setStack_poison (s : State) (k : Nat) (v : Stack) : (s.setStack k v).poison = s.poison := rfl
@[simp] theorem State.setStack_vnum (s : State) (k : Nat) (v : Stack) : (s.setStack k v).vnum = s.vnum := rfl
@[simp] theorem State.setStack_live (s : State) (k : Nat) (v : Stack) : (s.setStack k v).live = s.live := rfl
@[simp] theorem State.setStack_shed (s : State) (k : Nat) (v : Stack) : (s.setStack k v).shed = s.shed := rfl
@[simp] theorem State.setStack_gen (s : State) (k : Nat) (v : Stack) : (s.setStack k v).gen = s.gen := rfl
@[simp] theorem State.setStack_act (s : State) (k : Nat) (v : Stack) : (s.setStack k v).act = s.act := rfl
@[simp] theorem State.setStack_altv (s : State) (k : Nat) (v : Stack) : (s.setStack k v).altv = s.altv := rfl
@[simp] theorem State.setStack_alt (s : State) (k : Nat) (v : Stack) : (s.setStack k v).alt = s.alt := rfl
@[simp] theorem State.setStack_shown (s : State) (k : Nat) (v : Stack) : (s.setStack k v).shown = s.shown := rfl
@[simp] theorem State.setStack_behind (s : State) (k : Nat) (v : Stack) : (s.setStack k v).behind = s.behind := rfl
@[simp] theorem State.setStack_drn (s : State) (k : Nat) (v : Stack) : (s.setStack k v).drn = s.drn := rfl
@[simp] theorem State.setStack_pendShed (s : State) (k : Nat) (v : Stack) : (s.setStack k v).pendShed = s.pendShed := rfl
@[simp] theorem State.setStack_wantShed (s : State) (k : Nat) (v : Stack) : (s.setStack k v).wantShed = s.wantShed := rfl
@[simp] theorem State.setStack_wantFence (s : State) (k : Nat) (v : Stack) : (s.setStack k v).wantFence = s.wantFence := rfl
@[simp] theorem State.setStack_props (s : State) (k : Nat) (v : Stack) : (s.setStack k v).props = s.props := rfl
@[simp] theorem State.setStack_reports (s : State) (k : Nat) (v : Stack) : (s.setStack k v).reports = s.reports := rfl
@[simp] theorem State.setStack_svcTim (s : State) (k : Nat) (v : Stack) : (s.setStack k v).svcTim = s.svcTim := rfl
@[simp] theorem State.setStack_svcTimNew (s : State) (k : Nat) (v : Stack) : (s.setStack k v).svcTimNew = s.svcTimNew := rfl
@[simp] theorem State.setStack_svcSus (s : State) (k : Nat) (v : Stack) : (s.setStack k v).svcSus = s.svcSus := rfl
@[simp] theorem State.setStack_life (s : State) (k : Nat) (v : Stack) : (s.setStack k v).life = s.life := rfl
@[simp] theorem State.setStack_seed (s : State) (k : Nat) (v : Stack) : (s.setStack k v).seed = s.seed := rfl
@[simp] theorem State.setStack_nonce (s : State) (k : Nat) (v : Stack) : (s.setStack k v).nonce = s.nonce := rfl
@[simp] theorem State.setStack_report (s : State) (k : Nat) (v : Stack) : (s.setStack k v).report = s.report := rfl
@[simp] theorem State.setStack_repBusy (s : State) (k : Nat) (v : Stack) : (s.setStack k v).repBusy = s.repBusy := rfl
@[simp] theorem State.setStack_repReady (s : State) (k : Nat) (v : Stack) : (s.setStack k v).repReady = s.repReady := rfl
@[simp] theorem State.setStack_token (s : State) (k : Nat) (v : Stack) : (s.setStack k v).token = s.token := rfl
@[simp] theorem State.setStack_challenges (s : State) (k : Nat) (v : Stack) : (s.setStack k v).challenges = s.challenges := rfl
@[simp] theorem State.setStack_features (s : State) (k : Nat) (v : Stack) : (s.setStack k v).features = s.features := rfl
@[simp] theorem State.setStack_pcap (s : State) (k : Nat) (v : Stack) : (s.setStack k v).pcap = s.pcap := rfl
@[simp] theorem State.setStack_qlist (s : State) (k : Nat) (v : Stack) : (s.setStack k v).qlist = s.qlist := rfl
@[simp] theorem State.setStack_scrub (s : State) (k : Nat) (v : Stack) : (s.setStack k v).scrub = s.scrub := rfl
@[simp] theorem State.setStack_msixT (s : State) (k : Nat) (v : Stack) : (s.setStack k v).msixT = s.msixT := rfl
@[simp] theorem State.setStack_msixP (s : State) (k : Nat) (v : Stack) : (s.setStack k v).msixP = s.msixP := rfl
@[simp] theorem State.setStack_atoms (s : State) (k : Nat) (v : Stack) : (s.setStack k v).atoms = s.atoms := rfl
@[simp] theorem State.setStack_contribs (s : State) (k : Nat) (v : Stack) : (s.setStack k v).contribs = s.contribs := rfl
@[simp] theorem State.setStack_tsubs (s : State) (k : Nat) (v : Stack) : (s.setStack k v).tsubs = s.tsubs := rfl
@[simp] theorem State.setStack_deps (s : State) (k : Nat) (v : Stack) : (s.setStack k v).deps = s.deps := rfl
@[simp] theorem State.setStack_meets (s : State) (k : Nat) (v : Stack) : (s.setStack k v).meets = s.meets := rfl
@[simp] theorem State.setStack_mouts (s : State) (k : Nat) (v : Stack) : (s.setStack k v).mouts = s.mouts := rfl
@[simp] theorem State.setStack_rmsgs (s : State) (k : Nat) (v : Stack) : (s.setStack k v).rmsgs = s.rmsgs := rfl
@[simp] theorem State.setStack_mcs (s : State) (k : Nat) (v : Stack) : (s.setStack k v).mcs = s.mcs := rfl
@[simp] theorem State.setStack_lacks (s : State) (k : Nat) (v : Stack) : (s.setStack k v).lacks = s.lacks := rfl
@[simp] theorem State.setStack_migrs (s : State) (k : Nat) (v : Stack) : (s.setStack k v).migrs = s.migrs := rfl
@[simp] theorem State.setStack_migQueue (s : State) (k : Nat) (v : Stack) : (s.setStack k v).migQueue = s.migQueue := rfl
@[simp] theorem State.setStack_ev (s : State) (k : Nat) (v : Stack) : (s.setStack k v).ev = s.ev := rfl
@[simp] theorem State.setStack_cur (s : State) (k : Nat) (v : Stack) : (s.setStack k v).cur = s.cur := rfl
@[simp] theorem State.setStack_ir (s : State) (k : Nat) (v : Stack) : (s.setStack k v).ir = s.ir := rfl
@[simp] theorem State.setStack_arg (s : State) (k : Nat) (v : Stack) : (s.setStack k v).arg = s.arg := rfl
@[simp] theorem State.setStack_turn (s : State) (k : Nat) (v : Stack) : (s.setStack k v).turn = s.turn := rfl
@[simp] theorem State.setStack_cont (s : State) (k : Nat) (v : Stack) : (s.setStack k v).cont = s.cont := rfl
@[simp] theorem State.setStack_joined (s : State) (k : Nat) (v : Stack) : (s.setStack k v).joined = s.joined := rfl
@[simp] theorem State.setStack_agenda (s : State) (k : Nat) (v : Stack) : (s.setStack k v).agenda = s.agenda := rfl
@[simp] theorem State.setCtx_shape (s : State) (k : Nat) (v : Ctx) : (s.setCtx k v).shape = s.shape := rfl
@[simp] theorem State.setCtx_berths (s : State) (k : Nat) (v : Ctx) : (s.setCtx k v).berths = s.berths := rfl
@[simp] theorem State.setCtx_cores (s : State) (k : Nat) (v : Ctx) : (s.setCtx k v).cores = s.cores := rfl
@[simp] theorem State.setCtx_stks (s : State) (k : Nat) (v : Ctx) : (s.setCtx k v).stks = s.stks := rfl
@[simp] theorem State.setCtx_mem (s : State) (k : Nat) (v : Ctx) : (s.setCtx k v).mem = s.mem := rfl
@[simp] theorem State.setCtx_hist (s : State) (k : Nat) (v : Ctx) : (s.setCtx k v).hist = s.hist := rfl
@[simp] theorem State.setCtx_sync (s : State) (k : Nat) (v : Ctx) : (s.setCtx k v).sync = s.sync := rfl
@[simp] theorem State.setCtx_poison (s : State) (k : Nat) (v : Ctx) : (s.setCtx k v).poison = s.poison := rfl
@[simp] theorem State.setCtx_vnum (s : State) (k : Nat) (v : Ctx) : (s.setCtx k v).vnum = s.vnum := rfl
@[simp] theorem State.setCtx_live (s : State) (k : Nat) (v : Ctx) : (s.setCtx k v).live = s.live := rfl
@[simp] theorem State.setCtx_shed (s : State) (k : Nat) (v : Ctx) : (s.setCtx k v).shed = s.shed := rfl
@[simp] theorem State.setCtx_gen (s : State) (k : Nat) (v : Ctx) : (s.setCtx k v).gen = s.gen := rfl
@[simp] theorem State.setCtx_act (s : State) (k : Nat) (v : Ctx) : (s.setCtx k v).act = s.act := rfl
@[simp] theorem State.setCtx_altv (s : State) (k : Nat) (v : Ctx) : (s.setCtx k v).altv = s.altv := rfl
@[simp] theorem State.setCtx_alt (s : State) (k : Nat) (v : Ctx) : (s.setCtx k v).alt = s.alt := rfl
@[simp] theorem State.setCtx_shown (s : State) (k : Nat) (v : Ctx) : (s.setCtx k v).shown = s.shown := rfl
@[simp] theorem State.setCtx_behind (s : State) (k : Nat) (v : Ctx) : (s.setCtx k v).behind = s.behind := rfl
@[simp] theorem State.setCtx_drn (s : State) (k : Nat) (v : Ctx) : (s.setCtx k v).drn = s.drn := rfl
@[simp] theorem State.setCtx_pendShed (s : State) (k : Nat) (v : Ctx) : (s.setCtx k v).pendShed = s.pendShed := rfl
@[simp] theorem State.setCtx_wantShed (s : State) (k : Nat) (v : Ctx) : (s.setCtx k v).wantShed = s.wantShed := rfl
@[simp] theorem State.setCtx_wantFence (s : State) (k : Nat) (v : Ctx) : (s.setCtx k v).wantFence = s.wantFence := rfl
@[simp] theorem State.setCtx_props (s : State) (k : Nat) (v : Ctx) : (s.setCtx k v).props = s.props := rfl
@[simp] theorem State.setCtx_reports (s : State) (k : Nat) (v : Ctx) : (s.setCtx k v).reports = s.reports := rfl
@[simp] theorem State.setCtx_svcTim (s : State) (k : Nat) (v : Ctx) : (s.setCtx k v).svcTim = s.svcTim := rfl
@[simp] theorem State.setCtx_svcTimNew (s : State) (k : Nat) (v : Ctx) : (s.setCtx k v).svcTimNew = s.svcTimNew := rfl
@[simp] theorem State.setCtx_svcSus (s : State) (k : Nat) (v : Ctx) : (s.setCtx k v).svcSus = s.svcSus := rfl
@[simp] theorem State.setCtx_life (s : State) (k : Nat) (v : Ctx) : (s.setCtx k v).life = s.life := rfl
@[simp] theorem State.setCtx_seed (s : State) (k : Nat) (v : Ctx) : (s.setCtx k v).seed = s.seed := rfl
@[simp] theorem State.setCtx_nonce (s : State) (k : Nat) (v : Ctx) : (s.setCtx k v).nonce = s.nonce := rfl
@[simp] theorem State.setCtx_report (s : State) (k : Nat) (v : Ctx) : (s.setCtx k v).report = s.report := rfl
@[simp] theorem State.setCtx_repBusy (s : State) (k : Nat) (v : Ctx) : (s.setCtx k v).repBusy = s.repBusy := rfl
@[simp] theorem State.setCtx_repReady (s : State) (k : Nat) (v : Ctx) : (s.setCtx k v).repReady = s.repReady := rfl
@[simp] theorem State.setCtx_token (s : State) (k : Nat) (v : Ctx) : (s.setCtx k v).token = s.token := rfl
@[simp] theorem State.setCtx_challenges (s : State) (k : Nat) (v : Ctx) : (s.setCtx k v).challenges = s.challenges := rfl
@[simp] theorem State.setCtx_features (s : State) (k : Nat) (v : Ctx) : (s.setCtx k v).features = s.features := rfl
@[simp] theorem State.setCtx_pcap (s : State) (k : Nat) (v : Ctx) : (s.setCtx k v).pcap = s.pcap := rfl
@[simp] theorem State.setCtx_qlist (s : State) (k : Nat) (v : Ctx) : (s.setCtx k v).qlist = s.qlist := rfl
@[simp] theorem State.setCtx_scrub (s : State) (k : Nat) (v : Ctx) : (s.setCtx k v).scrub = s.scrub := rfl
@[simp] theorem State.setCtx_msixT (s : State) (k : Nat) (v : Ctx) : (s.setCtx k v).msixT = s.msixT := rfl
@[simp] theorem State.setCtx_msixP (s : State) (k : Nat) (v : Ctx) : (s.setCtx k v).msixP = s.msixP := rfl
@[simp] theorem State.setCtx_atoms (s : State) (k : Nat) (v : Ctx) : (s.setCtx k v).atoms = s.atoms := rfl
@[simp] theorem State.setCtx_contribs (s : State) (k : Nat) (v : Ctx) : (s.setCtx k v).contribs = s.contribs := rfl
@[simp] theorem State.setCtx_tsubs (s : State) (k : Nat) (v : Ctx) : (s.setCtx k v).tsubs = s.tsubs := rfl
@[simp] theorem State.setCtx_deps (s : State) (k : Nat) (v : Ctx) : (s.setCtx k v).deps = s.deps := rfl
@[simp] theorem State.setCtx_meets (s : State) (k : Nat) (v : Ctx) : (s.setCtx k v).meets = s.meets := rfl
@[simp] theorem State.setCtx_mouts (s : State) (k : Nat) (v : Ctx) : (s.setCtx k v).mouts = s.mouts := rfl
@[simp] theorem State.setCtx_rmsgs (s : State) (k : Nat) (v : Ctx) : (s.setCtx k v).rmsgs = s.rmsgs := rfl
@[simp] theorem State.setCtx_mcs (s : State) (k : Nat) (v : Ctx) : (s.setCtx k v).mcs = s.mcs := rfl
@[simp] theorem State.setCtx_lacks (s : State) (k : Nat) (v : Ctx) : (s.setCtx k v).lacks = s.lacks := rfl
@[simp] theorem State.setCtx_migrs (s : State) (k : Nat) (v : Ctx) : (s.setCtx k v).migrs = s.migrs := rfl
@[simp] theorem State.setCtx_migQueue (s : State) (k : Nat) (v : Ctx) : (s.setCtx k v).migQueue = s.migQueue := rfl
@[simp] theorem State.setCtx_ev (s : State) (k : Nat) (v : Ctx) : (s.setCtx k v).ev = s.ev := rfl
@[simp] theorem State.setCtx_cur (s : State) (k : Nat) (v : Ctx) : (s.setCtx k v).cur = s.cur := rfl
@[simp] theorem State.setCtx_ir (s : State) (k : Nat) (v : Ctx) : (s.setCtx k v).ir = s.ir := rfl
@[simp] theorem State.setCtx_arg (s : State) (k : Nat) (v : Ctx) : (s.setCtx k v).arg = s.arg := rfl
@[simp] theorem State.setCtx_turn (s : State) (k : Nat) (v : Ctx) : (s.setCtx k v).turn = s.turn := rfl
@[simp] theorem State.setCtx_cont (s : State) (k : Nat) (v : Ctx) : (s.setCtx k v).cont = s.cont := rfl
@[simp] theorem State.setCtx_joined (s : State) (k : Nat) (v : Ctx) : (s.setCtx k v).joined = s.joined := rfl
@[simp] theorem State.setCtx_agenda (s : State) (k : Nat) (v : Ctx) : (s.setCtx k v).agenda = s.agenda := rfl
@[simp] theorem State.updBerth_shape (s : State) (k : Nat) (f : Berth → Berth) : (s.updBerth k f).shape = s.shape := rfl
@[simp] theorem State.updBerth_cores (s : State) (k : Nat) (f : Berth → Berth) : (s.updBerth k f).cores = s.cores := rfl
@[simp] theorem State.updBerth_stks (s : State) (k : Nat) (f : Berth → Berth) : (s.updBerth k f).stks = s.stks := rfl
@[simp] theorem State.updBerth_ctxs (s : State) (k : Nat) (f : Berth → Berth) : (s.updBerth k f).ctxs = s.ctxs := rfl
@[simp] theorem State.updBerth_mem (s : State) (k : Nat) (f : Berth → Berth) : (s.updBerth k f).mem = s.mem := rfl
@[simp] theorem State.updBerth_hist (s : State) (k : Nat) (f : Berth → Berth) : (s.updBerth k f).hist = s.hist := rfl
@[simp] theorem State.updBerth_sync (s : State) (k : Nat) (f : Berth → Berth) : (s.updBerth k f).sync = s.sync := rfl
@[simp] theorem State.updBerth_poison (s : State) (k : Nat) (f : Berth → Berth) : (s.updBerth k f).poison = s.poison := rfl
@[simp] theorem State.updBerth_vnum (s : State) (k : Nat) (f : Berth → Berth) : (s.updBerth k f).vnum = s.vnum := rfl
@[simp] theorem State.updBerth_live (s : State) (k : Nat) (f : Berth → Berth) : (s.updBerth k f).live = s.live := rfl
@[simp] theorem State.updBerth_shed (s : State) (k : Nat) (f : Berth → Berth) : (s.updBerth k f).shed = s.shed := rfl
@[simp] theorem State.updBerth_gen (s : State) (k : Nat) (f : Berth → Berth) : (s.updBerth k f).gen = s.gen := rfl
@[simp] theorem State.updBerth_act (s : State) (k : Nat) (f : Berth → Berth) : (s.updBerth k f).act = s.act := rfl
@[simp] theorem State.updBerth_altv (s : State) (k : Nat) (f : Berth → Berth) : (s.updBerth k f).altv = s.altv := rfl
@[simp] theorem State.updBerth_alt (s : State) (k : Nat) (f : Berth → Berth) : (s.updBerth k f).alt = s.alt := rfl
@[simp] theorem State.updBerth_shown (s : State) (k : Nat) (f : Berth → Berth) : (s.updBerth k f).shown = s.shown := rfl
@[simp] theorem State.updBerth_behind (s : State) (k : Nat) (f : Berth → Berth) : (s.updBerth k f).behind = s.behind := rfl
@[simp] theorem State.updBerth_drn (s : State) (k : Nat) (f : Berth → Berth) : (s.updBerth k f).drn = s.drn := rfl
@[simp] theorem State.updBerth_pendShed (s : State) (k : Nat) (f : Berth → Berth) : (s.updBerth k f).pendShed = s.pendShed := rfl
@[simp] theorem State.updBerth_wantShed (s : State) (k : Nat) (f : Berth → Berth) : (s.updBerth k f).wantShed = s.wantShed := rfl
@[simp] theorem State.updBerth_wantFence (s : State) (k : Nat) (f : Berth → Berth) : (s.updBerth k f).wantFence = s.wantFence := rfl
@[simp] theorem State.updBerth_props (s : State) (k : Nat) (f : Berth → Berth) : (s.updBerth k f).props = s.props := rfl
@[simp] theorem State.updBerth_reports (s : State) (k : Nat) (f : Berth → Berth) : (s.updBerth k f).reports = s.reports := rfl
@[simp] theorem State.updBerth_svcTim (s : State) (k : Nat) (f : Berth → Berth) : (s.updBerth k f).svcTim = s.svcTim := rfl
@[simp] theorem State.updBerth_svcTimNew (s : State) (k : Nat) (f : Berth → Berth) : (s.updBerth k f).svcTimNew = s.svcTimNew := rfl
@[simp] theorem State.updBerth_svcSus (s : State) (k : Nat) (f : Berth → Berth) : (s.updBerth k f).svcSus = s.svcSus := rfl
@[simp] theorem State.updBerth_life (s : State) (k : Nat) (f : Berth → Berth) : (s.updBerth k f).life = s.life := rfl
@[simp] theorem State.updBerth_seed (s : State) (k : Nat) (f : Berth → Berth) : (s.updBerth k f).seed = s.seed := rfl
@[simp] theorem State.updBerth_nonce (s : State) (k : Nat) (f : Berth → Berth) : (s.updBerth k f).nonce = s.nonce := rfl
@[simp] theorem State.updBerth_report (s : State) (k : Nat) (f : Berth → Berth) : (s.updBerth k f).report = s.report := rfl
@[simp] theorem State.updBerth_repBusy (s : State) (k : Nat) (f : Berth → Berth) : (s.updBerth k f).repBusy = s.repBusy := rfl
@[simp] theorem State.updBerth_repReady (s : State) (k : Nat) (f : Berth → Berth) : (s.updBerth k f).repReady = s.repReady := rfl
@[simp] theorem State.updBerth_token (s : State) (k : Nat) (f : Berth → Berth) : (s.updBerth k f).token = s.token := rfl
@[simp] theorem State.updBerth_challenges (s : State) (k : Nat) (f : Berth → Berth) : (s.updBerth k f).challenges = s.challenges := rfl
@[simp] theorem State.updBerth_features (s : State) (k : Nat) (f : Berth → Berth) : (s.updBerth k f).features = s.features := rfl
@[simp] theorem State.updBerth_pcap (s : State) (k : Nat) (f : Berth → Berth) : (s.updBerth k f).pcap = s.pcap := rfl
@[simp] theorem State.updBerth_qlist (s : State) (k : Nat) (f : Berth → Berth) : (s.updBerth k f).qlist = s.qlist := rfl
@[simp] theorem State.updBerth_scrub (s : State) (k : Nat) (f : Berth → Berth) : (s.updBerth k f).scrub = s.scrub := rfl
@[simp] theorem State.updBerth_msixT (s : State) (k : Nat) (f : Berth → Berth) : (s.updBerth k f).msixT = s.msixT := rfl
@[simp] theorem State.updBerth_msixP (s : State) (k : Nat) (f : Berth → Berth) : (s.updBerth k f).msixP = s.msixP := rfl
@[simp] theorem State.updBerth_atoms (s : State) (k : Nat) (f : Berth → Berth) : (s.updBerth k f).atoms = s.atoms := rfl
@[simp] theorem State.updBerth_contribs (s : State) (k : Nat) (f : Berth → Berth) : (s.updBerth k f).contribs = s.contribs := rfl
@[simp] theorem State.updBerth_tsubs (s : State) (k : Nat) (f : Berth → Berth) : (s.updBerth k f).tsubs = s.tsubs := rfl
@[simp] theorem State.updBerth_deps (s : State) (k : Nat) (f : Berth → Berth) : (s.updBerth k f).deps = s.deps := rfl
@[simp] theorem State.updBerth_meets (s : State) (k : Nat) (f : Berth → Berth) : (s.updBerth k f).meets = s.meets := rfl
@[simp] theorem State.updBerth_mouts (s : State) (k : Nat) (f : Berth → Berth) : (s.updBerth k f).mouts = s.mouts := rfl
@[simp] theorem State.updBerth_rmsgs (s : State) (k : Nat) (f : Berth → Berth) : (s.updBerth k f).rmsgs = s.rmsgs := rfl
@[simp] theorem State.updBerth_mcs (s : State) (k : Nat) (f : Berth → Berth) : (s.updBerth k f).mcs = s.mcs := rfl
@[simp] theorem State.updBerth_lacks (s : State) (k : Nat) (f : Berth → Berth) : (s.updBerth k f).lacks = s.lacks := rfl
@[simp] theorem State.updBerth_migrs (s : State) (k : Nat) (f : Berth → Berth) : (s.updBerth k f).migrs = s.migrs := rfl
@[simp] theorem State.updBerth_migQueue (s : State) (k : Nat) (f : Berth → Berth) : (s.updBerth k f).migQueue = s.migQueue := rfl
@[simp] theorem State.updBerth_ev (s : State) (k : Nat) (f : Berth → Berth) : (s.updBerth k f).ev = s.ev := rfl
@[simp] theorem State.updBerth_cur (s : State) (k : Nat) (f : Berth → Berth) : (s.updBerth k f).cur = s.cur := rfl
@[simp] theorem State.updBerth_ir (s : State) (k : Nat) (f : Berth → Berth) : (s.updBerth k f).ir = s.ir := rfl
@[simp] theorem State.updBerth_arg (s : State) (k : Nat) (f : Berth → Berth) : (s.updBerth k f).arg = s.arg := rfl
@[simp] theorem State.updBerth_turn (s : State) (k : Nat) (f : Berth → Berth) : (s.updBerth k f).turn = s.turn := rfl
@[simp] theorem State.updBerth_cont (s : State) (k : Nat) (f : Berth → Berth) : (s.updBerth k f).cont = s.cont := rfl
@[simp] theorem State.updBerth_joined (s : State) (k : Nat) (f : Berth → Berth) : (s.updBerth k f).joined = s.joined := rfl
@[simp] theorem State.updBerth_agenda (s : State) (k : Nat) (f : Berth → Berth) : (s.updBerth k f).agenda = s.agenda := rfl
@[simp] theorem State.updCore_shape (s : State) (k : Nat) (f : Core → Core) : (s.updCore k f).shape = s.shape := rfl
@[simp] theorem State.updCore_berths (s : State) (k : Nat) (f : Core → Core) : (s.updCore k f).berths = s.berths := rfl
@[simp] theorem State.updCore_stks (s : State) (k : Nat) (f : Core → Core) : (s.updCore k f).stks = s.stks := rfl
@[simp] theorem State.updCore_ctxs (s : State) (k : Nat) (f : Core → Core) : (s.updCore k f).ctxs = s.ctxs := rfl
@[simp] theorem State.updCore_mem (s : State) (k : Nat) (f : Core → Core) : (s.updCore k f).mem = s.mem := rfl
@[simp] theorem State.updCore_hist (s : State) (k : Nat) (f : Core → Core) : (s.updCore k f).hist = s.hist := rfl
@[simp] theorem State.updCore_sync (s : State) (k : Nat) (f : Core → Core) : (s.updCore k f).sync = s.sync := rfl
@[simp] theorem State.updCore_poison (s : State) (k : Nat) (f : Core → Core) : (s.updCore k f).poison = s.poison := rfl
@[simp] theorem State.updCore_vnum (s : State) (k : Nat) (f : Core → Core) : (s.updCore k f).vnum = s.vnum := rfl
@[simp] theorem State.updCore_live (s : State) (k : Nat) (f : Core → Core) : (s.updCore k f).live = s.live := rfl
@[simp] theorem State.updCore_shed (s : State) (k : Nat) (f : Core → Core) : (s.updCore k f).shed = s.shed := rfl
@[simp] theorem State.updCore_gen (s : State) (k : Nat) (f : Core → Core) : (s.updCore k f).gen = s.gen := rfl
@[simp] theorem State.updCore_act (s : State) (k : Nat) (f : Core → Core) : (s.updCore k f).act = s.act := rfl
@[simp] theorem State.updCore_altv (s : State) (k : Nat) (f : Core → Core) : (s.updCore k f).altv = s.altv := rfl
@[simp] theorem State.updCore_alt (s : State) (k : Nat) (f : Core → Core) : (s.updCore k f).alt = s.alt := rfl
@[simp] theorem State.updCore_shown (s : State) (k : Nat) (f : Core → Core) : (s.updCore k f).shown = s.shown := rfl
@[simp] theorem State.updCore_behind (s : State) (k : Nat) (f : Core → Core) : (s.updCore k f).behind = s.behind := rfl
@[simp] theorem State.updCore_drn (s : State) (k : Nat) (f : Core → Core) : (s.updCore k f).drn = s.drn := rfl
@[simp] theorem State.updCore_pendShed (s : State) (k : Nat) (f : Core → Core) : (s.updCore k f).pendShed = s.pendShed := rfl
@[simp] theorem State.updCore_wantShed (s : State) (k : Nat) (f : Core → Core) : (s.updCore k f).wantShed = s.wantShed := rfl
@[simp] theorem State.updCore_wantFence (s : State) (k : Nat) (f : Core → Core) : (s.updCore k f).wantFence = s.wantFence := rfl
@[simp] theorem State.updCore_props (s : State) (k : Nat) (f : Core → Core) : (s.updCore k f).props = s.props := rfl
@[simp] theorem State.updCore_reports (s : State) (k : Nat) (f : Core → Core) : (s.updCore k f).reports = s.reports := rfl
@[simp] theorem State.updCore_svcTim (s : State) (k : Nat) (f : Core → Core) : (s.updCore k f).svcTim = s.svcTim := rfl
@[simp] theorem State.updCore_svcTimNew (s : State) (k : Nat) (f : Core → Core) : (s.updCore k f).svcTimNew = s.svcTimNew := rfl
@[simp] theorem State.updCore_svcSus (s : State) (k : Nat) (f : Core → Core) : (s.updCore k f).svcSus = s.svcSus := rfl
@[simp] theorem State.updCore_life (s : State) (k : Nat) (f : Core → Core) : (s.updCore k f).life = s.life := rfl
@[simp] theorem State.updCore_seed (s : State) (k : Nat) (f : Core → Core) : (s.updCore k f).seed = s.seed := rfl
@[simp] theorem State.updCore_nonce (s : State) (k : Nat) (f : Core → Core) : (s.updCore k f).nonce = s.nonce := rfl
@[simp] theorem State.updCore_report (s : State) (k : Nat) (f : Core → Core) : (s.updCore k f).report = s.report := rfl
@[simp] theorem State.updCore_repBusy (s : State) (k : Nat) (f : Core → Core) : (s.updCore k f).repBusy = s.repBusy := rfl
@[simp] theorem State.updCore_repReady (s : State) (k : Nat) (f : Core → Core) : (s.updCore k f).repReady = s.repReady := rfl
@[simp] theorem State.updCore_token (s : State) (k : Nat) (f : Core → Core) : (s.updCore k f).token = s.token := rfl
@[simp] theorem State.updCore_challenges (s : State) (k : Nat) (f : Core → Core) : (s.updCore k f).challenges = s.challenges := rfl
@[simp] theorem State.updCore_features (s : State) (k : Nat) (f : Core → Core) : (s.updCore k f).features = s.features := rfl
@[simp] theorem State.updCore_pcap (s : State) (k : Nat) (f : Core → Core) : (s.updCore k f).pcap = s.pcap := rfl
@[simp] theorem State.updCore_qlist (s : State) (k : Nat) (f : Core → Core) : (s.updCore k f).qlist = s.qlist := rfl
@[simp] theorem State.updCore_scrub (s : State) (k : Nat) (f : Core → Core) : (s.updCore k f).scrub = s.scrub := rfl
@[simp] theorem State.updCore_msixT (s : State) (k : Nat) (f : Core → Core) : (s.updCore k f).msixT = s.msixT := rfl
@[simp] theorem State.updCore_msixP (s : State) (k : Nat) (f : Core → Core) : (s.updCore k f).msixP = s.msixP := rfl
@[simp] theorem State.updCore_atoms (s : State) (k : Nat) (f : Core → Core) : (s.updCore k f).atoms = s.atoms := rfl
@[simp] theorem State.updCore_contribs (s : State) (k : Nat) (f : Core → Core) : (s.updCore k f).contribs = s.contribs := rfl
@[simp] theorem State.updCore_tsubs (s : State) (k : Nat) (f : Core → Core) : (s.updCore k f).tsubs = s.tsubs := rfl
@[simp] theorem State.updCore_deps (s : State) (k : Nat) (f : Core → Core) : (s.updCore k f).deps = s.deps := rfl
@[simp] theorem State.updCore_meets (s : State) (k : Nat) (f : Core → Core) : (s.updCore k f).meets = s.meets := rfl
@[simp] theorem State.updCore_mouts (s : State) (k : Nat) (f : Core → Core) : (s.updCore k f).mouts = s.mouts := rfl
@[simp] theorem State.updCore_rmsgs (s : State) (k : Nat) (f : Core → Core) : (s.updCore k f).rmsgs = s.rmsgs := rfl
@[simp] theorem State.updCore_mcs (s : State) (k : Nat) (f : Core → Core) : (s.updCore k f).mcs = s.mcs := rfl
@[simp] theorem State.updCore_lacks (s : State) (k : Nat) (f : Core → Core) : (s.updCore k f).lacks = s.lacks := rfl
@[simp] theorem State.updCore_migrs (s : State) (k : Nat) (f : Core → Core) : (s.updCore k f).migrs = s.migrs := rfl
@[simp] theorem State.updCore_migQueue (s : State) (k : Nat) (f : Core → Core) : (s.updCore k f).migQueue = s.migQueue := rfl
@[simp] theorem State.updCore_ev (s : State) (k : Nat) (f : Core → Core) : (s.updCore k f).ev = s.ev := rfl
@[simp] theorem State.updCore_cur (s : State) (k : Nat) (f : Core → Core) : (s.updCore k f).cur = s.cur := rfl
@[simp] theorem State.updCore_ir (s : State) (k : Nat) (f : Core → Core) : (s.updCore k f).ir = s.ir := rfl
@[simp] theorem State.updCore_arg (s : State) (k : Nat) (f : Core → Core) : (s.updCore k f).arg = s.arg := rfl
@[simp] theorem State.updCore_turn (s : State) (k : Nat) (f : Core → Core) : (s.updCore k f).turn = s.turn := rfl
@[simp] theorem State.updCore_cont (s : State) (k : Nat) (f : Core → Core) : (s.updCore k f).cont = s.cont := rfl
@[simp] theorem State.updCore_joined (s : State) (k : Nat) (f : Core → Core) : (s.updCore k f).joined = s.joined := rfl
@[simp] theorem State.updCore_agenda (s : State) (k : Nat) (f : Core → Core) : (s.updCore k f).agenda = s.agenda := rfl
@[simp] theorem State.updStack_shape (s : State) (k : Nat) (f : Stack → Stack) : (s.updStack k f).shape = s.shape := rfl
@[simp] theorem State.updStack_berths (s : State) (k : Nat) (f : Stack → Stack) : (s.updStack k f).berths = s.berths := rfl
@[simp] theorem State.updStack_cores (s : State) (k : Nat) (f : Stack → Stack) : (s.updStack k f).cores = s.cores := rfl
@[simp] theorem State.updStack_ctxs (s : State) (k : Nat) (f : Stack → Stack) : (s.updStack k f).ctxs = s.ctxs := rfl
@[simp] theorem State.updStack_mem (s : State) (k : Nat) (f : Stack → Stack) : (s.updStack k f).mem = s.mem := rfl
@[simp] theorem State.updStack_hist (s : State) (k : Nat) (f : Stack → Stack) : (s.updStack k f).hist = s.hist := rfl
@[simp] theorem State.updStack_sync (s : State) (k : Nat) (f : Stack → Stack) : (s.updStack k f).sync = s.sync := rfl
@[simp] theorem State.updStack_poison (s : State) (k : Nat) (f : Stack → Stack) : (s.updStack k f).poison = s.poison := rfl
@[simp] theorem State.updStack_vnum (s : State) (k : Nat) (f : Stack → Stack) : (s.updStack k f).vnum = s.vnum := rfl
@[simp] theorem State.updStack_live (s : State) (k : Nat) (f : Stack → Stack) : (s.updStack k f).live = s.live := rfl
@[simp] theorem State.updStack_shed (s : State) (k : Nat) (f : Stack → Stack) : (s.updStack k f).shed = s.shed := rfl
@[simp] theorem State.updStack_gen (s : State) (k : Nat) (f : Stack → Stack) : (s.updStack k f).gen = s.gen := rfl
@[simp] theorem State.updStack_act (s : State) (k : Nat) (f : Stack → Stack) : (s.updStack k f).act = s.act := rfl
@[simp] theorem State.updStack_altv (s : State) (k : Nat) (f : Stack → Stack) : (s.updStack k f).altv = s.altv := rfl
@[simp] theorem State.updStack_alt (s : State) (k : Nat) (f : Stack → Stack) : (s.updStack k f).alt = s.alt := rfl
@[simp] theorem State.updStack_shown (s : State) (k : Nat) (f : Stack → Stack) : (s.updStack k f).shown = s.shown := rfl
@[simp] theorem State.updStack_behind (s : State) (k : Nat) (f : Stack → Stack) : (s.updStack k f).behind = s.behind := rfl
@[simp] theorem State.updStack_drn (s : State) (k : Nat) (f : Stack → Stack) : (s.updStack k f).drn = s.drn := rfl
@[simp] theorem State.updStack_pendShed (s : State) (k : Nat) (f : Stack → Stack) : (s.updStack k f).pendShed = s.pendShed := rfl
@[simp] theorem State.updStack_wantShed (s : State) (k : Nat) (f : Stack → Stack) : (s.updStack k f).wantShed = s.wantShed := rfl
@[simp] theorem State.updStack_wantFence (s : State) (k : Nat) (f : Stack → Stack) : (s.updStack k f).wantFence = s.wantFence := rfl
@[simp] theorem State.updStack_props (s : State) (k : Nat) (f : Stack → Stack) : (s.updStack k f).props = s.props := rfl
@[simp] theorem State.updStack_reports (s : State) (k : Nat) (f : Stack → Stack) : (s.updStack k f).reports = s.reports := rfl
@[simp] theorem State.updStack_svcTim (s : State) (k : Nat) (f : Stack → Stack) : (s.updStack k f).svcTim = s.svcTim := rfl
@[simp] theorem State.updStack_svcTimNew (s : State) (k : Nat) (f : Stack → Stack) : (s.updStack k f).svcTimNew = s.svcTimNew := rfl
@[simp] theorem State.updStack_svcSus (s : State) (k : Nat) (f : Stack → Stack) : (s.updStack k f).svcSus = s.svcSus := rfl
@[simp] theorem State.updStack_life (s : State) (k : Nat) (f : Stack → Stack) : (s.updStack k f).life = s.life := rfl
@[simp] theorem State.updStack_seed (s : State) (k : Nat) (f : Stack → Stack) : (s.updStack k f).seed = s.seed := rfl
@[simp] theorem State.updStack_nonce (s : State) (k : Nat) (f : Stack → Stack) : (s.updStack k f).nonce = s.nonce := rfl
@[simp] theorem State.updStack_report (s : State) (k : Nat) (f : Stack → Stack) : (s.updStack k f).report = s.report := rfl
@[simp] theorem State.updStack_repBusy (s : State) (k : Nat) (f : Stack → Stack) : (s.updStack k f).repBusy = s.repBusy := rfl
@[simp] theorem State.updStack_repReady (s : State) (k : Nat) (f : Stack → Stack) : (s.updStack k f).repReady = s.repReady := rfl
@[simp] theorem State.updStack_token (s : State) (k : Nat) (f : Stack → Stack) : (s.updStack k f).token = s.token := rfl
@[simp] theorem State.updStack_challenges (s : State) (k : Nat) (f : Stack → Stack) : (s.updStack k f).challenges = s.challenges := rfl
@[simp] theorem State.updStack_features (s : State) (k : Nat) (f : Stack → Stack) : (s.updStack k f).features = s.features := rfl
@[simp] theorem State.updStack_pcap (s : State) (k : Nat) (f : Stack → Stack) : (s.updStack k f).pcap = s.pcap := rfl
@[simp] theorem State.updStack_qlist (s : State) (k : Nat) (f : Stack → Stack) : (s.updStack k f).qlist = s.qlist := rfl
@[simp] theorem State.updStack_scrub (s : State) (k : Nat) (f : Stack → Stack) : (s.updStack k f).scrub = s.scrub := rfl
@[simp] theorem State.updStack_msixT (s : State) (k : Nat) (f : Stack → Stack) : (s.updStack k f).msixT = s.msixT := rfl
@[simp] theorem State.updStack_msixP (s : State) (k : Nat) (f : Stack → Stack) : (s.updStack k f).msixP = s.msixP := rfl
@[simp] theorem State.updStack_atoms (s : State) (k : Nat) (f : Stack → Stack) : (s.updStack k f).atoms = s.atoms := rfl
@[simp] theorem State.updStack_contribs (s : State) (k : Nat) (f : Stack → Stack) : (s.updStack k f).contribs = s.contribs := rfl
@[simp] theorem State.updStack_tsubs (s : State) (k : Nat) (f : Stack → Stack) : (s.updStack k f).tsubs = s.tsubs := rfl
@[simp] theorem State.updStack_deps (s : State) (k : Nat) (f : Stack → Stack) : (s.updStack k f).deps = s.deps := rfl
@[simp] theorem State.updStack_meets (s : State) (k : Nat) (f : Stack → Stack) : (s.updStack k f).meets = s.meets := rfl
@[simp] theorem State.updStack_mouts (s : State) (k : Nat) (f : Stack → Stack) : (s.updStack k f).mouts = s.mouts := rfl
@[simp] theorem State.updStack_rmsgs (s : State) (k : Nat) (f : Stack → Stack) : (s.updStack k f).rmsgs = s.rmsgs := rfl
@[simp] theorem State.updStack_mcs (s : State) (k : Nat) (f : Stack → Stack) : (s.updStack k f).mcs = s.mcs := rfl
@[simp] theorem State.updStack_lacks (s : State) (k : Nat) (f : Stack → Stack) : (s.updStack k f).lacks = s.lacks := rfl
@[simp] theorem State.updStack_migrs (s : State) (k : Nat) (f : Stack → Stack) : (s.updStack k f).migrs = s.migrs := rfl
@[simp] theorem State.updStack_migQueue (s : State) (k : Nat) (f : Stack → Stack) : (s.updStack k f).migQueue = s.migQueue := rfl
@[simp] theorem State.updStack_ev (s : State) (k : Nat) (f : Stack → Stack) : (s.updStack k f).ev = s.ev := rfl
@[simp] theorem State.updStack_cur (s : State) (k : Nat) (f : Stack → Stack) : (s.updStack k f).cur = s.cur := rfl
@[simp] theorem State.updStack_ir (s : State) (k : Nat) (f : Stack → Stack) : (s.updStack k f).ir = s.ir := rfl
@[simp] theorem State.updStack_arg (s : State) (k : Nat) (f : Stack → Stack) : (s.updStack k f).arg = s.arg := rfl
@[simp] theorem State.updStack_turn (s : State) (k : Nat) (f : Stack → Stack) : (s.updStack k f).turn = s.turn := rfl
@[simp] theorem State.updStack_cont (s : State) (k : Nat) (f : Stack → Stack) : (s.updStack k f).cont = s.cont := rfl
@[simp] theorem State.updStack_joined (s : State) (k : Nat) (f : Stack → Stack) : (s.updStack k f).joined = s.joined := rfl
@[simp] theorem State.updStack_agenda (s : State) (k : Nat) (f : Stack → Stack) : (s.updStack k f).agenda = s.agenda := rfl
@[simp] theorem State.updCtx_shape (s : State) (k : Nat) (f : Ctx → Ctx) : (s.updCtx k f).shape = s.shape := rfl
@[simp] theorem State.updCtx_berths (s : State) (k : Nat) (f : Ctx → Ctx) : (s.updCtx k f).berths = s.berths := rfl
@[simp] theorem State.updCtx_cores (s : State) (k : Nat) (f : Ctx → Ctx) : (s.updCtx k f).cores = s.cores := rfl
@[simp] theorem State.updCtx_stks (s : State) (k : Nat) (f : Ctx → Ctx) : (s.updCtx k f).stks = s.stks := rfl
@[simp] theorem State.updCtx_mem (s : State) (k : Nat) (f : Ctx → Ctx) : (s.updCtx k f).mem = s.mem := rfl
@[simp] theorem State.updCtx_hist (s : State) (k : Nat) (f : Ctx → Ctx) : (s.updCtx k f).hist = s.hist := rfl
@[simp] theorem State.updCtx_sync (s : State) (k : Nat) (f : Ctx → Ctx) : (s.updCtx k f).sync = s.sync := rfl
@[simp] theorem State.updCtx_poison (s : State) (k : Nat) (f : Ctx → Ctx) : (s.updCtx k f).poison = s.poison := rfl
@[simp] theorem State.updCtx_vnum (s : State) (k : Nat) (f : Ctx → Ctx) : (s.updCtx k f).vnum = s.vnum := rfl
@[simp] theorem State.updCtx_live (s : State) (k : Nat) (f : Ctx → Ctx) : (s.updCtx k f).live = s.live := rfl
@[simp] theorem State.updCtx_shed (s : State) (k : Nat) (f : Ctx → Ctx) : (s.updCtx k f).shed = s.shed := rfl
@[simp] theorem State.updCtx_gen (s : State) (k : Nat) (f : Ctx → Ctx) : (s.updCtx k f).gen = s.gen := rfl
@[simp] theorem State.updCtx_act (s : State) (k : Nat) (f : Ctx → Ctx) : (s.updCtx k f).act = s.act := rfl
@[simp] theorem State.updCtx_altv (s : State) (k : Nat) (f : Ctx → Ctx) : (s.updCtx k f).altv = s.altv := rfl
@[simp] theorem State.updCtx_alt (s : State) (k : Nat) (f : Ctx → Ctx) : (s.updCtx k f).alt = s.alt := rfl
@[simp] theorem State.updCtx_shown (s : State) (k : Nat) (f : Ctx → Ctx) : (s.updCtx k f).shown = s.shown := rfl
@[simp] theorem State.updCtx_behind (s : State) (k : Nat) (f : Ctx → Ctx) : (s.updCtx k f).behind = s.behind := rfl
@[simp] theorem State.updCtx_drn (s : State) (k : Nat) (f : Ctx → Ctx) : (s.updCtx k f).drn = s.drn := rfl
@[simp] theorem State.updCtx_pendShed (s : State) (k : Nat) (f : Ctx → Ctx) : (s.updCtx k f).pendShed = s.pendShed := rfl
@[simp] theorem State.updCtx_wantShed (s : State) (k : Nat) (f : Ctx → Ctx) : (s.updCtx k f).wantShed = s.wantShed := rfl
@[simp] theorem State.updCtx_wantFence (s : State) (k : Nat) (f : Ctx → Ctx) : (s.updCtx k f).wantFence = s.wantFence := rfl
@[simp] theorem State.updCtx_props (s : State) (k : Nat) (f : Ctx → Ctx) : (s.updCtx k f).props = s.props := rfl
@[simp] theorem State.updCtx_reports (s : State) (k : Nat) (f : Ctx → Ctx) : (s.updCtx k f).reports = s.reports := rfl
@[simp] theorem State.updCtx_svcTim (s : State) (k : Nat) (f : Ctx → Ctx) : (s.updCtx k f).svcTim = s.svcTim := rfl
@[simp] theorem State.updCtx_svcTimNew (s : State) (k : Nat) (f : Ctx → Ctx) : (s.updCtx k f).svcTimNew = s.svcTimNew := rfl
@[simp] theorem State.updCtx_svcSus (s : State) (k : Nat) (f : Ctx → Ctx) : (s.updCtx k f).svcSus = s.svcSus := rfl
@[simp] theorem State.updCtx_life (s : State) (k : Nat) (f : Ctx → Ctx) : (s.updCtx k f).life = s.life := rfl
@[simp] theorem State.updCtx_seed (s : State) (k : Nat) (f : Ctx → Ctx) : (s.updCtx k f).seed = s.seed := rfl
@[simp] theorem State.updCtx_nonce (s : State) (k : Nat) (f : Ctx → Ctx) : (s.updCtx k f).nonce = s.nonce := rfl
@[simp] theorem State.updCtx_report (s : State) (k : Nat) (f : Ctx → Ctx) : (s.updCtx k f).report = s.report := rfl
@[simp] theorem State.updCtx_repBusy (s : State) (k : Nat) (f : Ctx → Ctx) : (s.updCtx k f).repBusy = s.repBusy := rfl
@[simp] theorem State.updCtx_repReady (s : State) (k : Nat) (f : Ctx → Ctx) : (s.updCtx k f).repReady = s.repReady := rfl
@[simp] theorem State.updCtx_token (s : State) (k : Nat) (f : Ctx → Ctx) : (s.updCtx k f).token = s.token := rfl
@[simp] theorem State.updCtx_challenges (s : State) (k : Nat) (f : Ctx → Ctx) : (s.updCtx k f).challenges = s.challenges := rfl
@[simp] theorem State.updCtx_features (s : State) (k : Nat) (f : Ctx → Ctx) : (s.updCtx k f).features = s.features := rfl
@[simp] theorem State.updCtx_pcap (s : State) (k : Nat) (f : Ctx → Ctx) : (s.updCtx k f).pcap = s.pcap := rfl
@[simp] theorem State.updCtx_qlist (s : State) (k : Nat) (f : Ctx → Ctx) : (s.updCtx k f).qlist = s.qlist := rfl
@[simp] theorem State.updCtx_scrub (s : State) (k : Nat) (f : Ctx → Ctx) : (s.updCtx k f).scrub = s.scrub := rfl
@[simp] theorem State.updCtx_msixT (s : State) (k : Nat) (f : Ctx → Ctx) : (s.updCtx k f).msixT = s.msixT := rfl
@[simp] theorem State.updCtx_msixP (s : State) (k : Nat) (f : Ctx → Ctx) : (s.updCtx k f).msixP = s.msixP := rfl
@[simp] theorem State.updCtx_atoms (s : State) (k : Nat) (f : Ctx → Ctx) : (s.updCtx k f).atoms = s.atoms := rfl
@[simp] theorem State.updCtx_contribs (s : State) (k : Nat) (f : Ctx → Ctx) : (s.updCtx k f).contribs = s.contribs := rfl
@[simp] theorem State.updCtx_tsubs (s : State) (k : Nat) (f : Ctx → Ctx) : (s.updCtx k f).tsubs = s.tsubs := rfl
@[simp] theorem State.updCtx_deps (s : State) (k : Nat) (f : Ctx → Ctx) : (s.updCtx k f).deps = s.deps := rfl
@[simp] theorem State.updCtx_meets (s : State) (k : Nat) (f : Ctx → Ctx) : (s.updCtx k f).meets = s.meets := rfl
@[simp] theorem State.updCtx_mouts (s : State) (k : Nat) (f : Ctx → Ctx) : (s.updCtx k f).mouts = s.mouts := rfl
@[simp] theorem State.updCtx_rmsgs (s : State) (k : Nat) (f : Ctx → Ctx) : (s.updCtx k f).rmsgs = s.rmsgs := rfl
@[simp] theorem State.updCtx_mcs (s : State) (k : Nat) (f : Ctx → Ctx) : (s.updCtx k f).mcs = s.mcs := rfl
@[simp] theorem State.updCtx_lacks (s : State) (k : Nat) (f : Ctx → Ctx) : (s.updCtx k f).lacks = s.lacks := rfl
@[simp] theorem State.updCtx_migrs (s : State) (k : Nat) (f : Ctx → Ctx) : (s.updCtx k f).migrs = s.migrs := rfl
@[simp] theorem State.updCtx_migQueue (s : State) (k : Nat) (f : Ctx → Ctx) : (s.updCtx k f).migQueue = s.migQueue := rfl
@[simp] theorem State.updCtx_ev (s : State) (k : Nat) (f : Ctx → Ctx) : (s.updCtx k f).ev = s.ev := rfl
@[simp] theorem State.updCtx_cur (s : State) (k : Nat) (f : Ctx → Ctx) : (s.updCtx k f).cur = s.cur := rfl
@[simp] theorem State.updCtx_ir (s : State) (k : Nat) (f : Ctx → Ctx) : (s.updCtx k f).ir = s.ir := rfl
@[simp] theorem State.updCtx_arg (s : State) (k : Nat) (f : Ctx → Ctx) : (s.updCtx k f).arg = s.arg := rfl
@[simp] theorem State.updCtx_turn (s : State) (k : Nat) (f : Ctx → Ctx) : (s.updCtx k f).turn = s.turn := rfl
@[simp] theorem State.updCtx_cont (s : State) (k : Nat) (f : Ctx → Ctx) : (s.updCtx k f).cont = s.cont := rfl
@[simp] theorem State.updCtx_joined (s : State) (k : Nat) (f : Ctx → Ctx) : (s.updCtx k f).joined = s.joined := rfl
@[simp] theorem State.updCtx_agenda (s : State) (k : Nat) (f : Ctx → Ctx) : (s.updCtx k f).agenda = s.agenda := rfl
@[simp] theorem State.upd_shape (s : State) (f : Berth → Berth) : (s.upd f).shape = s.shape := rfl
@[simp] theorem State.upd_cores (s : State) (f : Berth → Berth) : (s.upd f).cores = s.cores := rfl
@[simp] theorem State.upd_stks (s : State) (f : Berth → Berth) : (s.upd f).stks = s.stks := rfl
@[simp] theorem State.upd_ctxs (s : State) (f : Berth → Berth) : (s.upd f).ctxs = s.ctxs := rfl
@[simp] theorem State.upd_mem (s : State) (f : Berth → Berth) : (s.upd f).mem = s.mem := rfl
@[simp] theorem State.upd_hist (s : State) (f : Berth → Berth) : (s.upd f).hist = s.hist := rfl
@[simp] theorem State.upd_sync (s : State) (f : Berth → Berth) : (s.upd f).sync = s.sync := rfl
@[simp] theorem State.upd_poison (s : State) (f : Berth → Berth) : (s.upd f).poison = s.poison := rfl
@[simp] theorem State.upd_vnum (s : State) (f : Berth → Berth) : (s.upd f).vnum = s.vnum := rfl
@[simp] theorem State.upd_live (s : State) (f : Berth → Berth) : (s.upd f).live = s.live := rfl
@[simp] theorem State.upd_shed (s : State) (f : Berth → Berth) : (s.upd f).shed = s.shed := rfl
@[simp] theorem State.upd_gen (s : State) (f : Berth → Berth) : (s.upd f).gen = s.gen := rfl
@[simp] theorem State.upd_act (s : State) (f : Berth → Berth) : (s.upd f).act = s.act := rfl
@[simp] theorem State.upd_altv (s : State) (f : Berth → Berth) : (s.upd f).altv = s.altv := rfl
@[simp] theorem State.upd_alt (s : State) (f : Berth → Berth) : (s.upd f).alt = s.alt := rfl
@[simp] theorem State.upd_shown (s : State) (f : Berth → Berth) : (s.upd f).shown = s.shown := rfl
@[simp] theorem State.upd_behind (s : State) (f : Berth → Berth) : (s.upd f).behind = s.behind := rfl
@[simp] theorem State.upd_drn (s : State) (f : Berth → Berth) : (s.upd f).drn = s.drn := rfl
@[simp] theorem State.upd_pendShed (s : State) (f : Berth → Berth) : (s.upd f).pendShed = s.pendShed := rfl
@[simp] theorem State.upd_wantShed (s : State) (f : Berth → Berth) : (s.upd f).wantShed = s.wantShed := rfl
@[simp] theorem State.upd_wantFence (s : State) (f : Berth → Berth) : (s.upd f).wantFence = s.wantFence := rfl
@[simp] theorem State.upd_props (s : State) (f : Berth → Berth) : (s.upd f).props = s.props := rfl
@[simp] theorem State.upd_reports (s : State) (f : Berth → Berth) : (s.upd f).reports = s.reports := rfl
@[simp] theorem State.upd_svcTim (s : State) (f : Berth → Berth) : (s.upd f).svcTim = s.svcTim := rfl
@[simp] theorem State.upd_svcTimNew (s : State) (f : Berth → Berth) : (s.upd f).svcTimNew = s.svcTimNew := rfl
@[simp] theorem State.upd_svcSus (s : State) (f : Berth → Berth) : (s.upd f).svcSus = s.svcSus := rfl
@[simp] theorem State.upd_life (s : State) (f : Berth → Berth) : (s.upd f).life = s.life := rfl
@[simp] theorem State.upd_seed (s : State) (f : Berth → Berth) : (s.upd f).seed = s.seed := rfl
@[simp] theorem State.upd_nonce (s : State) (f : Berth → Berth) : (s.upd f).nonce = s.nonce := rfl
@[simp] theorem State.upd_report (s : State) (f : Berth → Berth) : (s.upd f).report = s.report := rfl
@[simp] theorem State.upd_repBusy (s : State) (f : Berth → Berth) : (s.upd f).repBusy = s.repBusy := rfl
@[simp] theorem State.upd_repReady (s : State) (f : Berth → Berth) : (s.upd f).repReady = s.repReady := rfl
@[simp] theorem State.upd_token (s : State) (f : Berth → Berth) : (s.upd f).token = s.token := rfl
@[simp] theorem State.upd_challenges (s : State) (f : Berth → Berth) : (s.upd f).challenges = s.challenges := rfl
@[simp] theorem State.upd_features (s : State) (f : Berth → Berth) : (s.upd f).features = s.features := rfl
@[simp] theorem State.upd_pcap (s : State) (f : Berth → Berth) : (s.upd f).pcap = s.pcap := rfl
@[simp] theorem State.upd_qlist (s : State) (f : Berth → Berth) : (s.upd f).qlist = s.qlist := rfl
@[simp] theorem State.upd_scrub (s : State) (f : Berth → Berth) : (s.upd f).scrub = s.scrub := rfl
@[simp] theorem State.upd_msixT (s : State) (f : Berth → Berth) : (s.upd f).msixT = s.msixT := rfl
@[simp] theorem State.upd_msixP (s : State) (f : Berth → Berth) : (s.upd f).msixP = s.msixP := rfl
@[simp] theorem State.upd_atoms (s : State) (f : Berth → Berth) : (s.upd f).atoms = s.atoms := rfl
@[simp] theorem State.upd_contribs (s : State) (f : Berth → Berth) : (s.upd f).contribs = s.contribs := rfl
@[simp] theorem State.upd_tsubs (s : State) (f : Berth → Berth) : (s.upd f).tsubs = s.tsubs := rfl
@[simp] theorem State.upd_deps (s : State) (f : Berth → Berth) : (s.upd f).deps = s.deps := rfl
@[simp] theorem State.upd_meets (s : State) (f : Berth → Berth) : (s.upd f).meets = s.meets := rfl
@[simp] theorem State.upd_mouts (s : State) (f : Berth → Berth) : (s.upd f).mouts = s.mouts := rfl
@[simp] theorem State.upd_rmsgs (s : State) (f : Berth → Berth) : (s.upd f).rmsgs = s.rmsgs := rfl
@[simp] theorem State.upd_mcs (s : State) (f : Berth → Berth) : (s.upd f).mcs = s.mcs := rfl
@[simp] theorem State.upd_lacks (s : State) (f : Berth → Berth) : (s.upd f).lacks = s.lacks := rfl
@[simp] theorem State.upd_migrs (s : State) (f : Berth → Berth) : (s.upd f).migrs = s.migrs := rfl
@[simp] theorem State.upd_migQueue (s : State) (f : Berth → Berth) : (s.upd f).migQueue = s.migQueue := rfl
@[simp] theorem State.upd_ev (s : State) (f : Berth → Berth) : (s.upd f).ev = s.ev := rfl
@[simp] theorem State.upd_cur (s : State) (f : Berth → Berth) : (s.upd f).cur = s.cur := rfl
@[simp] theorem State.upd_ir (s : State) (f : Berth → Berth) : (s.upd f).ir = s.ir := rfl
@[simp] theorem State.upd_arg (s : State) (f : Berth → Berth) : (s.upd f).arg = s.arg := rfl
@[simp] theorem State.upd_turn (s : State) (f : Berth → Berth) : (s.upd f).turn = s.turn := rfl
@[simp] theorem State.upd_cont (s : State) (f : Berth → Berth) : (s.upd f).cont = s.cont := rfl
@[simp] theorem State.upd_joined (s : State) (f : Berth → Berth) : (s.upd f).joined = s.joined := rfl
@[simp] theorem State.upd_agenda (s : State) (f : Berth → Berth) : (s.upd f).agenda = s.agenda := rfl
@[simp] theorem State.msix_shape (s : State) (v : Nat) : (s.msix v).shape = s.shape := rfl
@[simp] theorem State.msix_berths (s : State) (v : Nat) : (s.msix v).berths = s.berths := rfl
@[simp] theorem State.msix_cores (s : State) (v : Nat) : (s.msix v).cores = s.cores := rfl
@[simp] theorem State.msix_stks (s : State) (v : Nat) : (s.msix v).stks = s.stks := rfl
@[simp] theorem State.msix_ctxs (s : State) (v : Nat) : (s.msix v).ctxs = s.ctxs := rfl
@[simp] theorem State.msix_mem (s : State) (v : Nat) : (s.msix v).mem = s.mem := rfl
@[simp] theorem State.msix_hist (s : State) (v : Nat) : (s.msix v).hist = s.hist := rfl
@[simp] theorem State.msix_sync (s : State) (v : Nat) : (s.msix v).sync = s.sync := rfl
@[simp] theorem State.msix_poison (s : State) (v : Nat) : (s.msix v).poison = s.poison := rfl
@[simp] theorem State.msix_vnum (s : State) (v : Nat) : (s.msix v).vnum = s.vnum := rfl
@[simp] theorem State.msix_live (s : State) (v : Nat) : (s.msix v).live = s.live := rfl
@[simp] theorem State.msix_shed (s : State) (v : Nat) : (s.msix v).shed = s.shed := rfl
@[simp] theorem State.msix_gen (s : State) (v : Nat) : (s.msix v).gen = s.gen := rfl
@[simp] theorem State.msix_act (s : State) (v : Nat) : (s.msix v).act = s.act := rfl
@[simp] theorem State.msix_altv (s : State) (v : Nat) : (s.msix v).altv = s.altv := rfl
@[simp] theorem State.msix_alt (s : State) (v : Nat) : (s.msix v).alt = s.alt := rfl
@[simp] theorem State.msix_shown (s : State) (v : Nat) : (s.msix v).shown = s.shown := rfl
@[simp] theorem State.msix_behind (s : State) (v : Nat) : (s.msix v).behind = s.behind := rfl
@[simp] theorem State.msix_drn (s : State) (v : Nat) : (s.msix v).drn = s.drn := rfl
@[simp] theorem State.msix_pendShed (s : State) (v : Nat) : (s.msix v).pendShed = s.pendShed := rfl
@[simp] theorem State.msix_wantShed (s : State) (v : Nat) : (s.msix v).wantShed = s.wantShed := rfl
@[simp] theorem State.msix_wantFence (s : State) (v : Nat) : (s.msix v).wantFence = s.wantFence := rfl
@[simp] theorem State.msix_props (s : State) (v : Nat) : (s.msix v).props = s.props := rfl
@[simp] theorem State.msix_reports (s : State) (v : Nat) : (s.msix v).reports = s.reports := rfl
@[simp] theorem State.msix_svcTim (s : State) (v : Nat) : (s.msix v).svcTim = s.svcTim := rfl
@[simp] theorem State.msix_svcTimNew (s : State) (v : Nat) : (s.msix v).svcTimNew = s.svcTimNew := rfl
@[simp] theorem State.msix_svcSus (s : State) (v : Nat) : (s.msix v).svcSus = s.svcSus := rfl
@[simp] theorem State.msix_life (s : State) (v : Nat) : (s.msix v).life = s.life := rfl
@[simp] theorem State.msix_seed (s : State) (v : Nat) : (s.msix v).seed = s.seed := rfl
@[simp] theorem State.msix_nonce (s : State) (v : Nat) : (s.msix v).nonce = s.nonce := rfl
@[simp] theorem State.msix_report (s : State) (v : Nat) : (s.msix v).report = s.report := rfl
@[simp] theorem State.msix_repBusy (s : State) (v : Nat) : (s.msix v).repBusy = s.repBusy := rfl
@[simp] theorem State.msix_repReady (s : State) (v : Nat) : (s.msix v).repReady = s.repReady := rfl
@[simp] theorem State.msix_token (s : State) (v : Nat) : (s.msix v).token = s.token := rfl
@[simp] theorem State.msix_challenges (s : State) (v : Nat) : (s.msix v).challenges = s.challenges := rfl
@[simp] theorem State.msix_features (s : State) (v : Nat) : (s.msix v).features = s.features := rfl
@[simp] theorem State.msix_pcap (s : State) (v : Nat) : (s.msix v).pcap = s.pcap := rfl
@[simp] theorem State.msix_qlist (s : State) (v : Nat) : (s.msix v).qlist = s.qlist := rfl
@[simp] theorem State.msix_scrub (s : State) (v : Nat) : (s.msix v).scrub = s.scrub := rfl
@[simp] theorem State.msix_msixT (s : State) (v : Nat) : (s.msix v).msixT = s.msixT := rfl
@[simp] theorem State.msix_atoms (s : State) (v : Nat) : (s.msix v).atoms = s.atoms := rfl
@[simp] theorem State.msix_contribs (s : State) (v : Nat) : (s.msix v).contribs = s.contribs := rfl
@[simp] theorem State.msix_tsubs (s : State) (v : Nat) : (s.msix v).tsubs = s.tsubs := rfl
@[simp] theorem State.msix_deps (s : State) (v : Nat) : (s.msix v).deps = s.deps := rfl
@[simp] theorem State.msix_meets (s : State) (v : Nat) : (s.msix v).meets = s.meets := rfl
@[simp] theorem State.msix_mouts (s : State) (v : Nat) : (s.msix v).mouts = s.mouts := rfl
@[simp] theorem State.msix_rmsgs (s : State) (v : Nat) : (s.msix v).rmsgs = s.rmsgs := rfl
@[simp] theorem State.msix_mcs (s : State) (v : Nat) : (s.msix v).mcs = s.mcs := rfl
@[simp] theorem State.msix_lacks (s : State) (v : Nat) : (s.msix v).lacks = s.lacks := rfl
@[simp] theorem State.msix_migrs (s : State) (v : Nat) : (s.msix v).migrs = s.migrs := rfl
@[simp] theorem State.msix_migQueue (s : State) (v : Nat) : (s.msix v).migQueue = s.migQueue := rfl
@[simp] theorem State.msix_ev (s : State) (v : Nat) : (s.msix v).ev = s.ev := rfl
@[simp] theorem State.msix_cur (s : State) (v : Nat) : (s.msix v).cur = s.cur := rfl
@[simp] theorem State.msix_ir (s : State) (v : Nat) : (s.msix v).ir = s.ir := rfl
@[simp] theorem State.msix_arg (s : State) (v : Nat) : (s.msix v).arg = s.arg := rfl
@[simp] theorem State.msix_turn (s : State) (v : Nat) : (s.msix v).turn = s.turn := rfl
@[simp] theorem State.msix_cont (s : State) (v : Nat) : (s.msix v).cont = s.cont := rfl
@[simp] theorem State.msix_joined (s : State) (v : Nat) : (s.msix v).joined = s.joined := rfl
@[simp] theorem State.msix_agenda (s : State) (v : Nat) : (s.msix v).agenda = s.agenda := rfl
@[simp] theorem State.setPoison_shape (s : State) (a n : Nat) : (s.setPoison a n).shape = s.shape := rfl
@[simp] theorem State.setPoison_berths (s : State) (a n : Nat) : (s.setPoison a n).berths = s.berths := rfl
@[simp] theorem State.setPoison_cores (s : State) (a n : Nat) : (s.setPoison a n).cores = s.cores := rfl
@[simp] theorem State.setPoison_stks (s : State) (a n : Nat) : (s.setPoison a n).stks = s.stks := rfl
@[simp] theorem State.setPoison_ctxs (s : State) (a n : Nat) : (s.setPoison a n).ctxs = s.ctxs := rfl
@[simp] theorem State.setPoison_mem (s : State) (a n : Nat) : (s.setPoison a n).mem = s.mem := rfl
@[simp] theorem State.setPoison_hist (s : State) (a n : Nat) : (s.setPoison a n).hist = s.hist := rfl
@[simp] theorem State.setPoison_sync (s : State) (a n : Nat) : (s.setPoison a n).sync = s.sync := rfl
@[simp] theorem State.setPoison_vnum (s : State) (a n : Nat) : (s.setPoison a n).vnum = s.vnum := rfl
@[simp] theorem State.setPoison_live (s : State) (a n : Nat) : (s.setPoison a n).live = s.live := rfl
@[simp] theorem State.setPoison_shed (s : State) (a n : Nat) : (s.setPoison a n).shed = s.shed := rfl
@[simp] theorem State.setPoison_gen (s : State) (a n : Nat) : (s.setPoison a n).gen = s.gen := rfl
@[simp] theorem State.setPoison_act (s : State) (a n : Nat) : (s.setPoison a n).act = s.act := rfl
@[simp] theorem State.setPoison_altv (s : State) (a n : Nat) : (s.setPoison a n).altv = s.altv := rfl
@[simp] theorem State.setPoison_alt (s : State) (a n : Nat) : (s.setPoison a n).alt = s.alt := rfl
@[simp] theorem State.setPoison_shown (s : State) (a n : Nat) : (s.setPoison a n).shown = s.shown := rfl
@[simp] theorem State.setPoison_behind (s : State) (a n : Nat) : (s.setPoison a n).behind = s.behind := rfl
@[simp] theorem State.setPoison_drn (s : State) (a n : Nat) : (s.setPoison a n).drn = s.drn := rfl
@[simp] theorem State.setPoison_pendShed (s : State) (a n : Nat) : (s.setPoison a n).pendShed = s.pendShed := rfl
@[simp] theorem State.setPoison_wantShed (s : State) (a n : Nat) : (s.setPoison a n).wantShed = s.wantShed := rfl
@[simp] theorem State.setPoison_wantFence (s : State) (a n : Nat) : (s.setPoison a n).wantFence = s.wantFence := rfl
@[simp] theorem State.setPoison_props (s : State) (a n : Nat) : (s.setPoison a n).props = s.props := rfl
@[simp] theorem State.setPoison_reports (s : State) (a n : Nat) : (s.setPoison a n).reports = s.reports := rfl
@[simp] theorem State.setPoison_svcTim (s : State) (a n : Nat) : (s.setPoison a n).svcTim = s.svcTim := rfl
@[simp] theorem State.setPoison_svcTimNew (s : State) (a n : Nat) : (s.setPoison a n).svcTimNew = s.svcTimNew := rfl
@[simp] theorem State.setPoison_svcSus (s : State) (a n : Nat) : (s.setPoison a n).svcSus = s.svcSus := rfl
@[simp] theorem State.setPoison_life (s : State) (a n : Nat) : (s.setPoison a n).life = s.life := rfl
@[simp] theorem State.setPoison_seed (s : State) (a n : Nat) : (s.setPoison a n).seed = s.seed := rfl
@[simp] theorem State.setPoison_nonce (s : State) (a n : Nat) : (s.setPoison a n).nonce = s.nonce := rfl
@[simp] theorem State.setPoison_report (s : State) (a n : Nat) : (s.setPoison a n).report = s.report := rfl
@[simp] theorem State.setPoison_repBusy (s : State) (a n : Nat) : (s.setPoison a n).repBusy = s.repBusy := rfl
@[simp] theorem State.setPoison_repReady (s : State) (a n : Nat) : (s.setPoison a n).repReady = s.repReady := rfl
@[simp] theorem State.setPoison_token (s : State) (a n : Nat) : (s.setPoison a n).token = s.token := rfl
@[simp] theorem State.setPoison_challenges (s : State) (a n : Nat) : (s.setPoison a n).challenges = s.challenges := rfl
@[simp] theorem State.setPoison_features (s : State) (a n : Nat) : (s.setPoison a n).features = s.features := rfl
@[simp] theorem State.setPoison_pcap (s : State) (a n : Nat) : (s.setPoison a n).pcap = s.pcap := rfl
@[simp] theorem State.setPoison_qlist (s : State) (a n : Nat) : (s.setPoison a n).qlist = s.qlist := rfl
@[simp] theorem State.setPoison_scrub (s : State) (a n : Nat) : (s.setPoison a n).scrub = s.scrub := rfl
@[simp] theorem State.setPoison_msixT (s : State) (a n : Nat) : (s.setPoison a n).msixT = s.msixT := rfl
@[simp] theorem State.setPoison_msixP (s : State) (a n : Nat) : (s.setPoison a n).msixP = s.msixP := rfl
@[simp] theorem State.setPoison_atoms (s : State) (a n : Nat) : (s.setPoison a n).atoms = s.atoms := rfl
@[simp] theorem State.setPoison_contribs (s : State) (a n : Nat) : (s.setPoison a n).contribs = s.contribs := rfl
@[simp] theorem State.setPoison_tsubs (s : State) (a n : Nat) : (s.setPoison a n).tsubs = s.tsubs := rfl
@[simp] theorem State.setPoison_deps (s : State) (a n : Nat) : (s.setPoison a n).deps = s.deps := rfl
@[simp] theorem State.setPoison_meets (s : State) (a n : Nat) : (s.setPoison a n).meets = s.meets := rfl
@[simp] theorem State.setPoison_mouts (s : State) (a n : Nat) : (s.setPoison a n).mouts = s.mouts := rfl
@[simp] theorem State.setPoison_rmsgs (s : State) (a n : Nat) : (s.setPoison a n).rmsgs = s.rmsgs := rfl
@[simp] theorem State.setPoison_mcs (s : State) (a n : Nat) : (s.setPoison a n).mcs = s.mcs := rfl
@[simp] theorem State.setPoison_lacks (s : State) (a n : Nat) : (s.setPoison a n).lacks = s.lacks := rfl
@[simp] theorem State.setPoison_migrs (s : State) (a n : Nat) : (s.setPoison a n).migrs = s.migrs := rfl
@[simp] theorem State.setPoison_migQueue (s : State) (a n : Nat) : (s.setPoison a n).migQueue = s.migQueue := rfl
@[simp] theorem State.setPoison_ev (s : State) (a n : Nat) : (s.setPoison a n).ev = s.ev := rfl
@[simp] theorem State.setPoison_cur (s : State) (a n : Nat) : (s.setPoison a n).cur = s.cur := rfl
@[simp] theorem State.setPoison_ir (s : State) (a n : Nat) : (s.setPoison a n).ir = s.ir := rfl
@[simp] theorem State.setPoison_arg (s : State) (a n : Nat) : (s.setPoison a n).arg = s.arg := rfl
@[simp] theorem State.setPoison_turn (s : State) (a n : Nat) : (s.setPoison a n).turn = s.turn := rfl
@[simp] theorem State.setPoison_cont (s : State) (a n : Nat) : (s.setPoison a n).cont = s.cont := rfl
@[simp] theorem State.setPoison_joined (s : State) (a n : Nat) : (s.setPoison a n).joined = s.joined := rfl
@[simp] theorem State.setPoison_agenda (s : State) (a n : Nat) : (s.setPoison a n).agenda = s.agenda := rfl
@[simp] theorem State.storeOv_shape (s : State) (o : Mem) : (s.storeOv o).shape = s.shape := rfl
@[simp] theorem State.storeOv_berths (s : State) (o : Mem) : (s.storeOv o).berths = s.berths := rfl
@[simp] theorem State.storeOv_cores (s : State) (o : Mem) : (s.storeOv o).cores = s.cores := rfl
@[simp] theorem State.storeOv_stks (s : State) (o : Mem) : (s.storeOv o).stks = s.stks := rfl
@[simp] theorem State.storeOv_ctxs (s : State) (o : Mem) : (s.storeOv o).ctxs = s.ctxs := rfl
@[simp] theorem State.storeOv_hist (s : State) (o : Mem) : (s.storeOv o).hist = s.hist := rfl
@[simp] theorem State.storeOv_sync (s : State) (o : Mem) : (s.storeOv o).sync = s.sync := rfl
@[simp] theorem State.storeOv_vnum (s : State) (o : Mem) : (s.storeOv o).vnum = s.vnum := rfl
@[simp] theorem State.storeOv_live (s : State) (o : Mem) : (s.storeOv o).live = s.live := rfl
@[simp] theorem State.storeOv_shed (s : State) (o : Mem) : (s.storeOv o).shed = s.shed := rfl
@[simp] theorem State.storeOv_gen (s : State) (o : Mem) : (s.storeOv o).gen = s.gen := rfl
@[simp] theorem State.storeOv_act (s : State) (o : Mem) : (s.storeOv o).act = s.act := rfl
@[simp] theorem State.storeOv_altv (s : State) (o : Mem) : (s.storeOv o).altv = s.altv := rfl
@[simp] theorem State.storeOv_alt (s : State) (o : Mem) : (s.storeOv o).alt = s.alt := rfl
@[simp] theorem State.storeOv_shown (s : State) (o : Mem) : (s.storeOv o).shown = s.shown := rfl
@[simp] theorem State.storeOv_behind (s : State) (o : Mem) : (s.storeOv o).behind = s.behind := rfl
@[simp] theorem State.storeOv_drn (s : State) (o : Mem) : (s.storeOv o).drn = s.drn := rfl
@[simp] theorem State.storeOv_pendShed (s : State) (o : Mem) : (s.storeOv o).pendShed = s.pendShed := rfl
@[simp] theorem State.storeOv_wantShed (s : State) (o : Mem) : (s.storeOv o).wantShed = s.wantShed := rfl
@[simp] theorem State.storeOv_wantFence (s : State) (o : Mem) : (s.storeOv o).wantFence = s.wantFence := rfl
@[simp] theorem State.storeOv_props (s : State) (o : Mem) : (s.storeOv o).props = s.props := rfl
@[simp] theorem State.storeOv_reports (s : State) (o : Mem) : (s.storeOv o).reports = s.reports := rfl
@[simp] theorem State.storeOv_svcTim (s : State) (o : Mem) : (s.storeOv o).svcTim = s.svcTim := rfl
@[simp] theorem State.storeOv_svcTimNew (s : State) (o : Mem) : (s.storeOv o).svcTimNew = s.svcTimNew := rfl
@[simp] theorem State.storeOv_svcSus (s : State) (o : Mem) : (s.storeOv o).svcSus = s.svcSus := rfl
@[simp] theorem State.storeOv_life (s : State) (o : Mem) : (s.storeOv o).life = s.life := rfl
@[simp] theorem State.storeOv_seed (s : State) (o : Mem) : (s.storeOv o).seed = s.seed := rfl
@[simp] theorem State.storeOv_nonce (s : State) (o : Mem) : (s.storeOv o).nonce = s.nonce := rfl
@[simp] theorem State.storeOv_report (s : State) (o : Mem) : (s.storeOv o).report = s.report := rfl
@[simp] theorem State.storeOv_repBusy (s : State) (o : Mem) : (s.storeOv o).repBusy = s.repBusy := rfl
@[simp] theorem State.storeOv_repReady (s : State) (o : Mem) : (s.storeOv o).repReady = s.repReady := rfl
@[simp] theorem State.storeOv_token (s : State) (o : Mem) : (s.storeOv o).token = s.token := rfl
@[simp] theorem State.storeOv_challenges (s : State) (o : Mem) : (s.storeOv o).challenges = s.challenges := rfl
@[simp] theorem State.storeOv_features (s : State) (o : Mem) : (s.storeOv o).features = s.features := rfl
@[simp] theorem State.storeOv_pcap (s : State) (o : Mem) : (s.storeOv o).pcap = s.pcap := rfl
@[simp] theorem State.storeOv_qlist (s : State) (o : Mem) : (s.storeOv o).qlist = s.qlist := rfl
@[simp] theorem State.storeOv_scrub (s : State) (o : Mem) : (s.storeOv o).scrub = s.scrub := rfl
@[simp] theorem State.storeOv_msixT (s : State) (o : Mem) : (s.storeOv o).msixT = s.msixT := rfl
@[simp] theorem State.storeOv_msixP (s : State) (o : Mem) : (s.storeOv o).msixP = s.msixP := rfl
@[simp] theorem State.storeOv_atoms (s : State) (o : Mem) : (s.storeOv o).atoms = s.atoms := rfl
@[simp] theorem State.storeOv_contribs (s : State) (o : Mem) : (s.storeOv o).contribs = s.contribs := rfl
@[simp] theorem State.storeOv_tsubs (s : State) (o : Mem) : (s.storeOv o).tsubs = s.tsubs := rfl
@[simp] theorem State.storeOv_deps (s : State) (o : Mem) : (s.storeOv o).deps = s.deps := rfl
@[simp] theorem State.storeOv_meets (s : State) (o : Mem) : (s.storeOv o).meets = s.meets := rfl
@[simp] theorem State.storeOv_mouts (s : State) (o : Mem) : (s.storeOv o).mouts = s.mouts := rfl
@[simp] theorem State.storeOv_rmsgs (s : State) (o : Mem) : (s.storeOv o).rmsgs = s.rmsgs := rfl
@[simp] theorem State.storeOv_mcs (s : State) (o : Mem) : (s.storeOv o).mcs = s.mcs := rfl
@[simp] theorem State.storeOv_lacks (s : State) (o : Mem) : (s.storeOv o).lacks = s.lacks := rfl
@[simp] theorem State.storeOv_migrs (s : State) (o : Mem) : (s.storeOv o).migrs = s.migrs := rfl
@[simp] theorem State.storeOv_migQueue (s : State) (o : Mem) : (s.storeOv o).migQueue = s.migQueue := rfl
@[simp] theorem State.storeOv_ev (s : State) (o : Mem) : (s.storeOv o).ev = s.ev := rfl
@[simp] theorem State.storeOv_cur (s : State) (o : Mem) : (s.storeOv o).cur = s.cur := rfl
@[simp] theorem State.storeOv_ir (s : State) (o : Mem) : (s.storeOv o).ir = s.ir := rfl
@[simp] theorem State.storeOv_arg (s : State) (o : Mem) : (s.storeOv o).arg = s.arg := rfl
@[simp] theorem State.storeOv_turn (s : State) (o : Mem) : (s.storeOv o).turn = s.turn := rfl
@[simp] theorem State.storeOv_cont (s : State) (o : Mem) : (s.storeOv o).cont = s.cont := rfl
@[simp] theorem State.storeOv_joined (s : State) (o : Mem) : (s.storeOv o).joined = s.joined := rfl
@[simp] theorem State.storeOv_agenda (s : State) (o : Mem) : (s.storeOv o).agenda = s.agenda := rfl

/-! ## Reading a part after a part is set -/

theorem State.berth_setBerth (s : State) (k i : Nat) (v : Berth) : (s.setBerth k v).berth i = if i = k then v else s.berth i :=
  AMap.get_set _ _ _ _ _
@[simp] theorem State.berth_setBerth_same (s : State) (k : Nat) (v : Berth) : (s.setBerth k v).berth k = v := AMap.get_set_same _ _ _ _
theorem State.berth_setBerth_other (s : State) {k i : Nat} (v : Berth) (h : i ≠ k) : (s.setBerth k v).berth i = s.berth i := AMap.get_set_other _ _ _ h
theorem State.berth_updBerth (s : State) (k i : Nat) (f : Berth → Berth) : (s.updBerth k f).berth i = if i = k then f (s.berth k) else s.berth i :=
  AMap.get_set _ _ _ _ _
@[simp] theorem State.berth_updBerth_same (s : State) (k : Nat) (f : Berth → Berth) : (s.updBerth k f).berth k = f (s.berth k) := AMap.get_set_same _ _ _ _
theorem State.berth_updBerth_other (s : State) {k i : Nat} (f : Berth → Berth) (h : i ≠ k) : (s.updBerth k f).berth i = s.berth i :=
  AMap.get_set_other _ _ _ h
@[simp] theorem State.core_setBerth (s : State) (k i : Nat) (v : Berth) : (s.setBerth k v).core i = s.core i := rfl
@[simp] theorem State.core_updBerth (s : State) (k i : Nat) (f : Berth → Berth) : (s.updBerth k f).core i = s.core i := rfl
@[simp] theorem State.stack_setBerth (s : State) (k i : Nat) (v : Berth) : (s.setBerth k v).stack i = s.stack i := rfl
@[simp] theorem State.stack_updBerth (s : State) (k i : Nat) (f : Berth → Berth) : (s.updBerth k f).stack i = s.stack i := rfl
@[simp] theorem State.ctx_setBerth (s : State) (k i : Nat) (v : Berth) : (s.setBerth k v).ctx i = s.ctx i := rfl
@[simp] theorem State.ctx_updBerth (s : State) (k i : Nat) (f : Berth → Berth) : (s.updBerth k f).ctx i = s.ctx i := rfl
@[simp] theorem State.berth_msix (s : State) (i v : Nat) : (s.msix v).berth i = s.berth i := rfl
@[simp] theorem State.berth_storeOv (s : State) (i : Nat) (o : Mem) : (s.storeOv o).berth i = s.berth i := rfl
@[simp] theorem State.berth_setPoison (s : State) (i a n : Nat) : (s.setPoison a n).berth i = s.berth i := rfl
theorem State.core_setCore (s : State) (k i : Nat) (v : Core) : (s.setCore k v).core i = if i = k then v else s.core i :=
  AMap.get_set _ _ _ _ _
@[simp] theorem State.core_setCore_same (s : State) (k : Nat) (v : Core) : (s.setCore k v).core k = v := AMap.get_set_same _ _ _ _
theorem State.core_setCore_other (s : State) {k i : Nat} (v : Core) (h : i ≠ k) : (s.setCore k v).core i = s.core i := AMap.get_set_other _ _ _ h
theorem State.core_updCore (s : State) (k i : Nat) (f : Core → Core) : (s.updCore k f).core i = if i = k then f (s.core k) else s.core i :=
  AMap.get_set _ _ _ _ _
@[simp] theorem State.core_updCore_same (s : State) (k : Nat) (f : Core → Core) : (s.updCore k f).core k = f (s.core k) := AMap.get_set_same _ _ _ _
theorem State.core_updCore_other (s : State) {k i : Nat} (f : Core → Core) (h : i ≠ k) : (s.updCore k f).core i = s.core i :=
  AMap.get_set_other _ _ _ h
@[simp] theorem State.berth_setCore (s : State) (k i : Nat) (v : Core) : (s.setCore k v).berth i = s.berth i := rfl
@[simp] theorem State.berth_updCore (s : State) (k i : Nat) (f : Core → Core) : (s.updCore k f).berth i = s.berth i := rfl
@[simp] theorem State.stack_setCore (s : State) (k i : Nat) (v : Core) : (s.setCore k v).stack i = s.stack i := rfl
@[simp] theorem State.stack_updCore (s : State) (k i : Nat) (f : Core → Core) : (s.updCore k f).stack i = s.stack i := rfl
@[simp] theorem State.ctx_setCore (s : State) (k i : Nat) (v : Core) : (s.setCore k v).ctx i = s.ctx i := rfl
@[simp] theorem State.ctx_updCore (s : State) (k i : Nat) (f : Core → Core) : (s.updCore k f).ctx i = s.ctx i := rfl
@[simp] theorem State.core_upd (s : State) (i : Nat) (f : Berth → Berth) : (s.upd f).core i = s.core i := rfl
@[simp] theorem State.core_msix (s : State) (i v : Nat) : (s.msix v).core i = s.core i := rfl
@[simp] theorem State.core_storeOv (s : State) (i : Nat) (o : Mem) : (s.storeOv o).core i = s.core i := rfl
@[simp] theorem State.core_setPoison (s : State) (i a n : Nat) : (s.setPoison a n).core i = s.core i := rfl
theorem State.stack_setStack (s : State) (k i : Nat) (v : Stack) : (s.setStack k v).stack i = if i = k then v else s.stack i :=
  AMap.get_set _ _ _ _ _
@[simp] theorem State.stack_setStack_same (s : State) (k : Nat) (v : Stack) : (s.setStack k v).stack k = v := AMap.get_set_same _ _ _ _
theorem State.stack_setStack_other (s : State) {k i : Nat} (v : Stack) (h : i ≠ k) : (s.setStack k v).stack i = s.stack i := AMap.get_set_other _ _ _ h
theorem State.stack_updStack (s : State) (k i : Nat) (f : Stack → Stack) : (s.updStack k f).stack i = if i = k then f (s.stack k) else s.stack i :=
  AMap.get_set _ _ _ _ _
@[simp] theorem State.stack_updStack_same (s : State) (k : Nat) (f : Stack → Stack) : (s.updStack k f).stack k = f (s.stack k) := AMap.get_set_same _ _ _ _
theorem State.stack_updStack_other (s : State) {k i : Nat} (f : Stack → Stack) (h : i ≠ k) : (s.updStack k f).stack i = s.stack i :=
  AMap.get_set_other _ _ _ h
@[simp] theorem State.berth_setStack (s : State) (k i : Nat) (v : Stack) : (s.setStack k v).berth i = s.berth i := rfl
@[simp] theorem State.berth_updStack (s : State) (k i : Nat) (f : Stack → Stack) : (s.updStack k f).berth i = s.berth i := rfl
@[simp] theorem State.core_setStack (s : State) (k i : Nat) (v : Stack) : (s.setStack k v).core i = s.core i := rfl
@[simp] theorem State.core_updStack (s : State) (k i : Nat) (f : Stack → Stack) : (s.updStack k f).core i = s.core i := rfl
@[simp] theorem State.ctx_setStack (s : State) (k i : Nat) (v : Stack) : (s.setStack k v).ctx i = s.ctx i := rfl
@[simp] theorem State.ctx_updStack (s : State) (k i : Nat) (f : Stack → Stack) : (s.updStack k f).ctx i = s.ctx i := rfl
@[simp] theorem State.stack_upd (s : State) (i : Nat) (f : Berth → Berth) : (s.upd f).stack i = s.stack i := rfl
@[simp] theorem State.stack_msix (s : State) (i v : Nat) : (s.msix v).stack i = s.stack i := rfl
@[simp] theorem State.stack_storeOv (s : State) (i : Nat) (o : Mem) : (s.storeOv o).stack i = s.stack i := rfl
@[simp] theorem State.stack_setPoison (s : State) (i a n : Nat) : (s.setPoison a n).stack i = s.stack i := rfl
theorem State.ctx_setCtx (s : State) (k i : Nat) (v : Ctx) : (s.setCtx k v).ctx i = if i = k then v else s.ctx i :=
  AMap.get_set _ _ _ _ _
@[simp] theorem State.ctx_setCtx_same (s : State) (k : Nat) (v : Ctx) : (s.setCtx k v).ctx k = v := AMap.get_set_same _ _ _ _
theorem State.ctx_setCtx_other (s : State) {k i : Nat} (v : Ctx) (h : i ≠ k) : (s.setCtx k v).ctx i = s.ctx i := AMap.get_set_other _ _ _ h
theorem State.ctx_updCtx (s : State) (k i : Nat) (f : Ctx → Ctx) : (s.updCtx k f).ctx i = if i = k then f (s.ctx k) else s.ctx i :=
  AMap.get_set _ _ _ _ _
@[simp] theorem State.ctx_updCtx_same (s : State) (k : Nat) (f : Ctx → Ctx) : (s.updCtx k f).ctx k = f (s.ctx k) := AMap.get_set_same _ _ _ _
theorem State.ctx_updCtx_other (s : State) {k i : Nat} (f : Ctx → Ctx) (h : i ≠ k) : (s.updCtx k f).ctx i = s.ctx i :=
  AMap.get_set_other _ _ _ h
@[simp] theorem State.berth_setCtx (s : State) (k i : Nat) (v : Ctx) : (s.setCtx k v).berth i = s.berth i := rfl
@[simp] theorem State.berth_updCtx (s : State) (k i : Nat) (f : Ctx → Ctx) : (s.updCtx k f).berth i = s.berth i := rfl
@[simp] theorem State.core_setCtx (s : State) (k i : Nat) (v : Ctx) : (s.setCtx k v).core i = s.core i := rfl
@[simp] theorem State.core_updCtx (s : State) (k i : Nat) (f : Ctx → Ctx) : (s.updCtx k f).core i = s.core i := rfl
@[simp] theorem State.stack_setCtx (s : State) (k i : Nat) (v : Ctx) : (s.setCtx k v).stack i = s.stack i := rfl
@[simp] theorem State.stack_updCtx (s : State) (k i : Nat) (f : Ctx → Ctx) : (s.updCtx k f).stack i = s.stack i := rfl
@[simp] theorem State.ctx_upd (s : State) (i : Nat) (f : Berth → Berth) : (s.upd f).ctx i = s.ctx i := rfl
@[simp] theorem State.ctx_msix (s : State) (i v : Nat) : (s.msix v).ctx i = s.ctx i := rfl
@[simp] theorem State.ctx_storeOv (s : State) (i : Nat) (o : Mem) : (s.storeOv o).ctx i = s.ctx i := rfl
@[simp] theorem State.ctx_setPoison (s : State) (i a n : Nat) : (s.setPoison a n).ctx i = s.ctx i := rfl

/-! ## The issuing strand -/

@[simp] theorem State.me_upd (s : State) (f : Berth → Berth) : (s.upd f).me = f s.me := AMap.get_set_same _ _ _ _
theorem State.berth_upd_other (s : State) {i : Nat} (f : Berth → Berth) (h : i ≠ s.cur) : (s.upd f).berth i = s.berth i :=
  AMap.get_set_other _ _ _ h
theorem State.me_eq (s : State) : s.me = s.berth s.cur := rfl

@[simp] theorem Berth.setG_st (b : Berth) (n : GReg) (v : Word) : (b.setG n v).st = b.st := by unfold Berth.setG; split <;> rfl
@[simp] theorem Berth.setG_ctx (b : Berth) (n : GReg) (v : Word) : (b.setG n v).ctx = b.ctx := by unfold Berth.setG; split <;> rfl
@[simp] theorem Berth.setG_lsl (b : Berth) (n : GReg) (v : Word) : (b.setG n v).lsl = b.lsl := by unfold Berth.setG; split <;> rfl
@[simp] theorem Berth.setG_stage (b : Berth) (n : GReg) (v : Word) : (b.setG n v).stage = b.stage := by unfold Berth.setG; split <;> rfl
@[simp] theorem Berth.setG_lastOcc (b : Berth) (n : GReg) (v : Word) : (b.setG n v).lastOcc = b.lastOcc := by unfold Berth.setG; split <;> rfl
@[simp] theorem Berth.setG_pc (b : Berth) (n : GReg) (v : Word) : (b.setG n v).pc = b.pc := by unfold Berth.setG; split <;> rfl
@[simp] theorem Berth.setG_pfx (b : Berth) (n : GReg) (v : Word) : (b.setG n v).pfx = b.pfx := by unfold Berth.setG; split <;> rfl
@[simp] theorem Berth.setG_pfxWord (b : Berth) (n : GReg) (v : Word) : (b.setG n v).pfxWord = b.pfxWord := by unfold Berth.setG; split <;> rfl
@[simp] theorem Berth.setG_p (b : Berth) (n : GReg) (v : Word) : (b.setG n v).p = b.p := by unfold Berth.setG; split <;> rfl
@[simp] theorem Berth.setG_s (b : Berth) (n : GReg) (v : Word) : (b.setG n v).s = b.s := by unfold Berth.setG; split <;> rfl
@[simp] theorem Berth.setG_q (b : Berth) (n : GReg) (v : Word) : (b.setG n v).q = b.q := by unfold Berth.setG; split <;> rfl
@[simp] theorem Berth.setG_rngk (b : Berth) (n : GReg) (v : Word) : (b.setG n v).rngk = b.rngk := by unfold Berth.setG; split <;> rfl
@[simp] theorem Berth.setG_rngc (b : Berth) (n : GReg) (v : Word) : (b.setG n v).rngc = b.rngc := by unfold Berth.setG; split <;> rfl
@[simp] theorem Berth.setG_trap (b : Berth) (n : GReg) (v : Word) : (b.setG n v).trap = b.trap := by unfold Berth.setG; split <;> rfl
@[simp] theorem Berth.setG_trapped (b : Berth) (n : GReg) (v : Word) : (b.setG n v).trapped = b.trapped := by unfold Berth.setG; split <;> rfl
@[simp] theorem Berth.setG_cut (b : Berth) (n : GReg) (v : Word) : (b.setG n v).cut = b.cut := by unfold Berth.setG; split <;> rfl
@[simp] theorem Berth.setG_haltF (b : Berth) (n : GReg) (v : Word) : (b.setG n v).haltF = b.haltF := by unfold Berth.setG; split <;> rfl
@[simp] theorem Berth.setG_recs (b : Berth) (n : GReg) (v : Word) : (b.setG n v).recs = b.recs := by unfold Berth.setG; split <;> rfl
@[simp] theorem Berth.setG_hist (b : Berth) (n : GReg) (v : Word) : (b.setG n v).hist = b.hist := by unfold Berth.setG; split <;> rfl
@[simp] theorem Berth.setG_qfront (b : Berth) (n : GReg) (v : Word) : (b.setG n v).qfront = b.qfront := by unfold Berth.setG; split <;> rfl
@[simp] theorem Berth.setG_app (b : Berth) (n : GReg) (v : Word) : (b.setG n v).app = b.app := by unfold Berth.setG; split <;> rfl
@[simp] theorem Berth.setG_qsn (b : Berth) (n : GReg) (v : Word) : (b.setG n v).qsn = b.qsn := by unfold Berth.setG; split <;> rfl
@[simp] theorem Berth.setG_fifos (b : Berth) (n : GReg) (v : Word) : (b.setG n v).fifos = b.fifos := by unfold Berth.setG; split <;> rfl
@[simp] theorem Berth.setG_arrs (b : Berth) (n : GReg) (v : Word) : (b.setG n v).arrs = b.arrs := by unfold Berth.setG; split <;> rfl
@[simp] theorem Berth.setG_tid (b : Berth) (n : GReg) (v : Word) : (b.setG n v).tid = b.tid := by unfold Berth.setG; split <;> rfl
@[simp] theorem Berth.setG_clk (b : Berth) (n : GReg) (v : Word) : (b.setG n v).clk = b.clk := by unfold Berth.setG; split <;> rfl
@[simp] theorem Berth.setG_also (b : Berth) (n : GReg) (v : Word) : (b.setG n v).also = b.also := by unfold Berth.setG; split <;> rfl
@[simp] theorem Berth.setG_pubs (b : Berth) (n : GReg) (v : Word) : (b.setG n v).pubs = b.pubs := by unfold Berth.setG; split <;> rfl
@[simp] theorem Berth.setG_acqs (b : Berth) (n : GReg) (v : Word) : (b.setG n v).acqs = b.acqs := by unfold Berth.setG; split <;> rfl
@[simp] theorem Berth.setG_refs (b : Berth) (n : GReg) (v : Word) : (b.setG n v).refs = b.refs := by unfold Berth.setG; split <;> rfl
@[simp] theorem Berth.setG_pend (b : Berth) (n : GReg) (v : Word) : (b.setG n v).pend = b.pend := by unfold Berth.setG; split <;> rfl
@[simp] theorem Berth.setG_handle (b : Berth) (n : GReg) (v : Word) : (b.setG n v).handle = b.handle := by unfold Berth.setG; split <;> rfl
@[simp] theorem Berth.setG_hasTask (b : Berth) (n : GReg) (v : Word) : (b.setG n v).hasTask = b.hasTask := by unfold Berth.setG; split <;> rfl
@[simp] theorem Berth.setG_gang (b : Berth) (n : GReg) (v : Word) : (b.setG n v).gang = b.gang := by unfold Berth.setG; split <;> rfl
@[simp] theorem Berth.setG_arrivedPh (b : Berth) (n : GReg) (v : Word) : (b.setG n v).arrivedPh = b.arrivedPh := by unfold Berth.setG; split <;> rfl
@[simp] theorem Berth.setG_joinNo (b : Berth) (n : GReg) (v : Word) : (b.setG n v).joinNo = b.joinNo := by unfold Berth.setG; split <;> rfl
@[simp] theorem Berth.setG_waiting (b : Berth) (n : GReg) (v : Word) : (b.setG n v).waiting = b.waiting := by unfold Berth.setG; split <;> rfl
@[simp] theorem Berth.setG_answer (b : Berth) (n : GReg) (v : Word) : (b.setG n v).answer = b.answer := by unfold Berth.setG; split <;> rfl
@[simp] theorem Berth.setG_seg (b : Berth) (n : GReg) (v : Word) : (b.setG n v).seg = b.seg := by unfold Berth.setG; split <;> rfl
@[simp] theorem Berth.setG_obuf (b : Berth) (n : GReg) (v : Word) : (b.setG n v).obuf = b.obuf := by unfold Berth.setG; split <;> rfl
@[simp] theorem Berth.setG_batch (b : Berth) (n : GReg) (v : Word) : (b.setG n v).batch = b.batch := by unfold Berth.setG; split <;> rfl
@[simp] theorem Berth.setG_outLoad (b : Berth) (n : GReg) (v : Word) : (b.setG n v).outLoad = b.outLoad := by unfold Berth.setG; split <;> rfl
@[simp] theorem Berth.setG_pq (b : Berth) (n : GReg) (v : Word) : (b.setG n v).pq = b.pq := by unfold Berth.setG; split <;> rfl
@[simp] theorem Berth.setG_spill (b : Berth) (n : GReg) (v : Word) : (b.setG n v).spill = b.spill := by unfold Berth.setG; split <;> rfl
@[simp] theorem Berth.setG_pixc (b : Berth) (n : GReg) (v : Word) : (b.setG n v).pixc = b.pixc := by unfold Berth.setG; split <;> rfl
@[simp] theorem Berth.setG_issueAge (b : Berth) (n : GReg) (v : Word) : (b.setG n v).issueAge = b.issueAge := by unfold Berth.setG; split <;> rfl
@[simp] theorem Berth.setG_lastIssue (b : Berth) (n : GReg) (v : Word) : (b.setG n v).lastIssue = b.lastIssue := by unfold Berth.setG; split <;> rfl
@[simp] theorem Berth.setG_yielded (b : Berth) (n : GReg) (v : Word) : (b.setG n v).yielded = b.yielded := by unfold Berth.setG; split <;> rfl
@[simp] theorem Berth.setG_stalled (b : Berth) (n : GReg) (v : Word) : (b.setG n v).stalled = b.stalled := by unfold Berth.setG; split <;> rfl
@[simp] theorem Berth.setG_xAge (b : Berth) (n : GReg) (v : Word) : (b.setG n v).xAge = b.xAge := by unfold Berth.setG; split <;> rfl
@[simp] theorem Berth.setG_xLast (b : Berth) (n : GReg) (v : Word) : (b.setG n v).xLast = b.xLast := by unfold Berth.setG; split <;> rfl
@[simp] theorem Berth.setG_pzg (b : Berth) (n : GReg) (v : Word) : (b.setG n v).pzg = b.pzg := by unfold Berth.setG; split <;> rfl
@[simp] theorem Berth.setG_wholeg (b : Berth) (n : GReg) (v : Word) : (b.setG n v).wholeg = b.wholeg := by unfold Berth.setG; split <;> rfl
@[simp] theorem Berth.setG_rawBack (b : Berth) (n : GReg) (v : Word) : (b.setG n v).rawBack = b.rawBack := by unfold Berth.setG; split <;> rfl
@[simp] theorem Berth.setG_landing (b : Berth) (n : GReg) (v : Word) : (b.setG n v).landing = b.landing := by unfold Berth.setG; split <;> rfl
@[simp] theorem Berth.setG_bank (b : Berth) (n : GReg) (v : Word) : (b.setG n v).bank = b.bank := by unfold Berth.setG; split <;> rfl
@[simp] theorem Berth.setG_dbg (b : Berth) (n : GReg) (v : Word) : (b.setG n v).dbg = b.dbg := by unfold Berth.setG; split <;> rfl
@[simp] theorem Berth.setG_sw (b : Berth) (n : GReg) (v : Word) : (b.setG n v).sw = b.sw := by unfold Berth.setG; split <;> rfl
@[simp] theorem Berth.setG_profAt (b : Berth) (n : GReg) (v : Word) : (b.setG n v).profAt = b.profAt := by unfold Berth.setG; split <;> rfl
@[simp] theorem Berth.setG_profStop (b : Berth) (n : GReg) (v : Word) : (b.setG n v).profStop = b.profStop := by unfold Berth.setG; split <;> rfl
@[simp] theorem Berth.setG_awaited (b : Berth) (n : GReg) (v : Word) : (b.setG n v).awaited = b.awaited := by unfold Berth.setG; split <;> rfl
@[simp] theorem Berth.setP_st (b : Berth) (n : PReg) (v : Bool) : (b.setP n v).st = b.st := by unfold Berth.setP; split <;> rfl
@[simp] theorem Berth.setP_ctx (b : Berth) (n : PReg) (v : Bool) : (b.setP n v).ctx = b.ctx := by unfold Berth.setP; split <;> rfl
@[simp] theorem Berth.setP_lsl (b : Berth) (n : PReg) (v : Bool) : (b.setP n v).lsl = b.lsl := by unfold Berth.setP; split <;> rfl
@[simp] theorem Berth.setP_stage (b : Berth) (n : PReg) (v : Bool) : (b.setP n v).stage = b.stage := by unfold Berth.setP; split <;> rfl
@[simp] theorem Berth.setP_lastOcc (b : Berth) (n : PReg) (v : Bool) : (b.setP n v).lastOcc = b.lastOcc := by unfold Berth.setP; split <;> rfl
@[simp] theorem Berth.setP_pc (b : Berth) (n : PReg) (v : Bool) : (b.setP n v).pc = b.pc := by unfold Berth.setP; split <;> rfl
@[simp] theorem Berth.setP_pfx (b : Berth) (n : PReg) (v : Bool) : (b.setP n v).pfx = b.pfx := by unfold Berth.setP; split <;> rfl
@[simp] theorem Berth.setP_pfxWord (b : Berth) (n : PReg) (v : Bool) : (b.setP n v).pfxWord = b.pfxWord := by unfold Berth.setP; split <;> rfl
@[simp] theorem Berth.setP_g (b : Berth) (n : PReg) (v : Bool) : (b.setP n v).g = b.g := by unfold Berth.setP; split <;> rfl
@[simp] theorem Berth.setP_s (b : Berth) (n : PReg) (v : Bool) : (b.setP n v).s = b.s := by unfold Berth.setP; split <;> rfl
@[simp] theorem Berth.setP_q (b : Berth) (n : PReg) (v : Bool) : (b.setP n v).q = b.q := by unfold Berth.setP; split <;> rfl
@[simp] theorem Berth.setP_rngk (b : Berth) (n : PReg) (v : Bool) : (b.setP n v).rngk = b.rngk := by unfold Berth.setP; split <;> rfl
@[simp] theorem Berth.setP_rngc (b : Berth) (n : PReg) (v : Bool) : (b.setP n v).rngc = b.rngc := by unfold Berth.setP; split <;> rfl
@[simp] theorem Berth.setP_trap (b : Berth) (n : PReg) (v : Bool) : (b.setP n v).trap = b.trap := by unfold Berth.setP; split <;> rfl
@[simp] theorem Berth.setP_trapped (b : Berth) (n : PReg) (v : Bool) : (b.setP n v).trapped = b.trapped := by unfold Berth.setP; split <;> rfl
@[simp] theorem Berth.setP_cut (b : Berth) (n : PReg) (v : Bool) : (b.setP n v).cut = b.cut := by unfold Berth.setP; split <;> rfl
@[simp] theorem Berth.setP_haltF (b : Berth) (n : PReg) (v : Bool) : (b.setP n v).haltF = b.haltF := by unfold Berth.setP; split <;> rfl
@[simp] theorem Berth.setP_recs (b : Berth) (n : PReg) (v : Bool) : (b.setP n v).recs = b.recs := by unfold Berth.setP; split <;> rfl
@[simp] theorem Berth.setP_hist (b : Berth) (n : PReg) (v : Bool) : (b.setP n v).hist = b.hist := by unfold Berth.setP; split <;> rfl
@[simp] theorem Berth.setP_qfront (b : Berth) (n : PReg) (v : Bool) : (b.setP n v).qfront = b.qfront := by unfold Berth.setP; split <;> rfl
@[simp] theorem Berth.setP_app (b : Berth) (n : PReg) (v : Bool) : (b.setP n v).app = b.app := by unfold Berth.setP; split <;> rfl
@[simp] theorem Berth.setP_qsn (b : Berth) (n : PReg) (v : Bool) : (b.setP n v).qsn = b.qsn := by unfold Berth.setP; split <;> rfl
@[simp] theorem Berth.setP_fifos (b : Berth) (n : PReg) (v : Bool) : (b.setP n v).fifos = b.fifos := by unfold Berth.setP; split <;> rfl
@[simp] theorem Berth.setP_arrs (b : Berth) (n : PReg) (v : Bool) : (b.setP n v).arrs = b.arrs := by unfold Berth.setP; split <;> rfl
@[simp] theorem Berth.setP_tid (b : Berth) (n : PReg) (v : Bool) : (b.setP n v).tid = b.tid := by unfold Berth.setP; split <;> rfl
@[simp] theorem Berth.setP_clk (b : Berth) (n : PReg) (v : Bool) : (b.setP n v).clk = b.clk := by unfold Berth.setP; split <;> rfl
@[simp] theorem Berth.setP_also (b : Berth) (n : PReg) (v : Bool) : (b.setP n v).also = b.also := by unfold Berth.setP; split <;> rfl
@[simp] theorem Berth.setP_pubs (b : Berth) (n : PReg) (v : Bool) : (b.setP n v).pubs = b.pubs := by unfold Berth.setP; split <;> rfl
@[simp] theorem Berth.setP_acqs (b : Berth) (n : PReg) (v : Bool) : (b.setP n v).acqs = b.acqs := by unfold Berth.setP; split <;> rfl
@[simp] theorem Berth.setP_refs (b : Berth) (n : PReg) (v : Bool) : (b.setP n v).refs = b.refs := by unfold Berth.setP; split <;> rfl
@[simp] theorem Berth.setP_pend (b : Berth) (n : PReg) (v : Bool) : (b.setP n v).pend = b.pend := by unfold Berth.setP; split <;> rfl
@[simp] theorem Berth.setP_handle (b : Berth) (n : PReg) (v : Bool) : (b.setP n v).handle = b.handle := by unfold Berth.setP; split <;> rfl
@[simp] theorem Berth.setP_hasTask (b : Berth) (n : PReg) (v : Bool) : (b.setP n v).hasTask = b.hasTask := by unfold Berth.setP; split <;> rfl
@[simp] theorem Berth.setP_gang (b : Berth) (n : PReg) (v : Bool) : (b.setP n v).gang = b.gang := by unfold Berth.setP; split <;> rfl
@[simp] theorem Berth.setP_arrivedPh (b : Berth) (n : PReg) (v : Bool) : (b.setP n v).arrivedPh = b.arrivedPh := by unfold Berth.setP; split <;> rfl
@[simp] theorem Berth.setP_joinNo (b : Berth) (n : PReg) (v : Bool) : (b.setP n v).joinNo = b.joinNo := by unfold Berth.setP; split <;> rfl
@[simp] theorem Berth.setP_waiting (b : Berth) (n : PReg) (v : Bool) : (b.setP n v).waiting = b.waiting := by unfold Berth.setP; split <;> rfl
@[simp] theorem Berth.setP_answer (b : Berth) (n : PReg) (v : Bool) : (b.setP n v).answer = b.answer := by unfold Berth.setP; split <;> rfl
@[simp] theorem Berth.setP_seg (b : Berth) (n : PReg) (v : Bool) : (b.setP n v).seg = b.seg := by unfold Berth.setP; split <;> rfl
@[simp] theorem Berth.setP_obuf (b : Berth) (n : PReg) (v : Bool) : (b.setP n v).obuf = b.obuf := by unfold Berth.setP; split <;> rfl
@[simp] theorem Berth.setP_batch (b : Berth) (n : PReg) (v : Bool) : (b.setP n v).batch = b.batch := by unfold Berth.setP; split <;> rfl
@[simp] theorem Berth.setP_outLoad (b : Berth) (n : PReg) (v : Bool) : (b.setP n v).outLoad = b.outLoad := by unfold Berth.setP; split <;> rfl
@[simp] theorem Berth.setP_pq (b : Berth) (n : PReg) (v : Bool) : (b.setP n v).pq = b.pq := by unfold Berth.setP; split <;> rfl
@[simp] theorem Berth.setP_spill (b : Berth) (n : PReg) (v : Bool) : (b.setP n v).spill = b.spill := by unfold Berth.setP; split <;> rfl
@[simp] theorem Berth.setP_pixc (b : Berth) (n : PReg) (v : Bool) : (b.setP n v).pixc = b.pixc := by unfold Berth.setP; split <;> rfl
@[simp] theorem Berth.setP_issueAge (b : Berth) (n : PReg) (v : Bool) : (b.setP n v).issueAge = b.issueAge := by unfold Berth.setP; split <;> rfl
@[simp] theorem Berth.setP_lastIssue (b : Berth) (n : PReg) (v : Bool) : (b.setP n v).lastIssue = b.lastIssue := by unfold Berth.setP; split <;> rfl
@[simp] theorem Berth.setP_yielded (b : Berth) (n : PReg) (v : Bool) : (b.setP n v).yielded = b.yielded := by unfold Berth.setP; split <;> rfl
@[simp] theorem Berth.setP_stalled (b : Berth) (n : PReg) (v : Bool) : (b.setP n v).stalled = b.stalled := by unfold Berth.setP; split <;> rfl
@[simp] theorem Berth.setP_xAge (b : Berth) (n : PReg) (v : Bool) : (b.setP n v).xAge = b.xAge := by unfold Berth.setP; split <;> rfl
@[simp] theorem Berth.setP_xLast (b : Berth) (n : PReg) (v : Bool) : (b.setP n v).xLast = b.xLast := by unfold Berth.setP; split <;> rfl
@[simp] theorem Berth.setP_pzg (b : Berth) (n : PReg) (v : Bool) : (b.setP n v).pzg = b.pzg := by unfold Berth.setP; split <;> rfl
@[simp] theorem Berth.setP_wholeg (b : Berth) (n : PReg) (v : Bool) : (b.setP n v).wholeg = b.wholeg := by unfold Berth.setP; split <;> rfl
@[simp] theorem Berth.setP_rawBack (b : Berth) (n : PReg) (v : Bool) : (b.setP n v).rawBack = b.rawBack := by unfold Berth.setP; split <;> rfl
@[simp] theorem Berth.setP_landing (b : Berth) (n : PReg) (v : Bool) : (b.setP n v).landing = b.landing := by unfold Berth.setP; split <;> rfl
@[simp] theorem Berth.setP_bank (b : Berth) (n : PReg) (v : Bool) : (b.setP n v).bank = b.bank := by unfold Berth.setP; split <;> rfl
@[simp] theorem Berth.setP_dbg (b : Berth) (n : PReg) (v : Bool) : (b.setP n v).dbg = b.dbg := by unfold Berth.setP; split <;> rfl
@[simp] theorem Berth.setP_sw (b : Berth) (n : PReg) (v : Bool) : (b.setP n v).sw = b.sw := by unfold Berth.setP; split <;> rfl
@[simp] theorem Berth.setP_profAt (b : Berth) (n : PReg) (v : Bool) : (b.setP n v).profAt = b.profAt := by unfold Berth.setP; split <;> rfl
@[simp] theorem Berth.setP_profStop (b : Berth) (n : PReg) (v : Bool) : (b.setP n v).profStop = b.profStop := by unfold Berth.setP; split <;> rfl
@[simp] theorem Berth.setP_awaited (b : Berth) (n : PReg) (v : Bool) : (b.setP n v).awaited = b.awaited := by unfold Berth.setP; split <;> rfl
@[simp] theorem Berth.setS_st (b : Berth) (n : SReg) (v : BitVec 256) : (b.setS n v).st = b.st := rfl
@[simp] theorem Berth.setS_ctx (b : Berth) (n : SReg) (v : BitVec 256) : (b.setS n v).ctx = b.ctx := rfl
@[simp] theorem Berth.setS_lsl (b : Berth) (n : SReg) (v : BitVec 256) : (b.setS n v).lsl = b.lsl := rfl
@[simp] theorem Berth.setS_stage (b : Berth) (n : SReg) (v : BitVec 256) : (b.setS n v).stage = b.stage := rfl
@[simp] theorem Berth.setS_lastOcc (b : Berth) (n : SReg) (v : BitVec 256) : (b.setS n v).lastOcc = b.lastOcc := rfl
@[simp] theorem Berth.setS_pc (b : Berth) (n : SReg) (v : BitVec 256) : (b.setS n v).pc = b.pc := rfl
@[simp] theorem Berth.setS_pfx (b : Berth) (n : SReg) (v : BitVec 256) : (b.setS n v).pfx = b.pfx := rfl
@[simp] theorem Berth.setS_pfxWord (b : Berth) (n : SReg) (v : BitVec 256) : (b.setS n v).pfxWord = b.pfxWord := rfl
@[simp] theorem Berth.setS_g (b : Berth) (n : SReg) (v : BitVec 256) : (b.setS n v).g = b.g := rfl
@[simp] theorem Berth.setS_p (b : Berth) (n : SReg) (v : BitVec 256) : (b.setS n v).p = b.p := rfl
@[simp] theorem Berth.setS_q (b : Berth) (n : SReg) (v : BitVec 256) : (b.setS n v).q = b.q := rfl
@[simp] theorem Berth.setS_rngk (b : Berth) (n : SReg) (v : BitVec 256) : (b.setS n v).rngk = b.rngk := rfl
@[simp] theorem Berth.setS_rngc (b : Berth) (n : SReg) (v : BitVec 256) : (b.setS n v).rngc = b.rngc := rfl
@[simp] theorem Berth.setS_trap (b : Berth) (n : SReg) (v : BitVec 256) : (b.setS n v).trap = b.trap := rfl
@[simp] theorem Berth.setS_trapped (b : Berth) (n : SReg) (v : BitVec 256) : (b.setS n v).trapped = b.trapped := rfl
@[simp] theorem Berth.setS_cut (b : Berth) (n : SReg) (v : BitVec 256) : (b.setS n v).cut = b.cut := rfl
@[simp] theorem Berth.setS_haltF (b : Berth) (n : SReg) (v : BitVec 256) : (b.setS n v).haltF = b.haltF := rfl
@[simp] theorem Berth.setS_recs (b : Berth) (n : SReg) (v : BitVec 256) : (b.setS n v).recs = b.recs := rfl
@[simp] theorem Berth.setS_hist (b : Berth) (n : SReg) (v : BitVec 256) : (b.setS n v).hist = b.hist := rfl
@[simp] theorem Berth.setS_qfront (b : Berth) (n : SReg) (v : BitVec 256) : (b.setS n v).qfront = b.qfront := rfl
@[simp] theorem Berth.setS_app (b : Berth) (n : SReg) (v : BitVec 256) : (b.setS n v).app = b.app := rfl
@[simp] theorem Berth.setS_qsn (b : Berth) (n : SReg) (v : BitVec 256) : (b.setS n v).qsn = b.qsn := rfl
@[simp] theorem Berth.setS_fifos (b : Berth) (n : SReg) (v : BitVec 256) : (b.setS n v).fifos = b.fifos := rfl
@[simp] theorem Berth.setS_arrs (b : Berth) (n : SReg) (v : BitVec 256) : (b.setS n v).arrs = b.arrs := rfl
@[simp] theorem Berth.setS_tid (b : Berth) (n : SReg) (v : BitVec 256) : (b.setS n v).tid = b.tid := rfl
@[simp] theorem Berth.setS_clk (b : Berth) (n : SReg) (v : BitVec 256) : (b.setS n v).clk = b.clk := rfl
@[simp] theorem Berth.setS_also (b : Berth) (n : SReg) (v : BitVec 256) : (b.setS n v).also = b.also := rfl
@[simp] theorem Berth.setS_pubs (b : Berth) (n : SReg) (v : BitVec 256) : (b.setS n v).pubs = b.pubs := rfl
@[simp] theorem Berth.setS_acqs (b : Berth) (n : SReg) (v : BitVec 256) : (b.setS n v).acqs = b.acqs := rfl
@[simp] theorem Berth.setS_refs (b : Berth) (n : SReg) (v : BitVec 256) : (b.setS n v).refs = b.refs := rfl
@[simp] theorem Berth.setS_pend (b : Berth) (n : SReg) (v : BitVec 256) : (b.setS n v).pend = b.pend := rfl
@[simp] theorem Berth.setS_handle (b : Berth) (n : SReg) (v : BitVec 256) : (b.setS n v).handle = b.handle := rfl
@[simp] theorem Berth.setS_hasTask (b : Berth) (n : SReg) (v : BitVec 256) : (b.setS n v).hasTask = b.hasTask := rfl
@[simp] theorem Berth.setS_gang (b : Berth) (n : SReg) (v : BitVec 256) : (b.setS n v).gang = b.gang := rfl
@[simp] theorem Berth.setS_arrivedPh (b : Berth) (n : SReg) (v : BitVec 256) : (b.setS n v).arrivedPh = b.arrivedPh := rfl
@[simp] theorem Berth.setS_joinNo (b : Berth) (n : SReg) (v : BitVec 256) : (b.setS n v).joinNo = b.joinNo := rfl
@[simp] theorem Berth.setS_waiting (b : Berth) (n : SReg) (v : BitVec 256) : (b.setS n v).waiting = b.waiting := rfl
@[simp] theorem Berth.setS_answer (b : Berth) (n : SReg) (v : BitVec 256) : (b.setS n v).answer = b.answer := rfl
@[simp] theorem Berth.setS_seg (b : Berth) (n : SReg) (v : BitVec 256) : (b.setS n v).seg = b.seg := rfl
@[simp] theorem Berth.setS_obuf (b : Berth) (n : SReg) (v : BitVec 256) : (b.setS n v).obuf = b.obuf := rfl
@[simp] theorem Berth.setS_batch (b : Berth) (n : SReg) (v : BitVec 256) : (b.setS n v).batch = b.batch := rfl
@[simp] theorem Berth.setS_outLoad (b : Berth) (n : SReg) (v : BitVec 256) : (b.setS n v).outLoad = b.outLoad := rfl
@[simp] theorem Berth.setS_pq (b : Berth) (n : SReg) (v : BitVec 256) : (b.setS n v).pq = b.pq := rfl
@[simp] theorem Berth.setS_spill (b : Berth) (n : SReg) (v : BitVec 256) : (b.setS n v).spill = b.spill := rfl
@[simp] theorem Berth.setS_pixc (b : Berth) (n : SReg) (v : BitVec 256) : (b.setS n v).pixc = b.pixc := rfl
@[simp] theorem Berth.setS_issueAge (b : Berth) (n : SReg) (v : BitVec 256) : (b.setS n v).issueAge = b.issueAge := rfl
@[simp] theorem Berth.setS_lastIssue (b : Berth) (n : SReg) (v : BitVec 256) : (b.setS n v).lastIssue = b.lastIssue := rfl
@[simp] theorem Berth.setS_yielded (b : Berth) (n : SReg) (v : BitVec 256) : (b.setS n v).yielded = b.yielded := rfl
@[simp] theorem Berth.setS_stalled (b : Berth) (n : SReg) (v : BitVec 256) : (b.setS n v).stalled = b.stalled := rfl
@[simp] theorem Berth.setS_xAge (b : Berth) (n : SReg) (v : BitVec 256) : (b.setS n v).xAge = b.xAge := rfl
@[simp] theorem Berth.setS_xLast (b : Berth) (n : SReg) (v : BitVec 256) : (b.setS n v).xLast = b.xLast := rfl
@[simp] theorem Berth.setS_pzg (b : Berth) (n : SReg) (v : BitVec 256) : (b.setS n v).pzg = b.pzg := rfl
@[simp] theorem Berth.setS_wholeg (b : Berth) (n : SReg) (v : BitVec 256) : (b.setS n v).wholeg = b.wholeg := rfl
@[simp] theorem Berth.setS_rawBack (b : Berth) (n : SReg) (v : BitVec 256) : (b.setS n v).rawBack = b.rawBack := rfl
@[simp] theorem Berth.setS_landing (b : Berth) (n : SReg) (v : BitVec 256) : (b.setS n v).landing = b.landing := rfl
@[simp] theorem Berth.setS_bank (b : Berth) (n : SReg) (v : BitVec 256) : (b.setS n v).bank = b.bank := rfl
@[simp] theorem Berth.setS_dbg (b : Berth) (n : SReg) (v : BitVec 256) : (b.setS n v).dbg = b.dbg := rfl
@[simp] theorem Berth.setS_sw (b : Berth) (n : SReg) (v : BitVec 256) : (b.setS n v).sw = b.sw := rfl
@[simp] theorem Berth.setS_profAt (b : Berth) (n : SReg) (v : BitVec 256) : (b.setS n v).profAt = b.profAt := rfl
@[simp] theorem Berth.setS_profStop (b : Berth) (n : SReg) (v : BitVec 256) : (b.setS n v).profStop = b.profStop := rfl
@[simp] theorem Berth.setS_awaited (b : Berth) (n : SReg) (v : BitVec 256) : (b.setS n v).awaited = b.awaited := rfl
@[simp] theorem Berth.setQ_st (b : Berth) (n : Nat) (v : Word) : (b.setQ n v).st = b.st := rfl
@[simp] theorem Berth.setQ_ctx (b : Berth) (n : Nat) (v : Word) : (b.setQ n v).ctx = b.ctx := rfl
@[simp] theorem Berth.setQ_lsl (b : Berth) (n : Nat) (v : Word) : (b.setQ n v).lsl = b.lsl := rfl
@[simp] theorem Berth.setQ_stage (b : Berth) (n : Nat) (v : Word) : (b.setQ n v).stage = b.stage := rfl
@[simp] theorem Berth.setQ_lastOcc (b : Berth) (n : Nat) (v : Word) : (b.setQ n v).lastOcc = b.lastOcc := rfl
@[simp] theorem Berth.setQ_pc (b : Berth) (n : Nat) (v : Word) : (b.setQ n v).pc = b.pc := rfl
@[simp] theorem Berth.setQ_pfx (b : Berth) (n : Nat) (v : Word) : (b.setQ n v).pfx = b.pfx := rfl
@[simp] theorem Berth.setQ_pfxWord (b : Berth) (n : Nat) (v : Word) : (b.setQ n v).pfxWord = b.pfxWord := rfl
@[simp] theorem Berth.setQ_g (b : Berth) (n : Nat) (v : Word) : (b.setQ n v).g = b.g := rfl
@[simp] theorem Berth.setQ_p (b : Berth) (n : Nat) (v : Word) : (b.setQ n v).p = b.p := rfl
@[simp] theorem Berth.setQ_s (b : Berth) (n : Nat) (v : Word) : (b.setQ n v).s = b.s := rfl
@[simp] theorem Berth.setQ_rngk (b : Berth) (n : Nat) (v : Word) : (b.setQ n v).rngk = b.rngk := rfl
@[simp] theorem Berth.setQ_rngc (b : Berth) (n : Nat) (v : Word) : (b.setQ n v).rngc = b.rngc := rfl
@[simp] theorem Berth.setQ_trap (b : Berth) (n : Nat) (v : Word) : (b.setQ n v).trap = b.trap := rfl
@[simp] theorem Berth.setQ_trapped (b : Berth) (n : Nat) (v : Word) : (b.setQ n v).trapped = b.trapped := rfl
@[simp] theorem Berth.setQ_cut (b : Berth) (n : Nat) (v : Word) : (b.setQ n v).cut = b.cut := rfl
@[simp] theorem Berth.setQ_haltF (b : Berth) (n : Nat) (v : Word) : (b.setQ n v).haltF = b.haltF := rfl
@[simp] theorem Berth.setQ_recs (b : Berth) (n : Nat) (v : Word) : (b.setQ n v).recs = b.recs := rfl
@[simp] theorem Berth.setQ_hist (b : Berth) (n : Nat) (v : Word) : (b.setQ n v).hist = b.hist := rfl
@[simp] theorem Berth.setQ_qfront (b : Berth) (n : Nat) (v : Word) : (b.setQ n v).qfront = b.qfront := rfl
@[simp] theorem Berth.setQ_app (b : Berth) (n : Nat) (v : Word) : (b.setQ n v).app = b.app := rfl
@[simp] theorem Berth.setQ_qsn (b : Berth) (n : Nat) (v : Word) : (b.setQ n v).qsn = b.qsn := rfl
@[simp] theorem Berth.setQ_fifos (b : Berth) (n : Nat) (v : Word) : (b.setQ n v).fifos = b.fifos := rfl
@[simp] theorem Berth.setQ_arrs (b : Berth) (n : Nat) (v : Word) : (b.setQ n v).arrs = b.arrs := rfl
@[simp] theorem Berth.setQ_tid (b : Berth) (n : Nat) (v : Word) : (b.setQ n v).tid = b.tid := rfl
@[simp] theorem Berth.setQ_clk (b : Berth) (n : Nat) (v : Word) : (b.setQ n v).clk = b.clk := rfl
@[simp] theorem Berth.setQ_also (b : Berth) (n : Nat) (v : Word) : (b.setQ n v).also = b.also := rfl
@[simp] theorem Berth.setQ_pubs (b : Berth) (n : Nat) (v : Word) : (b.setQ n v).pubs = b.pubs := rfl
@[simp] theorem Berth.setQ_acqs (b : Berth) (n : Nat) (v : Word) : (b.setQ n v).acqs = b.acqs := rfl
@[simp] theorem Berth.setQ_refs (b : Berth) (n : Nat) (v : Word) : (b.setQ n v).refs = b.refs := rfl
@[simp] theorem Berth.setQ_pend (b : Berth) (n : Nat) (v : Word) : (b.setQ n v).pend = b.pend := rfl
@[simp] theorem Berth.setQ_handle (b : Berth) (n : Nat) (v : Word) : (b.setQ n v).handle = b.handle := rfl
@[simp] theorem Berth.setQ_hasTask (b : Berth) (n : Nat) (v : Word) : (b.setQ n v).hasTask = b.hasTask := rfl
@[simp] theorem Berth.setQ_gang (b : Berth) (n : Nat) (v : Word) : (b.setQ n v).gang = b.gang := rfl
@[simp] theorem Berth.setQ_arrivedPh (b : Berth) (n : Nat) (v : Word) : (b.setQ n v).arrivedPh = b.arrivedPh := rfl
@[simp] theorem Berth.setQ_joinNo (b : Berth) (n : Nat) (v : Word) : (b.setQ n v).joinNo = b.joinNo := rfl
@[simp] theorem Berth.setQ_waiting (b : Berth) (n : Nat) (v : Word) : (b.setQ n v).waiting = b.waiting := rfl
@[simp] theorem Berth.setQ_answer (b : Berth) (n : Nat) (v : Word) : (b.setQ n v).answer = b.answer := rfl
@[simp] theorem Berth.setQ_seg (b : Berth) (n : Nat) (v : Word) : (b.setQ n v).seg = b.seg := rfl
@[simp] theorem Berth.setQ_obuf (b : Berth) (n : Nat) (v : Word) : (b.setQ n v).obuf = b.obuf := rfl
@[simp] theorem Berth.setQ_batch (b : Berth) (n : Nat) (v : Word) : (b.setQ n v).batch = b.batch := rfl
@[simp] theorem Berth.setQ_outLoad (b : Berth) (n : Nat) (v : Word) : (b.setQ n v).outLoad = b.outLoad := rfl
@[simp] theorem Berth.setQ_pq (b : Berth) (n : Nat) (v : Word) : (b.setQ n v).pq = b.pq := rfl
@[simp] theorem Berth.setQ_spill (b : Berth) (n : Nat) (v : Word) : (b.setQ n v).spill = b.spill := rfl
@[simp] theorem Berth.setQ_pixc (b : Berth) (n : Nat) (v : Word) : (b.setQ n v).pixc = b.pixc := rfl
@[simp] theorem Berth.setQ_issueAge (b : Berth) (n : Nat) (v : Word) : (b.setQ n v).issueAge = b.issueAge := rfl
@[simp] theorem Berth.setQ_lastIssue (b : Berth) (n : Nat) (v : Word) : (b.setQ n v).lastIssue = b.lastIssue := rfl
@[simp] theorem Berth.setQ_yielded (b : Berth) (n : Nat) (v : Word) : (b.setQ n v).yielded = b.yielded := rfl
@[simp] theorem Berth.setQ_stalled (b : Berth) (n : Nat) (v : Word) : (b.setQ n v).stalled = b.stalled := rfl
@[simp] theorem Berth.setQ_xAge (b : Berth) (n : Nat) (v : Word) : (b.setQ n v).xAge = b.xAge := rfl
@[simp] theorem Berth.setQ_xLast (b : Berth) (n : Nat) (v : Word) : (b.setQ n v).xLast = b.xLast := rfl
@[simp] theorem Berth.setQ_pzg (b : Berth) (n : Nat) (v : Word) : (b.setQ n v).pzg = b.pzg := rfl
@[simp] theorem Berth.setQ_wholeg (b : Berth) (n : Nat) (v : Word) : (b.setQ n v).wholeg = b.wholeg := rfl
@[simp] theorem Berth.setQ_rawBack (b : Berth) (n : Nat) (v : Word) : (b.setQ n v).rawBack = b.rawBack := rfl
@[simp] theorem Berth.setQ_landing (b : Berth) (n : Nat) (v : Word) : (b.setQ n v).landing = b.landing := rfl
@[simp] theorem Berth.setQ_bank (b : Berth) (n : Nat) (v : Word) : (b.setQ n v).bank = b.bank := rfl
@[simp] theorem Berth.setQ_dbg (b : Berth) (n : Nat) (v : Word) : (b.setQ n v).dbg = b.dbg := rfl
@[simp] theorem Berth.setQ_sw (b : Berth) (n : Nat) (v : Word) : (b.setQ n v).sw = b.sw := rfl
@[simp] theorem Berth.setQ_profAt (b : Berth) (n : Nat) (v : Word) : (b.setQ n v).profAt = b.profAt := rfl
@[simp] theorem Berth.setQ_profStop (b : Berth) (n : Nat) (v : Word) : (b.setQ n v).profStop = b.profStop := rfl
@[simp] theorem Berth.setQ_awaited (b : Berth) (n : Nat) (v : Word) : (b.setQ n v).awaited = b.awaited := rfl
@[simp] theorem Berth.setPreds_st (b : Berth) (v : Word) : (b.setPreds v).st = b.st := rfl
@[simp] theorem Berth.setPreds_ctx (b : Berth) (v : Word) : (b.setPreds v).ctx = b.ctx := rfl
@[simp] theorem Berth.setPreds_lsl (b : Berth) (v : Word) : (b.setPreds v).lsl = b.lsl := rfl
@[simp] theorem Berth.setPreds_stage (b : Berth) (v : Word) : (b.setPreds v).stage = b.stage := rfl
@[simp] theorem Berth.setPreds_lastOcc (b : Berth) (v : Word) : (b.setPreds v).lastOcc = b.lastOcc := rfl
@[simp] theorem Berth.setPreds_pc (b : Berth) (v : Word) : (b.setPreds v).pc = b.pc := rfl
@[simp] theorem Berth.setPreds_pfx (b : Berth) (v : Word) : (b.setPreds v).pfx = b.pfx := rfl
@[simp] theorem Berth.setPreds_pfxWord (b : Berth) (v : Word) : (b.setPreds v).pfxWord = b.pfxWord := rfl
@[simp] theorem Berth.setPreds_g (b : Berth) (v : Word) : (b.setPreds v).g = b.g := rfl
@[simp] theorem Berth.setPreds_s (b : Berth) (v : Word) : (b.setPreds v).s = b.s := rfl
@[simp] theorem Berth.setPreds_q (b : Berth) (v : Word) : (b.setPreds v).q = b.q := rfl
@[simp] theorem Berth.setPreds_rngk (b : Berth) (v : Word) : (b.setPreds v).rngk = b.rngk := rfl
@[simp] theorem Berth.setPreds_rngc (b : Berth) (v : Word) : (b.setPreds v).rngc = b.rngc := rfl
@[simp] theorem Berth.setPreds_trap (b : Berth) (v : Word) : (b.setPreds v).trap = b.trap := rfl
@[simp] theorem Berth.setPreds_trapped (b : Berth) (v : Word) : (b.setPreds v).trapped = b.trapped := rfl
@[simp] theorem Berth.setPreds_cut (b : Berth) (v : Word) : (b.setPreds v).cut = b.cut := rfl
@[simp] theorem Berth.setPreds_haltF (b : Berth) (v : Word) : (b.setPreds v).haltF = b.haltF := rfl
@[simp] theorem Berth.setPreds_recs (b : Berth) (v : Word) : (b.setPreds v).recs = b.recs := rfl
@[simp] theorem Berth.setPreds_hist (b : Berth) (v : Word) : (b.setPreds v).hist = b.hist := rfl
@[simp] theorem Berth.setPreds_qfront (b : Berth) (v : Word) : (b.setPreds v).qfront = b.qfront := rfl
@[simp] theorem Berth.setPreds_app (b : Berth) (v : Word) : (b.setPreds v).app = b.app := rfl
@[simp] theorem Berth.setPreds_qsn (b : Berth) (v : Word) : (b.setPreds v).qsn = b.qsn := rfl
@[simp] theorem Berth.setPreds_fifos (b : Berth) (v : Word) : (b.setPreds v).fifos = b.fifos := rfl
@[simp] theorem Berth.setPreds_arrs (b : Berth) (v : Word) : (b.setPreds v).arrs = b.arrs := rfl
@[simp] theorem Berth.setPreds_tid (b : Berth) (v : Word) : (b.setPreds v).tid = b.tid := rfl
@[simp] theorem Berth.setPreds_clk (b : Berth) (v : Word) : (b.setPreds v).clk = b.clk := rfl
@[simp] theorem Berth.setPreds_also (b : Berth) (v : Word) : (b.setPreds v).also = b.also := rfl
@[simp] theorem Berth.setPreds_pubs (b : Berth) (v : Word) : (b.setPreds v).pubs = b.pubs := rfl
@[simp] theorem Berth.setPreds_acqs (b : Berth) (v : Word) : (b.setPreds v).acqs = b.acqs := rfl
@[simp] theorem Berth.setPreds_refs (b : Berth) (v : Word) : (b.setPreds v).refs = b.refs := rfl
@[simp] theorem Berth.setPreds_pend (b : Berth) (v : Word) : (b.setPreds v).pend = b.pend := rfl
@[simp] theorem Berth.setPreds_handle (b : Berth) (v : Word) : (b.setPreds v).handle = b.handle := rfl
@[simp] theorem Berth.setPreds_hasTask (b : Berth) (v : Word) : (b.setPreds v).hasTask = b.hasTask := rfl
@[simp] theorem Berth.setPreds_gang (b : Berth) (v : Word) : (b.setPreds v).gang = b.gang := rfl
@[simp] theorem Berth.setPreds_arrivedPh (b : Berth) (v : Word) : (b.setPreds v).arrivedPh = b.arrivedPh := rfl
@[simp] theorem Berth.setPreds_joinNo (b : Berth) (v : Word) : (b.setPreds v).joinNo = b.joinNo := rfl
@[simp] theorem Berth.setPreds_waiting (b : Berth) (v : Word) : (b.setPreds v).waiting = b.waiting := rfl
@[simp] theorem Berth.setPreds_answer (b : Berth) (v : Word) : (b.setPreds v).answer = b.answer := rfl
@[simp] theorem Berth.setPreds_seg (b : Berth) (v : Word) : (b.setPreds v).seg = b.seg := rfl
@[simp] theorem Berth.setPreds_obuf (b : Berth) (v : Word) : (b.setPreds v).obuf = b.obuf := rfl
@[simp] theorem Berth.setPreds_batch (b : Berth) (v : Word) : (b.setPreds v).batch = b.batch := rfl
@[simp] theorem Berth.setPreds_outLoad (b : Berth) (v : Word) : (b.setPreds v).outLoad = b.outLoad := rfl
@[simp] theorem Berth.setPreds_pq (b : Berth) (v : Word) : (b.setPreds v).pq = b.pq := rfl
@[simp] theorem Berth.setPreds_spill (b : Berth) (v : Word) : (b.setPreds v).spill = b.spill := rfl
@[simp] theorem Berth.setPreds_pixc (b : Berth) (v : Word) : (b.setPreds v).pixc = b.pixc := rfl
@[simp] theorem Berth.setPreds_issueAge (b : Berth) (v : Word) : (b.setPreds v).issueAge = b.issueAge := rfl
@[simp] theorem Berth.setPreds_lastIssue (b : Berth) (v : Word) : (b.setPreds v).lastIssue = b.lastIssue := rfl
@[simp] theorem Berth.setPreds_yielded (b : Berth) (v : Word) : (b.setPreds v).yielded = b.yielded := rfl
@[simp] theorem Berth.setPreds_stalled (b : Berth) (v : Word) : (b.setPreds v).stalled = b.stalled := rfl
@[simp] theorem Berth.setPreds_xAge (b : Berth) (v : Word) : (b.setPreds v).xAge = b.xAge := rfl
@[simp] theorem Berth.setPreds_xLast (b : Berth) (v : Word) : (b.setPreds v).xLast = b.xLast := rfl
@[simp] theorem Berth.setPreds_pzg (b : Berth) (v : Word) : (b.setPreds v).pzg = b.pzg := rfl
@[simp] theorem Berth.setPreds_wholeg (b : Berth) (v : Word) : (b.setPreds v).wholeg = b.wholeg := rfl
@[simp] theorem Berth.setPreds_rawBack (b : Berth) (v : Word) : (b.setPreds v).rawBack = b.rawBack := rfl
@[simp] theorem Berth.setPreds_landing (b : Berth) (v : Word) : (b.setPreds v).landing = b.landing := rfl
@[simp] theorem Berth.setPreds_bank (b : Berth) (v : Word) : (b.setPreds v).bank = b.bank := rfl
@[simp] theorem Berth.setPreds_dbg (b : Berth) (v : Word) : (b.setPreds v).dbg = b.dbg := rfl
@[simp] theorem Berth.setPreds_sw (b : Berth) (v : Word) : (b.setPreds v).sw = b.sw := rfl
@[simp] theorem Berth.setPreds_profAt (b : Berth) (v : Word) : (b.setPreds v).profAt = b.profAt := rfl
@[simp] theorem Berth.setPreds_profStop (b : Berth) (v : Word) : (b.setPreds v).profStop = b.profStop := rfl
@[simp] theorem Berth.setPreds_awaited (b : Berth) (v : Word) : (b.setPreds v).awaited = b.awaited := rfl
@[simp] theorem Berth.sign_st (b : Berth) (ws : List Half) : (b.sign ws).st = b.st := by unfold Berth.sign; split <;> rfl
@[simp] theorem Berth.sign_ctx (b : Berth) (ws : List Half) : (b.sign ws).ctx = b.ctx := by unfold Berth.sign; split <;> rfl
@[simp] theorem Berth.sign_lsl (b : Berth) (ws : List Half) : (b.sign ws).lsl = b.lsl := by unfold Berth.sign; split <;> rfl
@[simp] theorem Berth.sign_stage (b : Berth) (ws : List Half) : (b.sign ws).stage = b.stage := by unfold Berth.sign; split <;> rfl
@[simp] theorem Berth.sign_lastOcc (b : Berth) (ws : List Half) : (b.sign ws).lastOcc = b.lastOcc := by unfold Berth.sign; split <;> rfl
@[simp] theorem Berth.sign_pc (b : Berth) (ws : List Half) : (b.sign ws).pc = b.pc := by unfold Berth.sign; split <;> rfl
@[simp] theorem Berth.sign_pfx (b : Berth) (ws : List Half) : (b.sign ws).pfx = b.pfx := by unfold Berth.sign; split <;> rfl
@[simp] theorem Berth.sign_pfxWord (b : Berth) (ws : List Half) : (b.sign ws).pfxWord = b.pfxWord := by unfold Berth.sign; split <;> rfl
@[simp] theorem Berth.sign_g (b : Berth) (ws : List Half) : (b.sign ws).g = b.g := by unfold Berth.sign; split <;> rfl
@[simp] theorem Berth.sign_p (b : Berth) (ws : List Half) : (b.sign ws).p = b.p := by unfold Berth.sign; split <;> rfl
@[simp] theorem Berth.sign_s (b : Berth) (ws : List Half) : (b.sign ws).s = b.s := by unfold Berth.sign; split <;> rfl
@[simp] theorem Berth.sign_q (b : Berth) (ws : List Half) : (b.sign ws).q = b.q := by unfold Berth.sign; split <;> rfl
@[simp] theorem Berth.sign_rngk (b : Berth) (ws : List Half) : (b.sign ws).rngk = b.rngk := by unfold Berth.sign; split <;> rfl
@[simp] theorem Berth.sign_rngc (b : Berth) (ws : List Half) : (b.sign ws).rngc = b.rngc := by unfold Berth.sign; split <;> rfl
@[simp] theorem Berth.sign_trap (b : Berth) (ws : List Half) : (b.sign ws).trap = b.trap := by unfold Berth.sign; split <;> rfl
@[simp] theorem Berth.sign_trapped (b : Berth) (ws : List Half) : (b.sign ws).trapped = b.trapped := by unfold Berth.sign; split <;> rfl
@[simp] theorem Berth.sign_cut (b : Berth) (ws : List Half) : (b.sign ws).cut = b.cut := by unfold Berth.sign; split <;> rfl
@[simp] theorem Berth.sign_haltF (b : Berth) (ws : List Half) : (b.sign ws).haltF = b.haltF := by unfold Berth.sign; split <;> rfl
@[simp] theorem Berth.sign_recs (b : Berth) (ws : List Half) : (b.sign ws).recs = b.recs := by unfold Berth.sign; split <;> rfl
@[simp] theorem Berth.sign_hist (b : Berth) (ws : List Half) : (b.sign ws).hist = b.hist := by unfold Berth.sign; split <;> rfl
@[simp] theorem Berth.sign_qfront (b : Berth) (ws : List Half) : (b.sign ws).qfront = b.qfront := by unfold Berth.sign; split <;> rfl
@[simp] theorem Berth.sign_app (b : Berth) (ws : List Half) : (b.sign ws).app = b.app := by unfold Berth.sign; split <;> rfl
@[simp] theorem Berth.sign_qsn (b : Berth) (ws : List Half) : (b.sign ws).qsn = b.qsn := by unfold Berth.sign; split <;> rfl
@[simp] theorem Berth.sign_fifos (b : Berth) (ws : List Half) : (b.sign ws).fifos = b.fifos := by unfold Berth.sign; split <;> rfl
@[simp] theorem Berth.sign_arrs (b : Berth) (ws : List Half) : (b.sign ws).arrs = b.arrs := by unfold Berth.sign; split <;> rfl
@[simp] theorem Berth.sign_tid (b : Berth) (ws : List Half) : (b.sign ws).tid = b.tid := by unfold Berth.sign; split <;> rfl
@[simp] theorem Berth.sign_clk (b : Berth) (ws : List Half) : (b.sign ws).clk = b.clk := by unfold Berth.sign; split <;> rfl
@[simp] theorem Berth.sign_also (b : Berth) (ws : List Half) : (b.sign ws).also = b.also := by unfold Berth.sign; split <;> rfl
@[simp] theorem Berth.sign_pubs (b : Berth) (ws : List Half) : (b.sign ws).pubs = b.pubs := by unfold Berth.sign; split <;> rfl
@[simp] theorem Berth.sign_acqs (b : Berth) (ws : List Half) : (b.sign ws).acqs = b.acqs := by unfold Berth.sign; split <;> rfl
@[simp] theorem Berth.sign_refs (b : Berth) (ws : List Half) : (b.sign ws).refs = b.refs := by unfold Berth.sign; split <;> rfl
@[simp] theorem Berth.sign_pend (b : Berth) (ws : List Half) : (b.sign ws).pend = b.pend := by unfold Berth.sign; split <;> rfl
@[simp] theorem Berth.sign_handle (b : Berth) (ws : List Half) : (b.sign ws).handle = b.handle := by unfold Berth.sign; split <;> rfl
@[simp] theorem Berth.sign_hasTask (b : Berth) (ws : List Half) : (b.sign ws).hasTask = b.hasTask := by unfold Berth.sign; split <;> rfl
@[simp] theorem Berth.sign_gang (b : Berth) (ws : List Half) : (b.sign ws).gang = b.gang := by unfold Berth.sign; split <;> rfl
@[simp] theorem Berth.sign_arrivedPh (b : Berth) (ws : List Half) : (b.sign ws).arrivedPh = b.arrivedPh := by unfold Berth.sign; split <;> rfl
@[simp] theorem Berth.sign_joinNo (b : Berth) (ws : List Half) : (b.sign ws).joinNo = b.joinNo := by unfold Berth.sign; split <;> rfl
@[simp] theorem Berth.sign_waiting (b : Berth) (ws : List Half) : (b.sign ws).waiting = b.waiting := by unfold Berth.sign; split <;> rfl
@[simp] theorem Berth.sign_answer (b : Berth) (ws : List Half) : (b.sign ws).answer = b.answer := by unfold Berth.sign; split <;> rfl
@[simp] theorem Berth.sign_obuf (b : Berth) (ws : List Half) : (b.sign ws).obuf = b.obuf := by unfold Berth.sign; split <;> rfl
@[simp] theorem Berth.sign_batch (b : Berth) (ws : List Half) : (b.sign ws).batch = b.batch := by unfold Berth.sign; split <;> rfl
@[simp] theorem Berth.sign_outLoad (b : Berth) (ws : List Half) : (b.sign ws).outLoad = b.outLoad := by unfold Berth.sign; split <;> rfl
@[simp] theorem Berth.sign_pq (b : Berth) (ws : List Half) : (b.sign ws).pq = b.pq := by unfold Berth.sign; split <;> rfl
@[simp] theorem Berth.sign_spill (b : Berth) (ws : List Half) : (b.sign ws).spill = b.spill := by unfold Berth.sign; split <;> rfl
@[simp] theorem Berth.sign_pixc (b : Berth) (ws : List Half) : (b.sign ws).pixc = b.pixc := by unfold Berth.sign; split <;> rfl
@[simp] theorem Berth.sign_issueAge (b : Berth) (ws : List Half) : (b.sign ws).issueAge = b.issueAge := by unfold Berth.sign; split <;> rfl
@[simp] theorem Berth.sign_lastIssue (b : Berth) (ws : List Half) : (b.sign ws).lastIssue = b.lastIssue := by unfold Berth.sign; split <;> rfl
@[simp] theorem Berth.sign_yielded (b : Berth) (ws : List Half) : (b.sign ws).yielded = b.yielded := by unfold Berth.sign; split <;> rfl
@[simp] theorem Berth.sign_stalled (b : Berth) (ws : List Half) : (b.sign ws).stalled = b.stalled := by unfold Berth.sign; split <;> rfl
@[simp] theorem Berth.sign_xAge (b : Berth) (ws : List Half) : (b.sign ws).xAge = b.xAge := by unfold Berth.sign; split <;> rfl
@[simp] theorem Berth.sign_xLast (b : Berth) (ws : List Half) : (b.sign ws).xLast = b.xLast := by unfold Berth.sign; split <;> rfl
@[simp] theorem Berth.sign_pzg (b : Berth) (ws : List Half) : (b.sign ws).pzg = b.pzg := by unfold Berth.sign; split <;> rfl
@[simp] theorem Berth.sign_wholeg (b : Berth) (ws : List Half) : (b.sign ws).wholeg = b.wholeg := by unfold Berth.sign; split <;> rfl
@[simp] theorem Berth.sign_rawBack (b : Berth) (ws : List Half) : (b.sign ws).rawBack = b.rawBack := by unfold Berth.sign; split <;> rfl
@[simp] theorem Berth.sign_landing (b : Berth) (ws : List Half) : (b.sign ws).landing = b.landing := by unfold Berth.sign; split <;> rfl
@[simp] theorem Berth.sign_bank (b : Berth) (ws : List Half) : (b.sign ws).bank = b.bank := by unfold Berth.sign; split <;> rfl
@[simp] theorem Berth.sign_dbg (b : Berth) (ws : List Half) : (b.sign ws).dbg = b.dbg := by unfold Berth.sign; split <;> rfl
@[simp] theorem Berth.sign_sw (b : Berth) (ws : List Half) : (b.sign ws).sw = b.sw := by unfold Berth.sign; split <;> rfl
@[simp] theorem Berth.sign_profAt (b : Berth) (ws : List Half) : (b.sign ws).profAt = b.profAt := by unfold Berth.sign; split <;> rfl
@[simp] theorem Berth.sign_profStop (b : Berth) (ws : List Half) : (b.sign ws).profStop = b.profStop := by unfold Berth.sign; split <;> rfl
@[simp] theorem Berth.sign_awaited (b : Berth) (ws : List Half) : (b.sign ws).awaited = b.awaited := by unfold Berth.sign; split <;> rfl
@[simp] theorem Berth.stepStop_st (b : Berth)  : (b.stepStop ).st = b.st := by unfold Berth.stepStop; split <;> rfl
@[simp] theorem Berth.stepStop_ctx (b : Berth)  : (b.stepStop ).ctx = b.ctx := by unfold Berth.stepStop; split <;> rfl
@[simp] theorem Berth.stepStop_lsl (b : Berth)  : (b.stepStop ).lsl = b.lsl := by unfold Berth.stepStop; split <;> rfl
@[simp] theorem Berth.stepStop_stage (b : Berth)  : (b.stepStop ).stage = b.stage := by unfold Berth.stepStop; split <;> rfl
@[simp] theorem Berth.stepStop_lastOcc (b : Berth)  : (b.stepStop ).lastOcc = b.lastOcc := by unfold Berth.stepStop; split <;> rfl
@[simp] theorem Berth.stepStop_pc (b : Berth)  : (b.stepStop ).pc = b.pc := by unfold Berth.stepStop; split <;> rfl
@[simp] theorem Berth.stepStop_pfx (b : Berth)  : (b.stepStop ).pfx = b.pfx := by unfold Berth.stepStop; split <;> rfl
@[simp] theorem Berth.stepStop_pfxWord (b : Berth)  : (b.stepStop ).pfxWord = b.pfxWord := by unfold Berth.stepStop; split <;> rfl
@[simp] theorem Berth.stepStop_g (b : Berth)  : (b.stepStop ).g = b.g := by unfold Berth.stepStop; split <;> rfl
@[simp] theorem Berth.stepStop_p (b : Berth)  : (b.stepStop ).p = b.p := by unfold Berth.stepStop; split <;> rfl
@[simp] theorem Berth.stepStop_s (b : Berth)  : (b.stepStop ).s = b.s := by unfold Berth.stepStop; split <;> rfl
@[simp] theorem Berth.stepStop_q (b : Berth)  : (b.stepStop ).q = b.q := by unfold Berth.stepStop; split <;> rfl
@[simp] theorem Berth.stepStop_rngk (b : Berth)  : (b.stepStop ).rngk = b.rngk := by unfold Berth.stepStop; split <;> rfl
@[simp] theorem Berth.stepStop_rngc (b : Berth)  : (b.stepStop ).rngc = b.rngc := by unfold Berth.stepStop; split <;> rfl
@[simp] theorem Berth.stepStop_trap (b : Berth)  : (b.stepStop ).trap = b.trap := by unfold Berth.stepStop; split <;> rfl
@[simp] theorem Berth.stepStop_trapped (b : Berth)  : (b.stepStop ).trapped = b.trapped := by unfold Berth.stepStop; split <;> rfl
@[simp] theorem Berth.stepStop_haltF (b : Berth)  : (b.stepStop ).haltF = b.haltF := by unfold Berth.stepStop; split <;> rfl
@[simp] theorem Berth.stepStop_recs (b : Berth)  : (b.stepStop ).recs = b.recs := by unfold Berth.stepStop; split <;> rfl
@[simp] theorem Berth.stepStop_hist (b : Berth)  : (b.stepStop ).hist = b.hist := by unfold Berth.stepStop; split <;> rfl
@[simp] theorem Berth.stepStop_qfront (b : Berth)  : (b.stepStop ).qfront = b.qfront := by unfold Berth.stepStop; split <;> rfl
@[simp] theorem Berth.stepStop_app (b : Berth)  : (b.stepStop ).app = b.app := by unfold Berth.stepStop; split <;> rfl
@[simp] theorem Berth.stepStop_qsn (b : Berth)  : (b.stepStop ).qsn = b.qsn := by unfold Berth.stepStop; split <;> rfl
@[simp] theorem Berth.stepStop_fifos (b : Berth)  : (b.stepStop ).fifos = b.fifos := by unfold Berth.stepStop; split <;> rfl
@[simp] theorem Berth.stepStop_arrs (b : Berth)  : (b.stepStop ).arrs = b.arrs := by unfold Berth.stepStop; split <;> rfl
@[simp] theorem Berth.stepStop_tid (b : Berth)  : (b.stepStop ).tid = b.tid := by unfold Berth.stepStop; split <;> rfl
@[simp] theorem Berth.stepStop_clk (b : Berth)  : (b.stepStop ).clk = b.clk := by unfold Berth.stepStop; split <;> rfl
@[simp] theorem Berth.stepStop_also (b : Berth)  : (b.stepStop ).also = b.also := by unfold Berth.stepStop; split <;> rfl
@[simp] theorem Berth.stepStop_pubs (b : Berth)  : (b.stepStop ).pubs = b.pubs := by unfold Berth.stepStop; split <;> rfl
@[simp] theorem Berth.stepStop_acqs (b : Berth)  : (b.stepStop ).acqs = b.acqs := by unfold Berth.stepStop; split <;> rfl
@[simp] theorem Berth.stepStop_refs (b : Berth)  : (b.stepStop ).refs = b.refs := by unfold Berth.stepStop; split <;> rfl
@[simp] theorem Berth.stepStop_pend (b : Berth)  : (b.stepStop ).pend = b.pend := by unfold Berth.stepStop; split <;> rfl
@[simp] theorem Berth.stepStop_handle (b : Berth)  : (b.stepStop ).handle = b.handle := by unfold Berth.stepStop; split <;> rfl
@[simp] theorem Berth.stepStop_hasTask (b : Berth)  : (b.stepStop ).hasTask = b.hasTask := by unfold Berth.stepStop; split <;> rfl
@[simp] theorem Berth.stepStop_gang (b : Berth)  : (b.stepStop ).gang = b.gang := by unfold Berth.stepStop; split <;> rfl
@[simp] theorem Berth.stepStop_arrivedPh (b : Berth)  : (b.stepStop ).arrivedPh = b.arrivedPh := by unfold Berth.stepStop; split <;> rfl
@[simp] theorem Berth.stepStop_joinNo (b : Berth)  : (b.stepStop ).joinNo = b.joinNo := by unfold Berth.stepStop; split <;> rfl
@[simp] theorem Berth.stepStop_waiting (b : Berth)  : (b.stepStop ).waiting = b.waiting := by unfold Berth.stepStop; split <;> rfl
@[simp] theorem Berth.stepStop_answer (b : Berth)  : (b.stepStop ).answer = b.answer := by unfold Berth.stepStop; split <;> rfl
@[simp] theorem Berth.stepStop_seg (b : Berth)  : (b.stepStop ).seg = b.seg := by unfold Berth.stepStop; split <;> rfl
@[simp] theorem Berth.stepStop_obuf (b : Berth)  : (b.stepStop ).obuf = b.obuf := by unfold Berth.stepStop; split <;> rfl
@[simp] theorem Berth.stepStop_batch (b : Berth)  : (b.stepStop ).batch = b.batch := by unfold Berth.stepStop; split <;> rfl
@[simp] theorem Berth.stepStop_outLoad (b : Berth)  : (b.stepStop ).outLoad = b.outLoad := by unfold Berth.stepStop; split <;> rfl
@[simp] theorem Berth.stepStop_pq (b : Berth)  : (b.stepStop ).pq = b.pq := by unfold Berth.stepStop; split <;> rfl
@[simp] theorem Berth.stepStop_spill (b : Berth)  : (b.stepStop ).spill = b.spill := by unfold Berth.stepStop; split <;> rfl
@[simp] theorem Berth.stepStop_pixc (b : Berth)  : (b.stepStop ).pixc = b.pixc := by unfold Berth.stepStop; split <;> rfl
@[simp] theorem Berth.stepStop_issueAge (b : Berth)  : (b.stepStop ).issueAge = b.issueAge := by unfold Berth.stepStop; split <;> rfl
@[simp] theorem Berth.stepStop_lastIssue (b : Berth)  : (b.stepStop ).lastIssue = b.lastIssue := by unfold Berth.stepStop; split <;> rfl
@[simp] theorem Berth.stepStop_yielded (b : Berth)  : (b.stepStop ).yielded = b.yielded := by unfold Berth.stepStop; split <;> rfl
@[simp] theorem Berth.stepStop_stalled (b : Berth)  : (b.stepStop ).stalled = b.stalled := by unfold Berth.stepStop; split <;> rfl
@[simp] theorem Berth.stepStop_xAge (b : Berth)  : (b.stepStop ).xAge = b.xAge := by unfold Berth.stepStop; split <;> rfl
@[simp] theorem Berth.stepStop_xLast (b : Berth)  : (b.stepStop ).xLast = b.xLast := by unfold Berth.stepStop; split <;> rfl
@[simp] theorem Berth.stepStop_pzg (b : Berth)  : (b.stepStop ).pzg = b.pzg := by unfold Berth.stepStop; split <;> rfl
@[simp] theorem Berth.stepStop_wholeg (b : Berth)  : (b.stepStop ).wholeg = b.wholeg := by unfold Berth.stepStop; split <;> rfl
@[simp] theorem Berth.stepStop_rawBack (b : Berth)  : (b.stepStop ).rawBack = b.rawBack := by unfold Berth.stepStop; split <;> rfl
@[simp] theorem Berth.stepStop_landing (b : Berth)  : (b.stepStop ).landing = b.landing := by unfold Berth.stepStop; split <;> rfl
@[simp] theorem Berth.stepStop_bank (b : Berth)  : (b.stepStop ).bank = b.bank := by unfold Berth.stepStop; split <;> rfl
@[simp] theorem Berth.stepStop_sw (b : Berth)  : (b.stepStop ).sw = b.sw := by unfold Berth.stepStop; split <;> rfl
@[simp] theorem Berth.stepStop_profAt (b : Berth)  : (b.stepStop ).profAt = b.profAt := by unfold Berth.stepStop; split <;> rfl
@[simp] theorem Berth.stepStop_profStop (b : Berth)  : (b.stepStop ).profStop = b.profStop := by unfold Berth.stepStop; split <;> rfl
@[simp] theorem Berth.stepStop_awaited (b : Berth)  : (b.stepStop ).awaited = b.awaited := by unfold Berth.stepStop; split <;> rfl
@[simp] theorem Berth.finishAt_st (b : Berth) (ws : List Half) (t : Word) : (b.finishAt ws t).st = b.st := by simp [Berth.finishAt]
@[simp] theorem Berth.finishAt_ctx (b : Berth) (ws : List Half) (t : Word) : (b.finishAt ws t).ctx = b.ctx := by simp [Berth.finishAt]
@[simp] theorem Berth.finishAt_lsl (b : Berth) (ws : List Half) (t : Word) : (b.finishAt ws t).lsl = b.lsl := by simp [Berth.finishAt]
@[simp] theorem Berth.finishAt_stage (b : Berth) (ws : List Half) (t : Word) : (b.finishAt ws t).stage = b.stage := by simp [Berth.finishAt]
@[simp] theorem Berth.finishAt_lastOcc (b : Berth) (ws : List Half) (t : Word) : (b.finishAt ws t).lastOcc = b.lastOcc := by simp [Berth.finishAt]
@[simp] theorem Berth.finishAt_pfxWord (b : Berth) (ws : List Half) (t : Word) : (b.finishAt ws t).pfxWord = b.pfxWord := by simp [Berth.finishAt]
@[simp] theorem Berth.finishAt_g (b : Berth) (ws : List Half) (t : Word) : (b.finishAt ws t).g = b.g := by simp [Berth.finishAt]
@[simp] theorem Berth.finishAt_p (b : Berth) (ws : List Half) (t : Word) : (b.finishAt ws t).p = b.p := by simp [Berth.finishAt]
@[simp] theorem Berth.finishAt_s (b : Berth) (ws : List Half) (t : Word) : (b.finishAt ws t).s = b.s := by simp [Berth.finishAt]
@[simp] theorem Berth.finishAt_q (b : Berth) (ws : List Half) (t : Word) : (b.finishAt ws t).q = b.q := by simp [Berth.finishAt]
@[simp] theorem Berth.finishAt_rngk (b : Berth) (ws : List Half) (t : Word) : (b.finishAt ws t).rngk = b.rngk := by simp [Berth.finishAt]
@[simp] theorem Berth.finishAt_rngc (b : Berth) (ws : List Half) (t : Word) : (b.finishAt ws t).rngc = b.rngc := by simp [Berth.finishAt]
@[simp] theorem Berth.finishAt_trap (b : Berth) (ws : List Half) (t : Word) : (b.finishAt ws t).trap = b.trap := by simp [Berth.finishAt]
@[simp] theorem Berth.finishAt_trapped (b : Berth) (ws : List Half) (t : Word) : (b.finishAt ws t).trapped = b.trapped := by simp [Berth.finishAt]
@[simp] theorem Berth.finishAt_haltF (b : Berth) (ws : List Half) (t : Word) : (b.finishAt ws t).haltF = b.haltF := by simp [Berth.finishAt]
@[simp] theorem Berth.finishAt_recs (b : Berth) (ws : List Half) (t : Word) : (b.finishAt ws t).recs = b.recs := by simp [Berth.finishAt]
@[simp] theorem Berth.finishAt_hist (b : Berth) (ws : List Half) (t : Word) : (b.finishAt ws t).hist = b.hist := by simp [Berth.finishAt]
@[simp] theorem Berth.finishAt_qfront (b : Berth) (ws : List Half) (t : Word) : (b.finishAt ws t).qfront = b.qfront := by simp [Berth.finishAt]
@[simp] theorem Berth.finishAt_app (b : Berth) (ws : List Half) (t : Word) : (b.finishAt ws t).app = b.app := by simp [Berth.finishAt]
@[simp] theorem Berth.finishAt_qsn (b : Berth) (ws : List Half) (t : Word) : (b.finishAt ws t).qsn = b.qsn := by simp [Berth.finishAt]
@[simp] theorem Berth.finishAt_fifos (b : Berth) (ws : List Half) (t : Word) : (b.finishAt ws t).fifos = b.fifos := by simp [Berth.finishAt]
@[simp] theorem Berth.finishAt_arrs (b : Berth) (ws : List Half) (t : Word) : (b.finishAt ws t).arrs = b.arrs := by simp [Berth.finishAt]
@[simp] theorem Berth.finishAt_tid (b : Berth) (ws : List Half) (t : Word) : (b.finishAt ws t).tid = b.tid := by simp [Berth.finishAt]
@[simp] theorem Berth.finishAt_clk (b : Berth) (ws : List Half) (t : Word) : (b.finishAt ws t).clk = b.clk := by simp [Berth.finishAt]
@[simp] theorem Berth.finishAt_also (b : Berth) (ws : List Half) (t : Word) : (b.finishAt ws t).also = b.also := by simp [Berth.finishAt]
@[simp] theorem Berth.finishAt_pubs (b : Berth) (ws : List Half) (t : Word) : (b.finishAt ws t).pubs = b.pubs := by simp [Berth.finishAt]
@[simp] theorem Berth.finishAt_acqs (b : Berth) (ws : List Half) (t : Word) : (b.finishAt ws t).acqs = b.acqs := by simp [Berth.finishAt]
@[simp] theorem Berth.finishAt_refs (b : Berth) (ws : List Half) (t : Word) : (b.finishAt ws t).refs = b.refs := by simp [Berth.finishAt]
@[simp] theorem Berth.finishAt_pend (b : Berth) (ws : List Half) (t : Word) : (b.finishAt ws t).pend = b.pend := by simp [Berth.finishAt]
@[simp] theorem Berth.finishAt_handle (b : Berth) (ws : List Half) (t : Word) : (b.finishAt ws t).handle = b.handle := by simp [Berth.finishAt]
@[simp] theorem Berth.finishAt_hasTask (b : Berth) (ws : List Half) (t : Word) : (b.finishAt ws t).hasTask = b.hasTask := by simp [Berth.finishAt]
@[simp] theorem Berth.finishAt_gang (b : Berth) (ws : List Half) (t : Word) : (b.finishAt ws t).gang = b.gang := by simp [Berth.finishAt]
@[simp] theorem Berth.finishAt_arrivedPh (b : Berth) (ws : List Half) (t : Word) : (b.finishAt ws t).arrivedPh = b.arrivedPh := by simp [Berth.finishAt]
@[simp] theorem Berth.finishAt_joinNo (b : Berth) (ws : List Half) (t : Word) : (b.finishAt ws t).joinNo = b.joinNo := by simp [Berth.finishAt]
@[simp] theorem Berth.finishAt_obuf (b : Berth) (ws : List Half) (t : Word) : (b.finishAt ws t).obuf = b.obuf := by simp [Berth.finishAt]
@[simp] theorem Berth.finishAt_batch (b : Berth) (ws : List Half) (t : Word) : (b.finishAt ws t).batch = b.batch := by simp [Berth.finishAt]
@[simp] theorem Berth.finishAt_outLoad (b : Berth) (ws : List Half) (t : Word) : (b.finishAt ws t).outLoad = b.outLoad := by simp [Berth.finishAt]
@[simp] theorem Berth.finishAt_pq (b : Berth) (ws : List Half) (t : Word) : (b.finishAt ws t).pq = b.pq := by simp [Berth.finishAt]
@[simp] theorem Berth.finishAt_spill (b : Berth) (ws : List Half) (t : Word) : (b.finishAt ws t).spill = b.spill := by simp [Berth.finishAt]
@[simp] theorem Berth.finishAt_pixc (b : Berth) (ws : List Half) (t : Word) : (b.finishAt ws t).pixc = b.pixc := by simp [Berth.finishAt]
@[simp] theorem Berth.finishAt_issueAge (b : Berth) (ws : List Half) (t : Word) : (b.finishAt ws t).issueAge = b.issueAge := by simp [Berth.finishAt]
@[simp] theorem Berth.finishAt_lastIssue (b : Berth) (ws : List Half) (t : Word) : (b.finishAt ws t).lastIssue = b.lastIssue := by simp [Berth.finishAt]
@[simp] theorem Berth.finishAt_yielded (b : Berth) (ws : List Half) (t : Word) : (b.finishAt ws t).yielded = b.yielded := by simp [Berth.finishAt]
@[simp] theorem Berth.finishAt_stalled (b : Berth) (ws : List Half) (t : Word) : (b.finishAt ws t).stalled = b.stalled := by simp [Berth.finishAt]
@[simp] theorem Berth.finishAt_xAge (b : Berth) (ws : List Half) (t : Word) : (b.finishAt ws t).xAge = b.xAge := by simp [Berth.finishAt]
@[simp] theorem Berth.finishAt_xLast (b : Berth) (ws : List Half) (t : Word) : (b.finishAt ws t).xLast = b.xLast := by simp [Berth.finishAt]
@[simp] theorem Berth.finishAt_pzg (b : Berth) (ws : List Half) (t : Word) : (b.finishAt ws t).pzg = b.pzg := by simp [Berth.finishAt]
@[simp] theorem Berth.finishAt_wholeg (b : Berth) (ws : List Half) (t : Word) : (b.finishAt ws t).wholeg = b.wholeg := by simp [Berth.finishAt]
@[simp] theorem Berth.finishAt_rawBack (b : Berth) (ws : List Half) (t : Word) : (b.finishAt ws t).rawBack = b.rawBack := by simp [Berth.finishAt]
@[simp] theorem Berth.finishAt_landing (b : Berth) (ws : List Half) (t : Word) : (b.finishAt ws t).landing = b.landing := by simp [Berth.finishAt]
@[simp] theorem Berth.finishAt_bank (b : Berth) (ws : List Half) (t : Word) : (b.finishAt ws t).bank = b.bank := by simp [Berth.finishAt]
@[simp] theorem Berth.finishAt_sw (b : Berth) (ws : List Half) (t : Word) : (b.finishAt ws t).sw = b.sw := by simp [Berth.finishAt]
@[simp] theorem Berth.finishAt_profAt (b : Berth) (ws : List Half) (t : Word) : (b.finishAt ws t).profAt = b.profAt := by simp [Berth.finishAt]
@[simp] theorem Berth.finishAt_profStop (b : Berth) (ws : List Half) (t : Word) : (b.finishAt ws t).profStop = b.profStop := by simp [Berth.finishAt]
@[simp] theorem Berth.finishAt_awaited (b : Berth) (ws : List Half) (t : Word) : (b.finishAt ws t).awaited = b.awaited := by simp [Berth.finishAt]
@[simp] theorem Berth.finishAt_pc (b : Berth) (ws : List Half) (t : Word) : (b.finishAt ws t).pc = t := by simp [Berth.finishAt]
@[simp] theorem Berth.finishAt_pfx (b : Berth) (ws : List Half) (t : Word) : (b.finishAt ws t).pfx = none := by simp [Berth.finishAt]
@[simp] theorem Berth.finishAt_waiting (b : Berth) (ws : List Half) (t : Word) : (b.finishAt ws t).waiting = .none := by simp [Berth.finishAt]
@[simp] theorem Berth.finishAt_answer (b : Berth) (ws : List Half) (t : Word) : (b.finishAt ws t).answer = none := by simp [Berth.finishAt]

@[simp] theorem Berth.getG_zero (b : Berth) (v : Word) : b.setG 0 v = b := if_pos rfl
/-- A register after a write: `g0` discards it. -/
theorem Berth.getG_setG (b : Berth) (n m : GReg) (v : Word) : (b.setG n v).getG m = if m = n ∧ n ≠ 0 then v else b.getG m := by
  unfold Berth.setG
  by_cases hn : n = 0
  · simp [hn]
  · rw [if_neg hn]
    simp only [Berth.getG, AMap.get_set]
    by_cases hm : m = n
    · rw [if_pos (congrArg _ hm), if_pos ⟨hm, hn⟩]
    · rw [if_neg (fun h => hm (BitVec.eq_of_toNat_eq h)), if_neg (fun h => hm h.1)]
theorem Berth.getS_setS (b : Berth) (n m : SReg) (v : BitVec 256) : (b.setS n v).getS m = if m = n then v else b.getS m := by
  simp only [Berth.setS, Berth.getS, AMap.get_set]
  by_cases hm : m = n
  · simp [hm]
  · simp [hm, show m.toNat ≠ n.toNat from fun h => hm (BitVec.eq_of_toNat_eq h)]
theorem bitN_eq (w i : Nat) : bitN w i = w.testBit i := by
  rw [bitN, Nat.testBit_eq_decide_div_mod_eq, ← Bool.beq_eq_decide_eq]
theorem testBit_setBitN (w i j : Nat) (v : Bool) : (setBitN w i v).testBit j = if j = i then v else w.testBit j := by
  have hb : b2n (bitN w i) = w / 2 ^ i % 2 := by
    unfold b2n bitN
    rcases Nat.mod_two_eq_zero_or_one (w / 2 ^ i) with h | h <;> simp [h]
  have h1 : w = 2 ^ i * (w / 2 ^ i) + w % 2 ^ i := (Nat.div_add_mod _ _).symm
  have h2 : w / 2 ^ i = 2 * (w / 2 ^ i / 2) + w / 2 ^ i % 2 := (Nat.div_add_mod _ _).symm
  have lt : w % 2 ^ i < 2 ^ i := Nat.mod_lt _ (Nat.two_pow_pos _)
  have key : setBitN w i v = 2 ^ i * (2 * (w / 2 ^ i / 2) + b2n v) + w % 2 ^ i := by
    have e : w = 2 ^ i * (2 * (w / 2 ^ i / 2)) + 2 ^ i * (w / 2 ^ i % 2) + w % 2 ^ i := by
      conv_lhs => rw [h1, h2]
      ring
    unfold setBitN
    simp only [hb]
    have : w - 2 ^ i * (w / 2 ^ i % 2) = 2 ^ i * (2 * (w / 2 ^ i / 2)) + w % 2 ^ i := by omega
    rw [this]; ring
  rw [key, Nat.testBit_two_pow_mul_add _ lt]
  by_cases hj : j < i
  · rw [if_pos hj, if_neg (by omega), Nat.testBit_mod_two_pow]; simp [hj]
  · rw [if_neg hj]
    by_cases hji : j = i
    · subst hji; cases v <;> simp [b2n, Nat.testBit_zero]
    · rw [if_neg hji, show j - i = (j - i - 1) + 1 by omega, Nat.testBit_succ,
        show (2 * (w / 2 ^ i / 2) + b2n v) / 2 = w / 2 ^ i / 2 by (cases v <;> simp [b2n]; omega),
        ← Nat.testBit_succ, Nat.testBit_div_two_pow]
      congr 1; omega
/-- A predicate after a write: `p0` discards it and reads true. -/
theorem Berth.getP_setP (b : Berth) (n m : PReg) (v : Bool) : (b.setP n v).getP m = if m = n ∧ n ≠ 0 then v else b.getP m := by
  unfold Berth.setP
  by_cases hn : n = 0
  · rw [if_pos hn, if_neg (fun h => h.2 hn)]
  · rw [if_neg hn]
    have hm8 : m.toNat < 8 := m.isLt
    simp only [Berth.getP, BitVec.getLsbD_ofNat, testBit_setBitN]
    by_cases hm : m = n
    · subst hm
      rw [if_neg hn, if_pos rfl, if_pos ⟨rfl, hn⟩]; simp [hm8]
    · rw [if_neg (fun h => hm (BitVec.eq_of_toNat_eq h) : ¬ m.toNat = n.toNat), if_neg (fun h => hm h.1 : ¬ (m = n ∧ n ≠ 0))]
      simp [hm8, BitVec.getLsbD]
theorem Berth.getQ_setQ (b : Berth) (n m : Nat) (v : Word) : (b.setQ n v).getQ m = if m = n then v else b.getQ m := AMap.get_set _ _ _ _ _

end Sys2Proof.Machine
end

