-- ==== Sys2Proof/Laws/Unit.lean ====
section
/-! SUPPORT. What the shared end of a unit does, said once: a meaning whose only effect is on its strand. -/

namespace Sys2Proof.Machine

/-- What an ordinary access reads depends on the history of the stores, memory and the event. -/
theorem seen_congr (s t : State) (K : Clock) (me ctx n a : Nat) (hh : t.hist = s.hist) (hm : t.mem = s.mem) (he : t.ev = s.ev) :
    t.seen K me ctx n a = s.seen K me ctx n a := by
  have hf : t.raceFloor K me ctx n a = s.raceFloor K me ctx n a := by unfold State.raceFloor; rw [hh]
  unfold State.seen State.mb
  rw [hh, hm, he, hf]

/-- What a load reads depends on the history of the stores, memory, the event, and of the strand on its clock, its number and its context. -/
theorem loadByte_congr (s t : State) (b a : Nat) (hk : (t.berth b).clk = (s.berth b).clk) (ht : (t.berth b).tid = (s.berth b).tid)
    (hc : (t.berth b).ctx = (s.berth b).ctx) (hh : t.hist = s.hist) (hm : t.mem = s.mem) (he : t.ev = s.ev) :
    t.loadByte b a = s.loadByte b a := by
  show t.seen (t.berth b).clk (t.berth b).tid (t.berth b).ctx 1 a = s.seen (s.berth b).clk (s.berth b).tid (s.berth b).ctx 1 a
  rw [hk, ht, hc]
  exact seen_congr s t _ _ _ _ _ hh hm he

theorem othersKept_upd (s : State) (f : Berth → Berth) : OthersKept s (s.upd f) :=
  ⟨rfl, fun _ h => State.berth_upd_other s f h⟩

theorem State.upd_upd_me (s : State) (f g : Berth → Berth) : ((s.upd f).upd g).me = g (f s.me) := by
  rw [State.me_upd, State.me_upd]

/-- The strand's record after a unit of n bytes whose effect is f. -/
theorem done_me (s : State) (f : Berth → Berth) (n : Nat) :
    ((s.upd f).done n).me = (f s.me).finishAt s.ir ((f s.me).pc + BitVec.ofNat 64 n) := by
  simp only [State.done, State.goto, State.me_upd, State.upd_ir]

theorem goto_me (s : State) (f : Berth → Berth) (t : Word) : ((s.upd f).goto t).me = (f s.me).finishAt s.ir t := by
  simp only [State.goto, State.me_upd, State.upd_ir]

theorem goto_others (s : State) (f : Berth → Berth) (t : Word) : OthersKept s ((s.upd f).goto t) :=
  ⟨rfl, fun b h => by
    rw [State.goto, State.berth_upd_other _ _ (show b ≠ (s.upd f).cur from h), State.berth_upd_other _ _ h]⟩

theorem done_others (s : State) (f : Berth → Berth) (n : Nat) : OthersKept s ((s.upd f).done n) := goto_others s f _

theorem finishAt_ended (B : Berth) (ws : List Half) (t : Word) : B.finishAt ws t = B.ended (B.finishAt ws t) := by
  simp only [Berth.finishAt, Berth.stepStop, Berth.sign, Berth.ended]
  repeat' split
  all_goals rfl

/-- A unit whose effect is f on its strand alone. -/
theorem goto_ends (s : State) (f : Berth → Berth) (t : Word) : EndsWith s ((s.upd f).goto t) (f s.me) t := by
  refine ⟨goto_others s f t, ?_, ?_, ?_, ?_⟩ <;> rw [goto_me]
  · exact finishAt_ended _ _ _
  all_goals simp

theorem done_ends (s : State) (f : Berth → Berth) (n : Nat) :
    EndsWith s ((s.upd f).done n) (f s.me) ((f s.me).pc + BitVec.ofNat 64 n) := by
  have h := goto_ends s f ((f s.me).pc + BitVec.ofNat 64 n)
  rwa [show (s.upd f).goto ((f s.me).pc + BitVec.ofNat 64 n) = (s.upd f).done n from by
    simp only [State.done, State.me_upd]] at h

theorem goto_bytes (s : State) (f : Berth → Berth) (t : Word) (hk : (f s.me).clk = s.me.clk) (ht : (f s.me).tid = s.me.tid)
    (hc : (f s.me).ctx = s.me.ctx) : BytesKept s ((s.upd f).goto t) := by
  refine ⟨fun a => rfl, fun a => loadByte_congr _ _ _ _ ?_ ?_ ?_ rfl rfl rfl⟩
  all_goals
    rw [show ((s.upd f).goto t).berth s.cur = ((s.upd f).goto t).me from rfl, goto_me, ← State.me_eq]
    simp [hk, ht, hc]

theorem done_bytes (s : State) (f : Berth → Berth) (n : Nat) (hk : (f s.me).clk = s.me.clk) (ht : (f s.me).tid = s.me.tid)
    (hc : (f s.me).ctx = s.me.ctx) : BytesKept s ((s.upd f).done n) := goto_bytes s f _ hk ht hc

/-- A unit that writes one general register. -/
theorem unit_wroteG (s : State) (f : Berth → Berth) (d : GReg) (v : Word) (n : Nat) (hf : f s.me = s.me.setG d v) :
    WroteG s ((s.upd f).done n) d v n := by
  refine ⟨?_, done_bytes s f n (by simp [hf]) (by simp [hf]) (by simp [hf]), fun m => ?_⟩
  · have h := done_ends s f n
    rw [hf, Berth.setG_pc] at h
    refine ⟨h.1, ?_, h.2.2⟩
    rw [h.2.1]
    unfold Berth.setG Berth.ended
    split <;> simp
  · rw [State.G, done_me, hf, Berth.getG, Berth.finishAt_g, ← Berth.getG, Berth.getG_setG]; rfl

/-- A unit that writes one predicate register. -/
theorem unit_wroteP (s : State) (f : Berth → Berth) (d : PReg) (v : Bool) (n : Nat) (hf : f s.me = s.me.setP d v) :
    WroteP s ((s.upd f).done n) d v n := by
  refine ⟨?_, done_bytes s f n (by simp [hf]) (by simp [hf]) (by simp [hf]), fun m => ?_⟩
  · have h := done_ends s f n
    rw [hf, Berth.setP_pc] at h
    refine ⟨h.1, ?_, h.2.2⟩
    rw [h.2.1]
    unfold Berth.setP Berth.ended
    split <;> simp
  · rw [State.P, done_me, hf, Berth.getP, Berth.finishAt_p, ← Berth.getP, Berth.getP_setP]; rfl

end Sys2Proof.Machine
end

