-- ==== Sys2Proof/Laws/Walk.lean ====
section
/-! SUPPORT. Translation, checks and fetches read the page tables and the topology only: a state that agrees on these gives the same
answer. -/

namespace Sys2Proof.Machine

/-- What translation reads besides the context's root (R63, R64, R424, R434). -/
def SameMap (s t : State) : Prop :=
  t.shape = s.shape ∧ t.stks = s.stks ∧ t.mem = s.mem ∧ t.poison = s.poison ∧ t.act = s.act ∧ t.qlist = s.qlist

theorem SameMap.of_berths (s : State) (x : AMap Berth) : SameMap s { s with berths := x } := ⟨rfl, rfl, rfl, rfl, rfl, rfl⟩

theorem unfenced_congr (s t : State) (h : SameMap s t) (k : Nat) : t.unfenced k = s.unfenced k := by
  simp only [State.unfenced, State.stack, h.1, h.2.1]
theorem home_congr (s t : State) (h : SameMap s t) (a : Nat) : t.home a = s.home a := by simp only [State.home, h.2.2.2.2.1]
theorem stack_congr (s t : State) (h : SameMap s t) (k : Nat) : t.stack k = s.stack k := by simp only [State.stack, h.2.1]
theorem paDead_congr (s t : State) (h : SameMap s t) (a : Nat) : t.paDead a = s.paDead a := by
  simp only [State.paDead, home_congr s t h, unfenced_congr s t h, stack_congr s t h]
theorem paFenced_congr (s t : State) (h : SameMap s t) (a : Nat) : t.paFenced a = s.paFenced a := by
  simp only [State.paFenced, home_congr s t h, unfenced_congr s t h]
theorem paBad_congr (s t : State) (h : SameMap s t) (a : Nat) : t.paBad a = s.paBad a := by
  simp only [State.paBad, h.1, unfenced_congr s t h, stack_congr s t h]
theorem poisoned_congr (s t : State) (h : SameMap s t) (a n : Nat) : t.poisoned a n = s.poisoned a n := by
  simp only [State.poisoned, h.2.2.2.1]
theorem quarantined_congr (s t : State) (h : SameMap s t) (a : Nat) : t.quarantined a = s.quarantined a := by
  simp only [State.quarantined, h.2.2.2.2.2]

theorem walkFrom_congr (s t : State) (h : SameMap s t) (va : Nat) (p : Word) (table level fuel : Nat) :
    t.walkFrom va p table level fuel = s.walkFrom va p table level fuel := by
  induction fuel generalizing table level with
  | zero => rfl
  | succ n ih =>
    rw [State.walkFrom, State.walkFrom]
    simp only [ih, paDead_congr s t h, poisoned_congr s t h, paBad_congr s t h, paFenced_congr s t h, quarantined_congr s t h,
      show t.mem = s.mem from h.2.2.1]

theorem xlate_congr (s t : State) (h : SameMap s t) (n : Nat) (hc : (t.ctx n).ptroot = (s.ctx n).ptroot) (va : Nat) (p : Word) (k : AKind) :
    t.xlate n va p k = s.xlate n va p k := by
  rw [State.xlate, State.xlate, State.walk, State.walk, hc, walkFrom_congr s t h]

theorem fetchWord_congr (s t : State) (h : SameMap s t) (n : Nat) (hc : (t.ctx n).ptroot = (s.ctx n).ptroot) (pc : Word) :
    t.fetchWord n pc = s.fetchWord n pc := by
  rw [State.fetchWord, State.fetchWord, xlate_congr s t h n hc, h.2.2.1]

theorem handler_congr (s t : State) (h : SameMap s t) (n : Nat) (hc : t.ctx n = s.ctx n) : t.handler n = s.handler n := by
  unfold State.handler
  simp only [hc, xlate_congr s t h n (by rw [hc]), h.2.2.1]

theorem bounds_congr (s t : State) (h : SameMap s t) (n : Nat) (hc : (t.ctx n).ptroot = (s.ctx n).ptroot) (b i : Nat) (p : Word) :
    t.bounds n b i p = s.bounds n b i p := by
  unfold State.bounds
  simp only [xlate_congr s t h n hc, poisoned_congr s t h, h.2.2.1]

theorem ptrCheck_congr (s t : State) (h : SameMap s t) (n : Nat) (hc : (t.ctx n).ptroot = (s.ctx n).ptroot) (b : Nat) (p : Word) (w : Nat)
    (k : AKind) : t.ptrCheck n b p w k = s.ptrCheck n b p w k := by
  unfold State.ptrCheck
  simp only [bounds_congr s t h n hc]

theorem access_congr (s t : State) (h : SameMap s t) (n : Nat) (hc : (t.ctx n).ptroot = (s.ctx n).ptroot) (b : Nat) (p : Word) (w : Nat)
    (k : AKind) : t.access n b p w k = s.access n b p w k := by
  rw [State.access, State.access, ptrCheck_congr s t h n hc, xlate_congr s t h n hc]

theorem fetchWord_upd (s : State) (f : Berth → Berth) (n : Nat) (pc : Word) : (s.upd f).fetchWord n pc = s.fetchWord n pc :=
  fetchWord_congr s _ ⟨rfl, rfl, rfl, rfl, rfl, rfl⟩ n rfl pc

theorem access_upd (s : State) (f : Berth → Berth) (n b : Nat) (p : Word) (w : Nat) (k : AKind) :
    (s.upd f).access n b p w k = s.access n b p w k :=
  access_congr s _ ⟨rfl, rfl, rfl, rfl, rfl, rfl⟩ n rfl b p w k

end Sys2Proof.Machine
end

