-- ==== Sys2Proof/Laws/Ops.lean ====
section
/-! SUPPORT. One lemma for each shared operation: what it can do to memory and to the strand. -/

namespace Sys2Proof.Machine

/-! ## Stores at their home -/

theorem AMap.find_ovPut_nil (a : Nat) (bs : List Byte) (i : Nat) (h : i < a ∨ a + bs.length ≤ i) : AMap.find (ovPut [] a bs) i = none :=
  ovPut_find_outside [] a bs i h

/-- Memory stays canonical under every operation that writes it. -/
theorem storeOv_wf (s : State) (ov : Mem) (h : Memory.wf s.mem = true) : Memory.wf (s.storeOv ov).mem = true :=
  AMap.wf_overlay 0 _ _ h

theorem storeOv_outside (s : State) (ov : Mem) (a : Nat) (h : AMap.find ov a = none) : (s.storeOv ov).mb a = s.mb a :=
  AMap.get_overlay_none 0 _ _ a h

theorem storeAt_wf (s : State) (a : Nat) (bs : List Byte) (h : Memory.wf s.mem = true) : Memory.wf (s.storeAt a bs).mem = true :=
  storeOv_wf s _ h

theorem storeAt_outside (s : State) (a : Nat) (bs : List Byte) (i : Nat) (h : i < a ∨ a + bs.length ≤ i) : (s.storeAt a bs).mb i = s.mb i :=
  storeOv_outside s _ i (AMap.find_ovPut_nil a bs i h)

/-- A store touches memory, its history and its poison marks only. -/
theorem storeOv_frame (s : State) (ov : Mem) : s.storeOv ov = { s with mem := (s.storeOv ov).mem, poison := (s.storeOv ov).poison } := rfl

theorem storeAt_frame (s : State) (a : Nat) (bs : List Byte) :
    s.storeAt a bs = { s with mem := (s.storeAt a bs).mem, hist := (s.storeAt a bs).hist, poison := (s.storeAt a bs).poison } := rfl

/-- A store of a thread is the same write, with its versions recorded. -/
theorem storeBy_mem (who ctx : Nat) (s : State) (a : Nat) (bs : List Byte) : (State.storeBy who ctx s a bs).mem = (s.storeAt a bs).mem := rfl

/-- A store that is recorded and not yet performed changes no byte of memory. -/
theorem storeOwn_mem (s : State) (b a : Nat) (bs : List Byte) : (s.storeOwn b a bs).mem = s.mem := rfl

theorem setPoison_frame (s : State) (a n : Nat) : s.setPoison a n = { s with poison := (s.setPoison a n).poison } := rfl

theorem foldl_inv {α β : Type} (P : α → Prop) (f : α → β → α) (hf : ∀ x y, P x → P (f x y)) (l : List β) (x : α) (h : P x) : P (l.foldl f x) := by
  induction l generalizing x with
  | nil => exact h
  | cons y ys ih => exact ih _ (hf x y h)

/-- Only memory, its history and poison marks have changed. -/
def MemOnly (s t : State) : Prop := t = { s with mem := t.mem, hist := t.hist, poison := t.poison }

theorem MemOnly.refl (s : State) : MemOnly s s := rfl
theorem MemOnly.trans {s t u : State} (h : MemOnly s t) (k : MemOnly t u) : MemOnly s u := by
  unfold MemOnly at *; rw [k, h]
theorem memOnly_storeAt (s : State) (a : Nat) (bs : List Byte) : MemOnly s (s.storeAt a bs) := rfl
theorem memOnly_setPoison (s : State) (a n : Nat) : MemOnly s (s.setPoison a n) := rfl

theorem memOnly_storeBy (who ctx : Nat) (s : State) (a : Nat) (bs : List Byte) : MemOnly s (State.storeBy who ctx s a bs) := rfl

/-- Writes at virtual addresses, each by a store that changes only memory, its history and its poison marks and keeps memory canonical, do
the same together. -/
theorem writeVAby_frame (put : State → Nat → List Byte → State) (hp : ∀ s a bs, MemOnly s (put s a bs))
    (hw : ∀ s a bs, Memory.wf s.mem = true → Memory.wf (put s a bs).mem = true) (s t : State) (ctx va fuel : Nat) (bs : List Byte)
    (h : State.writeVAby put s ctx va bs fuel = .ok t) : MemOnly s t ∧ (Memory.wf s.mem = true → Memory.wf t.mem = true) := by
  induction fuel generalizing s va bs with
  | zero => rw [State.writeVAby] at h; cases h; exact ⟨rfl, id⟩
  | succ n ih =>
    rw [State.writeVAby] at h
    split at h
    · cases h; exact ⟨rfl, id⟩
    · split at h
      · cases h
      · have := ih _ _ _ h
        exact ⟨(hp s _ _).trans this.1, fun w => this.2 (hw s _ _ w)⟩

/-- The device's own writes change memory, its history and its poison marks only, and keep memory canonical. -/
theorem writeVA_frame (s t : State) (ctx va fuel : Nat) (bs : List Byte) (h : s.writeVA ctx va bs fuel = .ok t) :
    MemOnly s t ∧ (Memory.wf s.mem = true → Memory.wf t.mem = true) :=
  writeVAby_frame _ memOnly_storeAt (fun s a bs => storeAt_wf s a bs) s t ctx va fuel bs h

/-! ## The trace -/

/-- With tracing off nothing is recorded. -/
theorem trace_off (s : State) (b typ eng opn : Nat) (pc : Word) (csq code : Nat) (h : s.untraced (s.berth b).ctx) :
    s.trace b typ eng opn pc csq code = s := by
  rw [State.trace]; simp only [State.untraced] at h; simp [h]

/-- A trace record changes memory, its history, its poison marks and the context's trace registers only. -/
theorem trace_frame (s : State) (b typ eng opn : Nat) (pc : Word) (csq code : Nat) :
    let t := s.trace b typ eng opn pc csq code
    t = { s with mem := t.mem, hist := t.hist, poison := t.poison, ctxs := t.ctxs } ∧ (Memory.wf s.mem = true → Memory.wf t.mem = true) := by
  simp only [State.trace]
  split
  · exact ⟨rfl, id⟩
  · split
    · exact ⟨rfl, id⟩
    · split
      · split <;> exact ⟨rfl, id⟩
      · rename_i t ht
        obtain ⟨h1, h2⟩ := writeVA_frame s t _ _ _ _ ht
        exact ⟨by rw [MemOnly] at h1; rw [h1]; rfl, h2⟩

theorem trace_berth (s : State) (b typ eng opn : Nat) (pc : Word) (csq code c : Nat) :
    (s.trace b typ eng opn pc csq code).berth c = s.berth c := by
  have h := (trace_frame s b typ eng opn pc csq code).1
  rw [State.berth, h]; rfl

/-! ## Taking an exception (R365–R369) -/

/-- A context fault changes its context only. -/
theorem ctxFault_frame (s : State) (ctx code berth seq : Nat) (nres : Bool) :
    let t := s.ctxFault ctx code berth seq nres
    t = { s with ctxs := t.ctxs } ∧ (t.ctx ctx).pnd = true ∧ (t.ctx ctx).stopFetch = true ∧ ∀ n, n ≠ ctx → t.ctx n = s.ctx n :=
  ⟨rfl, by simp [State.ctxFault], by simp [State.ctxFault], fun _ h => State.ctx_updCtx_other _ _ h⟩

theorem stepStop_none (b : Berth) (h : b.dbg.due = 0) : b.stepStop = { b with dbg := { b.dbg with skipBp := false } } := by
  rw [Berth.stepStop, if_neg (fun k => k h)]

theorem stepStop_regs (b : Berth) : b.stepStop.trap = b.trap ∧ b.stepStop.pc = b.pc ∧ b.stepStop.pfx = b.pfx ∧ b.stepStop.st = b.st
    ∧ b.stepStop.g = b.g ∧ b.stepStop.p = b.p ∧ b.stepStop.s = b.s ∧ b.stepStop.q = b.q ∧ b.stepStop.recs = b.recs
    ∧ b.stepStop.pend = b.pend ∧ (b.cut = true → b.stepStop.cut = true) := by
  rw [Berth.stepStop]
  split
  · exact ⟨rfl, rfl, rfl, rfl, rfl, rfl, rfl, rfl, rfl, rfl, fun _ => rfl⟩
  · exact ⟨rfl, rfl, rfl, rfl, rfl, rfl, rfl, rfl, rfl, rfl, id⟩

theorem stepUnless_regs (c : Bool) (b : Berth) : let B := if c then b else b.stepStop
    B.trap = b.trap ∧ B.pc = b.pc ∧ B.pfx = b.pfx ∧ B.st = b.st ∧ B.g = b.g ∧ B.p = b.p ∧ B.s = b.s ∧ B.q = b.q ∧ B.recs = b.recs ∧ B.pend = b.pend
      ∧ (b.cut = true → B.cut = true) := by
  cases c
  · exact stepStop_regs b
  · exact ⟨rfl, rfl, rfl, rfl, rfl, rfl, rfl, rfl, rfl, rfl, id⟩

/-- The strand once its handler has been entered. -/
def Berth.entered (B : Berth) (code : Nat) (asy : Bool) (tpc taddr tval tword tlane va : Word) : Berth :=
  { B.recordTrap code asy true tpc taddr tval tword tlane with
    pc := va, pfx := none, cut := true, st := .run, waiting := .none, answer := none }

theorem entered_regs (B : Berth) (code : Nat) (asy : Bool) (tpc taddr tval tword tlane va : Word) :
    let C := B.entered code asy tpc taddr tval tword tlane va
    C.g = B.g ∧ C.p = B.p ∧ C.s = B.s ∧ C.q = B.q ∧ C.recs = B.recs ∧ C.pend = B.pend := by
  simp only [Berth.entered, Berth.recordTrap, and_self]

theorem trapAt_enters (s : State) (b code : Nat) (asy : Bool) (tpc taddr tval tword tlane va : Word) (h : s.trapGoes b va) :
    s.trapAt b code asy tpc taddr tval tword tlane
      = (s.trace b 4 0 0 (s.berth b).unitPc 0 code).setBerth b (if asy && (s.berth b).dbg.due == 4 then (s.berth b).entered code asy tpc taddr tval tword tlane va
          else ((s.berth b).entered code asy tpc taddr tval tword tlane va).stepStop) := by
  obtain ⟨h1, h2⟩ := h
  rw [State.trapAt]
  simp only [h1, h2, Bool.false_eq_true, if_false]
  rfl

/-- A trap whose handler can be entered. -/
theorem trapAt_trapped (s : State) (b code : Nat) (asy : Bool) (tpc taddr tval tword tlane va : Word) (h : s.trapGoes b va) :
    Trapped s (s.trapAt b code asy tpc taddr tval tword tlane) b code asy tpc taddr tval tword tlane va := by
  rw [trapAt_enters s b code asy tpc taddr tval tword tlane va h]
  obtain ⟨r1, r2, r3, r4, r5, r6, r7, r8, r9, r10, r11⟩ := stepUnless_regs (asy && (s.berth b).dbg.due == 4) ((s.berth b).entered code asy tpc taddr tval tword tlane va)
  obtain ⟨e1, e2, e3, e4, e5, e6⟩ := entered_regs (s.berth b) code asy tpc taddr tval tword tlane va
  unfold Trapped
  refine ⟨?_, ?_, ?_, ?_, ?_, ?_, ?_, ?_, ?_, ?_, ?_, fun c hc => ?_⟩
  rotate_left 11
  · rw [State.berth_setBerth_other _ _ hc, trace_berth]
  all_goals rw [State.berth_setBerth_same]
  · have e : code + 2 ^ 8 * b2n asy + 2 ^ 11 * b2n true = code + (if asy = true then 256 else 0) + 2048 := by cases asy <;> simp [b2n]
    rw [r1, Berth.entered, Berth.recordTrap, e]
  · rw [r2]; rfl
  · exact r11 rfl
  · rw [r3]; rfl
  · rw [r4]; rfl
  · rw [r5, e1]
  · rw [r6, e2]
  · rw [r7, e3]
  · rw [r8, e4]
  · rw [r9, e5]
  · rw [r10, e6]

/-- A trap keeps memory canonical. -/
theorem trapAt_wf (s : State) (b code : Nat) (asy : Bool) (tpc taddr tval tword tlane : Word) (h : Memory.wf s.mem = true) :
    Memory.wf (s.trapAt b code asy tpc taddr tval tword tlane).mem = true := by
  have := (trace_frame s b 4 0 0 (s.berth b).unitPc 0 code).2 h
  rw [State.trapAt]
  simp only
  repeat' split
  all_goals first
    | exact h
    | exact this

/-! ## Waiting and stalling -/

theorem waitFor_waits (s : State) (k : WaitKind) : Waits s (s.waitFor k) k :=
  ⟨othersKept_upd s _, by rw [State.waitFor, State.me_upd]⟩

theorem stall_frame (s : State) : OthersKept s s.stall ∧ s.stall.me = { s.me with pc := s.me.unitPc, pfx := none, stalled := true } :=
  ⟨othersKept_upd s _, by rw [State.stall, State.me_upd]⟩

/-! ## Publishing (R74, R76) -/

theorem foldl_setPoison_frame (l : List Nat) (s : State) :
    l.foldl (fun s g => s.setPoison (32 * g) 1) s = { s with poison := (l.foldl (fun s g => s.setPoison (32 * g) 1) s).poison } := by
  induction l generalizing s with
  | nil => rfl
  | cons g r ih => rw [List.foldl_cons, ih]; rfl

theorem foldl_setPoison_mem (l : List Nat) (s : State) : (l.foldl (fun s g => s.setPoison (32 * g) 1) s).mem = s.mem := by
  rw [foldl_setPoison_frame]

/-- A publish of berth b's strand lays its outgoing stores over memory and changes nothing of the package but memory, poison marks and the
strand. -/
theorem letOut_mem (s : State) (b : Nat) (out : Mem) : (s.letOut b out).mem = AMap.overlay 0 s.mem out := by
  simp only [State.letOut, State.setBerth_mem, foldl_setPoison_mem]; rfl

theorem publish_mem (s : State) (b sc : Nat) :
    (s.publish b sc).mem = AMap.overlay 0 s.mem ((s.berth b).pend.filter (fun p => s.goesAt sc p.1)) := letOut_mem _ _ _

theorem publish_wf (s : State) (b sc : Nat) (h : Memory.wf s.mem = true) : Memory.wf (s.publish b sc).mem = true := by
  rw [publish_mem]; exact AMap.wf_overlay 0 _ _ h

theorem flushHost_wf (s : State) (b : Nat) (h : Memory.wf s.mem = true) : Memory.wf (s.flushHost b).mem = true := by
  rw [State.flushHost]; show Memory.wf (s.letOut b _).mem = true
  rw [letOut_mem]; exact AMap.wf_overlay 0 _ _ h

/-- With nothing before it, a release is its publish. -/
theorem release_flushed (s : State) (sc : Nat) (k : State → State) (h : s.flushed sc) : s.release sc k = k (s.publish s.cur sc) := by
  obtain ⟨h1, h2, h3, h4, h5⟩ := h
  simp [State.release, h1, h2, h3, h4, h5]

/-- An acquire changes the strand's clock and nothing else. -/
theorem acquire_me (s : State) (K : Clock) : (s.acquire s.cur K).me = { s.me with clk := s.acquired s.me K } := by
  rw [State.acquire, ← State.upd, State.me_upd, State.acquired]

theorem acquire_others (s : State) (K : Clock) : OthersKept s (s.acquire s.cur K) := othersKept_upd s _

/-! ## What a load reads (R73, R79, R80) -/

/-- A byte that no thread has stored to reads as memory stands. -/
theorem seen_unrecorded (s : State) (K : Clock) (me ctx n a : Nat) (h : AMap.find s.hist a = none) : s.seen K me ctx n a = s.mb a := by
  simp [State.seen, h]

/-- A byte whose stores all happen before the access reads as the last of them left it. -/
theorem seen_known (s : State) (K : Clock) (me ctx n a : Nat) (v : Ver) (vs : List Ver) (h : AMap.find s.hist a = some (v :: vs))
    (hk : ∀ x ∈ v :: vs, Ver.known K me ctx x = true) : s.seen K me ctx n a = v.v := by
  have h1 := hk v (by simp)
  have h2 : (v :: vs).all (Ver.known K me ctx) = true := List.all_eq_true.mpr hk
  simp only [State.seen, h, h2, if_true, List.find?, h1, Option.map, Option.getD]

/-- The scrub of a frame keeps memory canonical. -/
theorem clearRange_wf (m : Mem) (lo n : Nat) (h : Memory.wf m = true) : Memory.wf (AMap.clearRange m lo n) = true :=
  AMap.wf_clearRange 0 m lo n h

/-! ## The table of berths -/

theorem AMap.insert_keys {α : Type} (m : AMap α) (k : Nat) (v : α) (h : (m.map (·.1)).Pairwise (· < ·)) (hk : ∀ p ∈ m, p.1 ≠ k) :
    ((AMap.insert m k v).map (·.1)).Pairwise (· < ·) := by
  induction m with
  | nil => simp [AMap.insert]
  | cons p r ih =>
    obtain ⟨j, w⟩ := p
    simp only [List.map_cons, List.pairwise_cons] at h
    simp only [AMap.insert]
    split
    · rename_i hkj
      simp only [List.map_cons, List.pairwise_cons]
      refine ⟨?_, h⟩
      intro x hx
      rcases List.mem_cons.mp hx with rfl | hx
      · exact hkj
      · exact Nat.lt_trans hkj (h.1 x hx)
    · rename_i hkj
      simp only [List.map_cons, List.pairwise_cons]
      refine ⟨?_, ih h.2 (fun q hq => hk q (List.mem_cons_of_mem _ hq))⟩
      intro x hx
      obtain ⟨q, hq, rfl⟩ := List.mem_map.mp hx
      rcases AMap.mem_insert r k v q hq with rfl | hq
      · have := hk (j, w) (by simp)
        simp only at this ⊢; omega
      · exact h.1 _ (List.mem_map.mpr ⟨q, hq, rfl⟩)

theorem AMap.erase_keys {α : Type} (m : AMap α) (k : Nat) (h : (m.map (·.1)).Pairwise (· < ·)) :
    ((AMap.erase m k).map (·.1)).Pairwise (· < ·) := by
  rw [AMap.erase]; exact h.sublist (List.filter_sublist.map _)

theorem AMap.put_keys {α : Type} (m : AMap α) (k : Nat) (v : α) (h : (m.map (·.1)).Pairwise (· < ·)) :
    ((AMap.put m k v).map (·.1)).Pairwise (· < ·) := by
  rw [AMap.put]
  exact AMap.insert_keys _ k v (AMap.erase_keys m k h) (fun p hp => by simpa using List.of_mem_filter hp)

theorem AMap.set_keys {α : Type} [DecidableEq α] (d : α) (m : AMap α) (k : Nat) (v : α) (h : (m.map (·.1)).Pairwise (· < ·)) :
    ((AMap.set d m k v).map (·.1)).Pairwise (· < ·) := by
  unfold AMap.set; split
  · exact AMap.erase_keys m k h
  · exact AMap.put_keys m k v h

/-- A change of one berth keeps the table in order. -/
theorem setBerth_inOrder (s : State) (b : Nat) (v : Berth) (h : s.berthsInOrder) : (s.setBerth b v).berthsInOrder :=
  AMap.set_keys _ _ b v h

theorem updBerth_inOrder (s : State) (b : Nat) (f : Berth → Berth) (h : s.berthsInOrder) : (s.updBerth b f).berthsInOrder :=
  AMap.set_keys _ _ b _ h

theorem upd_inOrder (s : State) (f : Berth → Berth) (h : s.berthsInOrder) : (s.upd f).berthsInOrder := AMap.set_keys _ _ _ _ h

end Sys2Proof.Machine
end

