-- ==== Sys2Proof/Laws/PerInstr.lean ====
section
/-! SUPPORT. For every instruction: its encoding is as many words as its selector asks for (R121, R123, R130, R136). -/

namespace Sys2Proof

/-- The words of an encoding are one item. -/
def oneItem (ws : List Half) : Prop := ∃ h t, ws = h :: t ∧ itemWords h = ws.length

theorem itemWords_of (w : Half) (r : Nat) (h : w.toNat % 4 = r) : itemWords w = if r = 2 then 2 else if r = 3 then 16 else 1 := by
  subst h; unfold itemWords; split <;> simp_all

theorem oneItem_w32 (maj fn b a d : Nat) : oneItem (w32 maj fn b a d) :=
  ⟨_, _, rfl, by rw [itemWords_of _ 0 (by rw [BitVec.toNat_ofNat]; omega)]; rfl⟩

theorem oneItem_w64 (maj c b a d v : Nat) : oneItem (w64 maj c b a d v) :=
  ⟨_, _, rfl, by rw [itemWords_of _ 2 (by rw [BitVec.toNat_ofNat]; omega)]; rfl⟩

theorem oneItem_recWords (q opn : Nat) (r : Rec) : oneItem (recWords q opn r) :=
  ⟨_, _, rfl, by rw [itemWords_of _ 3 (by rw [BitVec.toNat_ofNat]; omega)]; rfl⟩

theorem oneItem_mod (v : Half) (h : v.toNat % 4 = 1) : oneItem [v] := ⟨_, _, rfl, by rw [itemWords_of _ 1 h]; rfl⟩

namespace Laws.ItemWords

/-- An event has no words; what encodes an instruction is one item. -/
def Statement (i : Instr) : Prop := ∀ v : Half, (i = .mod → v.toNat % 4 = 1) → encode i v = [] ∨ oneItem (encode i v)

theorem brk (n : BitVec 6) : Statement (.brk n) := fun _ _ => .inr (oneItem_w32 _ _ _ _ _)
theorem sysc (n : BitVec 6) : Statement (.sysc n) := fun _ _ => .inr (oneItem_w32 _ _ _ _ _)
theorem add (d : GReg) (a : GReg) (b : GReg) : Statement (.add d a b) := fun _ _ => .inr (oneItem_w32 _ _ _ _ _)
theorem sub (d : GReg) (a : GReg) (b : GReg) : Statement (.sub d a b) := fun _ _ => .inr (oneItem_w32 _ _ _ _ _)
theorem mul (d : GReg) (a : GReg) (b : GReg) : Statement (.mul d a b) := fun _ _ => .inr (oneItem_w32 _ _ _ _ _)
theorem mulh (d : GReg) (a : GReg) (b : GReg) : Statement (.mulh d a b) := fun _ _ => .inr (oneItem_w32 _ _ _ _ _)
theorem mulhn (d : GReg) (a : GReg) (b : GReg) : Statement (.mulhn d a b) := fun _ _ => .inr (oneItem_w32 _ _ _ _ _)
theorem div (d : GReg) (a : GReg) (b : GReg) : Statement (.div d a b) := fun _ _ => .inr (oneItem_w32 _ _ _ _ _)
theorem divn (d : GReg) (a : GReg) (b : GReg) : Statement (.divn d a b) := fun _ _ => .inr (oneItem_w32 _ _ _ _ _)
theorem rem (d : GReg) (a : GReg) (b : GReg) : Statement (.rem d a b) := fun _ _ => .inr (oneItem_w32 _ _ _ _ _)
theorem remn (d : GReg) (a : GReg) (b : GReg) : Statement (.remn d a b) := fun _ _ => .inr (oneItem_w32 _ _ _ _ _)
theorem and (d : GReg) (a : GReg) (b : GReg) : Statement (.and d a b) := fun _ _ => .inr (oneItem_w32 _ _ _ _ _)
theorem or (d : GReg) (a : GReg) (b : GReg) : Statement (.or d a b) := fun _ _ => .inr (oneItem_w32 _ _ _ _ _)
theorem xor (d : GReg) (a : GReg) (b : GReg) : Statement (.xor d a b) := fun _ _ => .inr (oneItem_w32 _ _ _ _ _)
theorem andn (d : GReg) (a : GReg) (b : GReg) : Statement (.andn d a b) := fun _ _ => .inr (oneItem_w32 _ _ _ _ _)
theorem orn (d : GReg) (a : GReg) (b : GReg) : Statement (.orn d a b) := fun _ _ => .inr (oneItem_w32 _ _ _ _ _)
theorem shl (d : GReg) (a : GReg) (b : GReg) : Statement (.shl d a b) := fun _ _ => .inr (oneItem_w32 _ _ _ _ _)
theorem shr (d : GReg) (a : GReg) (b : GReg) : Statement (.shr d a b) := fun _ _ => .inr (oneItem_w32 _ _ _ _ _)
theorem sra (d : GReg) (a : GReg) (b : GReg) : Statement (.sra d a b) := fun _ _ => .inr (oneItem_w32 _ _ _ _ _)
theorem rol (d : GReg) (a : GReg) (b : GReg) : Statement (.rol d a b) := fun _ _ => .inr (oneItem_w32 _ _ _ _ _)
theorem min (d : GReg) (a : GReg) (b : GReg) : Statement (.min d a b) := fun _ _ => .inr (oneItem_w32 _ _ _ _ _)
theorem max (d : GReg) (a : GReg) (b : GReg) : Statement (.max d a b) := fun _ _ => .inr (oneItem_w32 _ _ _ _ _)
theorem minn (d : GReg) (a : GReg) (b : GReg) : Statement (.minn d a b) := fun _ _ => .inr (oneItem_w32 _ _ _ _ _)
theorem maxn (d : GReg) (a : GReg) (b : GReg) : Statement (.maxn d a b) := fun _ _ => .inr (oneItem_w32 _ _ _ _ _)
theorem clz (d : GReg) (a : GReg) : Statement (.clz d a) := fun _ _ => .inr (oneItem_w32 _ _ _ _ _)
theorem ctz (d : GReg) (a : GReg) : Statement (.ctz d a) := fun _ _ => .inr (oneItem_w32 _ _ _ _ _)
theorem pop (d : GReg) (a : GReg) : Statement (.pop d a) := fun _ _ => .inr (oneItem_w32 _ _ _ _ _)
theorem bswap (d : GReg) (a : GReg) : Statement (.bswap d a) := fun _ _ => .inr (oneItem_w32 _ _ _ _ _)
theorem adds (d : GReg) (a : GReg) (b : GReg) : Statement (.adds d a b) := fun _ _ => .inr (oneItem_w32 _ _ _ _ _)
theorem subs (d : GReg) (a : GReg) (b : GReg) : Statement (.subs d a b) := fun _ _ => .inr (oneItem_w32 _ _ _ _ _)
theorem addi (d : GReg) (a : GReg) (imm : BitVec 12) : Statement (.addi d a imm) := fun _ _ => .inr (oneItem_w32 _ _ _ _ _)
theorem andi (d : GReg) (a : GReg) (imm : BitVec 12) : Statement (.andi d a imm) := fun _ _ => .inr (oneItem_w32 _ _ _ _ _)
theorem ori (d : GReg) (a : GReg) (imm : BitVec 12) : Statement (.ori d a imm) := fun _ _ => .inr (oneItem_w32 _ _ _ _ _)
theorem xori (d : GReg) (a : GReg) (imm : BitVec 12) : Statement (.xori d a imm) := fun _ _ => .inr (oneItem_w32 _ _ _ _ _)
theorem shli (d : GReg) (a : GReg) (sh : BitVec 6) : Statement (.shli d a sh) := fun _ _ => .inr (oneItem_w32 _ _ _ _ _)
theorem shri (d : GReg) (a : GReg) (sh : BitVec 6) : Statement (.shri d a sh) := fun _ _ => .inr (oneItem_w32 _ _ _ _ _)
theorem srai (d : GReg) (a : GReg) (sh : BitVec 6) : Statement (.srai d a sh) := fun _ _ => .inr (oneItem_w32 _ _ _ _ _)
theorem roli (d : GReg) (a : GReg) (sh : BitVec 6) : Statement (.roli d a sh) := fun _ _ => .inr (oneItem_w32 _ _ _ _ _)
theorem cmpEq (d : PReg) (a : GReg) (b : GReg) : Statement (.cmpEq d a b) := fun _ _ => .inr (oneItem_w32 _ _ _ _ _)
theorem cmpNe (d : PReg) (a : GReg) (b : GReg) : Statement (.cmpNe d a b) := fun _ _ => .inr (oneItem_w32 _ _ _ _ _)
theorem cmpLt (d : PReg) (a : GReg) (b : GReg) : Statement (.cmpLt d a b) := fun _ _ => .inr (oneItem_w32 _ _ _ _ _)
theorem cmpLe (d : PReg) (a : GReg) (b : GReg) : Statement (.cmpLe d a b) := fun _ _ => .inr (oneItem_w32 _ _ _ _ _)
theorem cmpLtn (d : PReg) (a : GReg) (b : GReg) : Statement (.cmpLtn d a b) := fun _ _ => .inr (oneItem_w32 _ _ _ _ _)
theorem cmpLen (d : PReg) (a : GReg) (b : GReg) : Statement (.cmpLen d a b) := fun _ _ => .inr (oneItem_w32 _ _ _ _ _)
theorem cmpi (cc : BitVec 3) (d : PReg) (a : GReg) (imm : BitVec 12) : Statement (.cmpi cc d a imm) := fun _ _ => .inr (oneItem_w32 _ _ _ _ _)
theorem pand (d : PReg) (a : PReg) (b : PReg) : Statement (.pand d a b) := fun _ _ => .inr (oneItem_w32 _ _ _ _ _)
theorem por (d : PReg) (a : PReg) (b : PReg) : Statement (.por d a b) := fun _ _ => .inr (oneItem_w32 _ _ _ _ _)
theorem pxor (d : PReg) (a : PReg) (b : PReg) : Statement (.pxor d a b) := fun _ _ => .inr (oneItem_w32 _ _ _ _ _)
theorem pandn (d : PReg) (a : PReg) (b : PReg) : Statement (.pandn d a b) := fun _ _ => .inr (oneItem_w32 _ _ _ _ _)
theorem sel (d : GReg) (a : GReg) (b : GReg) (pn : PReg) (inv : Bool) : Statement (.sel d a b pn inv) := fun _ _ => .inr (oneItem_w32 _ _ _ _ _)
theorem faddD (d : GReg) (a : GReg) (b : GReg) : Statement (.faddD d a b) := fun _ _ => .inr (oneItem_w32 _ _ _ _ _)
theorem fsubD (d : GReg) (a : GReg) (b : GReg) : Statement (.fsubD d a b) := fun _ _ => .inr (oneItem_w32 _ _ _ _ _)
theorem fmulD (d : GReg) (a : GReg) (b : GReg) : Statement (.fmulD d a b) := fun _ _ => .inr (oneItem_w32 _ _ _ _ _)
theorem fdivD (d : GReg) (a : GReg) (b : GReg) : Statement (.fdivD d a b) := fun _ _ => .inr (oneItem_w32 _ _ _ _ _)
theorem fsqrtD (d : GReg) (a : GReg) : Statement (.fsqrtD d a) := fun _ _ => .inr (oneItem_w32 _ _ _ _ _)
theorem fminD (d : GReg) (a : GReg) (b : GReg) : Statement (.fminD d a b) := fun _ _ => .inr (oneItem_w32 _ _ _ _ _)
theorem fmaxD (d : GReg) (a : GReg) (b : GReg) : Statement (.fmaxD d a b) := fun _ _ => .inr (oneItem_w32 _ _ _ _ _)
theorem fmacD (d : GReg) (a : GReg) (b : GReg) : Statement (.fmacD d a b) := fun _ _ => .inr (oneItem_w32 _ _ _ _ _)
theorem fabsD (d : GReg) (a : GReg) : Statement (.fabsD d a) := fun _ _ => .inr (oneItem_w32 _ _ _ _ _)
theorem fnegD (d : GReg) (a : GReg) : Statement (.fnegD d a) := fun _ _ => .inr (oneItem_w32 _ _ _ _ _)
theorem faddS (d : GReg) (a : GReg) (b : GReg) : Statement (.faddS d a b) := fun _ _ => .inr (oneItem_w32 _ _ _ _ _)
theorem fsubS (d : GReg) (a : GReg) (b : GReg) : Statement (.fsubS d a b) := fun _ _ => .inr (oneItem_w32 _ _ _ _ _)
theorem fmulS (d : GReg) (a : GReg) (b : GReg) : Statement (.fmulS d a b) := fun _ _ => .inr (oneItem_w32 _ _ _ _ _)
theorem fdivS (d : GReg) (a : GReg) (b : GReg) : Statement (.fdivS d a b) := fun _ _ => .inr (oneItem_w32 _ _ _ _ _)
theorem fsqrtS (d : GReg) (a : GReg) : Statement (.fsqrtS d a) := fun _ _ => .inr (oneItem_w32 _ _ _ _ _)
theorem fminS (d : GReg) (a : GReg) (b : GReg) : Statement (.fminS d a b) := fun _ _ => .inr (oneItem_w32 _ _ _ _ _)
theorem fmaxS (d : GReg) (a : GReg) (b : GReg) : Statement (.fmaxS d a b) := fun _ _ => .inr (oneItem_w32 _ _ _ _ _)
theorem fmacS (d : GReg) (a : GReg) (b : GReg) : Statement (.fmacS d a b) := fun _ _ => .inr (oneItem_w32 _ _ _ _ _)
theorem fabsS (d : GReg) (a : GReg) : Statement (.fabsS d a) := fun _ _ => .inr (oneItem_w32 _ _ _ _ _)
theorem fnegS (d : GReg) (a : GReg) : Statement (.fnegS d a) := fun _ _ => .inr (oneItem_w32 _ _ _ _ _)
theorem fcmpEqS (d : PReg) (a : GReg) (b : GReg) : Statement (.fcmpEqS d a b) := fun _ _ => .inr (oneItem_w32 _ _ _ _ _)
theorem fcmpLtS (d : PReg) (a : GReg) (b : GReg) : Statement (.fcmpLtS d a b) := fun _ _ => .inr (oneItem_w32 _ _ _ _ _)
theorem fcmpLeS (d : PReg) (a : GReg) (b : GReg) : Statement (.fcmpLeS d a b) := fun _ _ => .inr (oneItem_w32 _ _ _ _ _)
theorem fcmpUnS (d : PReg) (a : GReg) (b : GReg) : Statement (.fcmpUnS d a b) := fun _ _ => .inr (oneItem_w32 _ _ _ _ _)
theorem fcmpEqD (d : PReg) (a : GReg) (b : GReg) : Statement (.fcmpEqD d a b) := fun _ _ => .inr (oneItem_w32 _ _ _ _ _)
theorem fcmpLtD (d : PReg) (a : GReg) (b : GReg) : Statement (.fcmpLtD d a b) := fun _ _ => .inr (oneItem_w32 _ _ _ _ _)
theorem fcmpLeD (d : PReg) (a : GReg) (b : GReg) : Statement (.fcmpLeD d a b) := fun _ _ => .inr (oneItem_w32 _ _ _ _ _)
theorem fcmpUnD (d : PReg) (a : GReg) (b : GReg) : Statement (.fcmpUnD d a b) := fun _ _ => .inr (oneItem_w32 _ _ _ _ _)
theorem cvtDI (d : GReg) (a : GReg) : Statement (.cvtDI d a) := fun _ _ => .inr (oneItem_w32 _ _ _ _ _)
theorem cvtDN (d : GReg) (a : GReg) : Statement (.cvtDN d a) := fun _ _ => .inr (oneItem_w32 _ _ _ _ _)
theorem cvtID (d : GReg) (a : GReg) : Statement (.cvtID d a) := fun _ _ => .inr (oneItem_w32 _ _ _ _ _)
theorem cvtND (d : GReg) (a : GReg) : Statement (.cvtND d a) := fun _ _ => .inr (oneItem_w32 _ _ _ _ _)
theorem cvtSD (d : GReg) (a : GReg) : Statement (.cvtSD d a) := fun _ _ => .inr (oneItem_w32 _ _ _ _ _)
theorem cvtDS (d : GReg) (a : GReg) : Statement (.cvtDS d a) := fun _ _ => .inr (oneItem_w32 _ _ _ _ _)
theorem cvtSI (d : GReg) (a : GReg) : Statement (.cvtSI d a) := fun _ _ => .inr (oneItem_w32 _ _ _ _ _)
theorem cvtIS (d : GReg) (a : GReg) : Statement (.cvtIS d a) := fun _ _ => .inr (oneItem_w32 _ _ _ _ _)
theorem cvtHS (d : GReg) (a : GReg) : Statement (.cvtHS d a) := fun _ _ => .inr (oneItem_w32 _ _ _ _ _)
theorem cvtSH (d : GReg) (a : GReg) : Statement (.cvtSH d a) := fun _ _ => .inr (oneItem_w32 _ _ _ _ _)
theorem cvtBfS (d : GReg) (a : GReg) : Statement (.cvtBfS d a) := fun _ _ => .inr (oneItem_w32 _ _ _ _ _)
theorem cvtSBf (d : GReg) (a : GReg) : Statement (.cvtSBf d a) := fun _ _ => .inr (oneItem_w32 _ _ _ _ _)
theorem bra (off : BitVec 20) : Statement (.bra off) := fun _ _ => .inr (oneItem_w32 _ _ _ _ _)
theorem bp (p : PReg) (neg : Bool) (off : BitVec 20) : Statement (.bp p neg off) := fun _ _ => .inr (oneItem_w32 _ _ _ _ _)
theorem call (off : BitVec 20) : Statement (.call off) := fun _ _ => .inr (oneItem_w32 _ _ _ _ _)
theorem jr (a : GReg) : Statement (.jr a) := fun _ _ => .inr (oneItem_w32 _ _ _ _ _)
theorem callr (a : GReg) : Statement (.callr a) := fun _ _ => .inr (oneItem_w32 _ _ _ _ _)
theorem ldB (d : GReg) (a : GReg) (sp : Bool) (off : BitVec 8) : Statement (.ldB d a sp off) := fun _ _ => .inr (oneItem_w32 _ _ _ _ _)
theorem ldBn (d : GReg) (a : GReg) (sp : Bool) (off : BitVec 8) : Statement (.ldBn d a sp off) := fun _ _ => .inr (oneItem_w32 _ _ _ _ _)
theorem ldH (d : GReg) (a : GReg) (sp : Bool) (off : BitVec 8) : Statement (.ldH d a sp off) := fun _ _ => .inr (oneItem_w32 _ _ _ _ _)
theorem ldHn (d : GReg) (a : GReg) (sp : Bool) (off : BitVec 8) : Statement (.ldHn d a sp off) := fun _ _ => .inr (oneItem_w32 _ _ _ _ _)
theorem ldW (d : GReg) (a : GReg) (sp : Bool) (off : BitVec 8) : Statement (.ldW d a sp off) := fun _ _ => .inr (oneItem_w32 _ _ _ _ _)
theorem ldWn (d : GReg) (a : GReg) (sp : Bool) (off : BitVec 8) : Statement (.ldWn d a sp off) := fun _ _ => .inr (oneItem_w32 _ _ _ _ _)
theorem ldD (d : GReg) (a : GReg) (sp : Bool) (off : BitVec 8) : Statement (.ldD d a sp off) := fun _ _ => .inr (oneItem_w32 _ _ _ _ _)
theorem stB (d : GReg) (a : GReg) (sp : Bool) (off : BitVec 8) : Statement (.stB d a sp off) := fun _ _ => .inr (oneItem_w32 _ _ _ _ _)
theorem stH (d : GReg) (a : GReg) (sp : Bool) (off : BitVec 8) : Statement (.stH d a sp off) := fun _ _ => .inr (oneItem_w32 _ _ _ _ _)
theorem stW (d : GReg) (a : GReg) (sp : Bool) (off : BitVec 8) : Statement (.stW d a sp off) := fun _ _ => .inr (oneItem_w32 _ _ _ _ _)
theorem stD (d : GReg) (a : GReg) (sp : Bool) (off : BitVec 8) : Statement (.stD d a sp off) := fun _ _ => .inr (oneItem_w32 _ _ _ _ _)
theorem pub (sc : BitVec 2) : Statement (.pub sc) := fun _ _ => .inr (oneItem_w32 _ _ _ _ _)
theorem ref (sc : BitVec 2) : Statement (.ref sc) := fun _ _ => .inr (oneItem_w32 _ _ _ _ _)
theorem phase (sc : BitVec 2) : Statement (.phase sc) := fun _ _ => .inr (oneItem_w32 _ _ _ _ _)
theorem tokp (f : BitVec 3) : Statement (.tokp f) := fun _ _ => .inr (oneItem_w32 _ _ _ _ _)
theorem tokw (f : BitVec 3) : Statement (.tokw f) := fun _ _ => .inr (oneItem_w32 _ _ _ _ _)
theorem qwait (a : GReg) (k : BitVec 2) : Statement (.qwait a k) := fun _ _ => .inr (oneItem_w32 _ _ _ _ _)
theorem qseq (d : GReg) (k : BitVec 2) : Statement (.qseq d k) := fun _ _ => .inr (oneItem_w32 _ _ _ _ _)
theorem racq (d : GReg) (q : SReg) : Statement (.racq d q) := fun _ _ => .inr (oneItem_w32 _ _ _ _ _)
theorem rrel (q : SReg) (b : GReg) : Statement (.rrel q b) := fun _ _ => .inr (oneItem_w32 _ _ _ _ _)
theorem rwait (d : GReg) (q : SReg) : Statement (.rwait d q) := fun _ _ => .inr (oneItem_w32 _ _ _ _ _)
theorem rpop (q : SReg) : Statement (.rpop q) := fun _ _ => .inr (oneItem_w32 _ _ _ _ _)
theorem rtest (d : PReg) (q : SReg) (k : BitVec 1) : Statement (.rtest d q k) := fun _ _ => .inr (oneItem_w32 _ _ _ _ _)
theorem rstat (d : GReg) (q : SReg) : Statement (.rstat d q) := fun _ _ => .inr (oneItem_w32 _ _ _ _ _)
theorem bara (d : GReg) (a : GReg) : Statement (.bara d a) := fun _ _ => .inr (oneItem_w32 _ _ _ _ _)
theorem barad (d : GReg) (a : GReg) : Statement (.barad d a) := fun _ _ => .inr (oneItem_w32 _ _ _ _ _)
theorem barw (a : GReg) (b : GReg) : Statement (.barw a b) := fun _ _ => .inr (oneItem_w32 _ _ _ _ _)
theorem bart (d : PReg) (a : GReg) (b : GReg) : Statement (.bart d a b) := fun _ _ => .inr (oneItem_w32 _ _ _ _ _)
theorem barx (a : GReg) (b : GReg) : Statement (.barx a b) := fun _ _ => .inr (oneItem_w32 _ _ _ _ _)
theorem barq (d : GReg) (a : GReg) : Statement (.barq d a) := fun _ _ => .inr (oneItem_w32 _ _ _ _ _)
theorem gjoin (d : GReg) (a : GReg) : Statement (.gjoin d a) := fun _ _ => .inr (oneItem_w32 _ _ _ _ _)
theorem gsize (d : GReg) (a : GReg) : Statement (.gsize d a) := fun _ _ => .inr (oneItem_w32 _ _ _ _ _)
theorem grank (d : GReg) : Statement (.grank d) := fun _ _ => .inr (oneItem_w32 _ _ _ _ _)
theorem tagal (d : GReg) (a : GReg) (b : GReg) : Statement (.tagal d a b) := fun _ _ => .inr (oneItem_w32 _ _ _ _ _)
theorem tagfr (a : GReg) : Statement (.tagfr a) := fun _ _ => .inr (oneItem_w32 _ _ _ _ _)
theorem tagq (d : GReg) (a : GReg) : Statement (.tagq d a) := fun _ _ => .inr (oneItem_w32 _ _ _ _ _)
theorem tsub (d : GReg) (a : GReg) (b : GReg) : Statement (.tsub d a b) := fun _ _ => .inr (oneItem_w32 _ _ _ _ _)
theorem tdep (a : GReg) : Statement (.tdep a) := fun _ _ => .inr (oneItem_w32 _ _ _ _ _)
theorem tinfo (d : GReg) (k : BitVec 3) : Statement (.tinfo d k) := fun _ _ => .inr (oneItem_w32 _ _ _ _ _)
theorem pqins (d : GReg) (a : GReg) (b : GReg) : Statement (.pqins d a b) := fun _ _ => .inr (oneItem_w32 _ _ _ _ _)
theorem pqpop (d : GReg) (f : PReg) (s : PReg) (b : GReg) : Statement (.pqpop d f s b) := fun _ _ => .inr (oneItem_w32 _ _ _ _ _)
theorem pqpeek (d : GReg) (f : PReg) (s : PReg) (b : GReg) : Statement (.pqpeek d f s b) := fun _ _ => .inr (oneItem_w32 _ _ _ _ _)
theorem pqinv (a : GReg) (b : GReg) : Statement (.pqinv a b) := fun _ _ => .inr (oneItem_w32 _ _ _ _ _)
theorem pqclr (b : GReg) : Statement (.pqclr b) := fun _ _ => .inr (oneItem_w32 _ _ _ _ _)
theorem pqcnt (d : GReg) (b : GReg) : Statement (.pqcnt d b) := fun _ _ => .inr (oneItem_w32 _ _ _ _ _)
theorem mfs (d : GReg) (n : BitVec 12) : Statement (.mfs d n) := fun _ _ => .inr (oneItem_w32 _ _ _ _ _)
theorem mts (n : BitVec 12) (a : GReg) : Statement (.mts n a) := fun _ _ => .inr (oneItem_w32 _ _ _ _ _)
theorem rnd (d : GReg) : Statement (.rnd d) := fun _ _ => .inr (oneItem_w32 _ _ _ _ _)
theorem rndk (a : GReg) (b : GReg) : Statement (.rndk a b) := fun _ _ => .inr (oneItem_w32 _ _ _ _ _)
theorem chkerr (d : GReg) : Statement (.chkerr d) := fun _ _ => .inr (oneItem_w32 _ _ _ _ _)
theorem sigr (d : GReg) : Statement (.sigr d) := fun _ _ => .inr (oneItem_w32 _ _ _ _ _)
theorem logm (a : GReg) : Statement (.logm a) := fun _ _ => .inr (oneItem_w32 _ _ _ _ _)
theorem logq (d : GReg) (k : BitVec 1) : Statement (.logq d k) := fun _ _ => .inr (oneItem_w32 _ _ _ _ _)
theorem accrd (d : GReg) (a : GReg) : Statement (.accrd d a) := fun _ _ => .inr (oneItem_w32 _ _ _ _ _)
theorem accwr (d : GReg) (a : GReg) : Statement (.accwr d a) := fun _ _ => .inr (oneItem_w32 _ _ _ _ _)
theorem rpw (d : GReg) (a : GReg) (b : GReg) : Statement (.rpw d a b) := fun _ _ => .inr (oneItem_w32 _ _ _ _ _)
theorem rpr (d : GReg) (a : GReg) (b : GReg) : Statement (.rpr d a b) := fun _ _ => .inr (oneItem_w32 _ _ _ _ _)
theorem rpt (d : GReg) (a : GReg) : Statement (.rpt d a) := fun _ _ => .inr (oneItem_w32 _ _ _ _ _)
theorem smov (d : SReg) (a : SReg) : Statement (.smov d a) := fun _ _ => .inr (oneItem_w32 _ _ _ _ _)
theorem sld (d : SReg) (a : GReg) : Statement (.sld d a) := fun _ _ => .inr (oneItem_w32 _ _ _ _ _)
theorem sst (d : SReg) (a : GReg) : Statement (.sst d a) := fun _ _ => .inr (oneItem_w32 _ _ _ _ _)
theorem rwopen (d : GReg) (a : GReg) (b : GReg) : Statement (.rwopen d a b) := fun _ _ => .inr (oneItem_w32 _ _ _ _ _)
theorem rwclose (a : GReg) : Statement (.rwclose a) := fun _ _ => .inr (oneItem_w32 _ _ _ _ _)
theorem movi (d : GReg) (imm : Half) : Statement (.movi d imm) := fun _ _ => .inr (oneItem_w64 _ _ _ _ _ _)
theorem movhi (d : GReg) (imm : Half) : Statement (.movhi d imm) := fun _ _ => .inr (oneItem_w64 _ _ _ _ _ _)
theorem addwi (d : GReg) (a : GReg) (imm : Half) : Statement (.addwi d a imm) := fun _ _ => .inr (oneItem_w64 _ _ _ _ _ _)
theorem cmpwi (cc : BitVec 3) (d : PReg) (a : GReg) (imm : Half) : Statement (.cmpwi cc d a imm) := fun _ _ => .inr (oneItem_w64 _ _ _ _ _ _)
theorem braw (p : PReg) (neg : Bool) (imm : Half) : Statement (.braw p neg imm) := fun _ _ => .inr (oneItem_w64 _ _ _ _ _ _)
theorem lea (d : GReg) (a : GReg) (imm : Half) : Statement (.lea d a imm) := fun _ _ => .inr (oneItem_w64 _ _ _ _ _ _)
theorem ldlB (d : GReg) (a : GReg) (imm : Half) : Statement (.ldlB d a imm) := fun _ _ => .inr (oneItem_w64 _ _ _ _ _ _)
theorem ldlBn (d : GReg) (a : GReg) (imm : Half) : Statement (.ldlBn d a imm) := fun _ _ => .inr (oneItem_w64 _ _ _ _ _ _)
theorem ldlH (d : GReg) (a : GReg) (imm : Half) : Statement (.ldlH d a imm) := fun _ _ => .inr (oneItem_w64 _ _ _ _ _ _)
theorem ldlHn (d : GReg) (a : GReg) (imm : Half) : Statement (.ldlHn d a imm) := fun _ _ => .inr (oneItem_w64 _ _ _ _ _ _)
theorem ldlW (d : GReg) (a : GReg) (imm : Half) : Statement (.ldlW d a imm) := fun _ _ => .inr (oneItem_w64 _ _ _ _ _ _)
theorem ldlWn (d : GReg) (a : GReg) (imm : Half) : Statement (.ldlWn d a imm) := fun _ _ => .inr (oneItem_w64 _ _ _ _ _ _)
theorem ldlD (d : GReg) (a : GReg) (imm : Half) : Statement (.ldlD d a imm) := fun _ _ => .inr (oneItem_w64 _ _ _ _ _ _)
theorem stlB (d : GReg) (a : GReg) (imm : Half) : Statement (.stlB d a imm) := fun _ _ => .inr (oneItem_w64 _ _ _ _ _ _)
theorem stlH (d : GReg) (a : GReg) (imm : Half) : Statement (.stlH d a imm) := fun _ _ => .inr (oneItem_w64 _ _ _ _ _ _)
theorem stlW (d : GReg) (a : GReg) (imm : Half) : Statement (.stlW d a imm) := fun _ _ => .inr (oneItem_w64 _ _ _ _ _ _)
theorem stlD (d : GReg) (a : GReg) (imm : Half) : Statement (.stlD d a imm) := fun _ _ => .inr (oneItem_w64 _ _ _ _ _ _)
theorem atomAdd (d : GReg) (a : GReg) (b : GReg) (w : Bool) (o : BitVec 3) (sc : BitVec 2) (ord : Bool) : Statement (.atomAdd d a b w o sc ord) := fun _ _ => .inr (oneItem_w64 _ _ _ _ _ _)
theorem atomSub (d : GReg) (a : GReg) (b : GReg) (w : Bool) (o : BitVec 3) (sc : BitVec 2) (ord : Bool) : Statement (.atomSub d a b w o sc ord) := fun _ _ => .inr (oneItem_w64 _ _ _ _ _ _)
theorem atomAnd (d : GReg) (a : GReg) (b : GReg) (w : Bool) (o : BitVec 3) (sc : BitVec 2) (ord : Bool) : Statement (.atomAnd d a b w o sc ord) := fun _ _ => .inr (oneItem_w64 _ _ _ _ _ _)
theorem atomOr (d : GReg) (a : GReg) (b : GReg) (w : Bool) (o : BitVec 3) (sc : BitVec 2) (ord : Bool) : Statement (.atomOr d a b w o sc ord) := fun _ _ => .inr (oneItem_w64 _ _ _ _ _ _)
theorem atomXor (d : GReg) (a : GReg) (b : GReg) (w : Bool) (o : BitVec 3) (sc : BitVec 2) (ord : Bool) : Statement (.atomXor d a b w o sc ord) := fun _ _ => .inr (oneItem_w64 _ _ _ _ _ _)
theorem atomMin (d : GReg) (a : GReg) (b : GReg) (w : Bool) (o : BitVec 3) (sc : BitVec 2) (ord : Bool) : Statement (.atomMin d a b w o sc ord) := fun _ _ => .inr (oneItem_w64 _ _ _ _ _ _)
theorem atomMax (d : GReg) (a : GReg) (b : GReg) (w : Bool) (o : BitVec 3) (sc : BitVec 2) (ord : Bool) : Statement (.atomMax d a b w o sc ord) := fun _ _ => .inr (oneItem_w64 _ _ _ _ _ _)
theorem atomMinn (d : GReg) (a : GReg) (b : GReg) (w : Bool) (o : BitVec 3) (sc : BitVec 2) (ord : Bool) : Statement (.atomMinn d a b w o sc ord) := fun _ _ => .inr (oneItem_w64 _ _ _ _ _ _)
theorem atomMaxn (d : GReg) (a : GReg) (b : GReg) (w : Bool) (o : BitVec 3) (sc : BitVec 2) (ord : Bool) : Statement (.atomMaxn d a b w o sc ord) := fun _ _ => .inr (oneItem_w64 _ _ _ _ _ _)
theorem atomXchg (d : GReg) (a : GReg) (b : GReg) (w : Bool) (o : BitVec 3) (sc : BitVec 2) (ord : Bool) : Statement (.atomXchg d a b w o sc ord) := fun _ _ => .inr (oneItem_w64 _ _ _ _ _ _)
theorem atomCas (d : GReg) (a : GReg) (b : GReg) (c : GReg) (o : BitVec 3) (sc : BitVec 2) (ord : Bool) : Statement (.atomCas d a b c o sc ord) := fun _ _ => .inr (oneItem_w64 _ _ _ _ _ _)
theorem atomFaddS (d : GReg) (a : GReg) (b : GReg) (o : BitVec 3) (sc : BitVec 2) (ord : Bool) : Statement (.atomFaddS d a b o sc ord) := fun _ _ => .inr (oneItem_w64 _ _ _ _ _ _)
theorem atomFaddD (d : GReg) (a : GReg) (b : GReg) (o : BitVec 3) (sc : BitVec 2) (ord : Bool) : Statement (.atomFaddD d a b o sc ord) := fun _ _ => .inr (oneItem_w64 _ _ _ _ _ _)
theorem atomFmaxS (d : GReg) (a : GReg) (b : GReg) (o : BitVec 3) (sc : BitVec 2) (ord : Bool) : Statement (.atomFmaxS d a b o sc ord) := fun _ _ => .inr (oneItem_w64 _ _ _ _ _ _)
theorem atomFminS (d : GReg) (a : GReg) (b : GReg) (o : BitVec 3) (sc : BitVec 2) (ord : Bool) : Statement (.atomFminS d a b o sc ord) := fun _ _ => .inr (oneItem_w64 _ _ _ _ _ _)
theorem sdef (d : SReg) (a : GReg) (b : GReg) (c : GReg) (fmt : BitVec 16) (spc : BitVec 2) (sb : BitVec 2) : Statement (.sdef d a b c fmt spc sb) := fun _ _ => .inr (oneItem_w64 _ _ _ _ _ _)
theorem lTile (r : Rec) : Statement (.lTile r) := fun _ _ => .inr (oneItem_recWords _ _ _)
theorem lGth (r : Rec) : Statement (.lGth r) := fun _ _ => .inr (oneItem_recWords _ _ _)
theorem lMc (r : Rec) : Statement (.lMc r) := fun _ _ => .inr (oneItem_recWords _ _ _)
theorem lSc (r : Rec) : Statement (.lSc r) := fun _ _ => .inr (oneItem_recWords _ _ _)
theorem lAcc (r : Rec) : Statement (.lAcc r) := fun _ _ => .inr (oneItem_recWords _ _ _)
theorem lZero (r : Rec) : Statement (.lZero r) := fun _ _ => .inr (oneItem_recWords _ _ _)
theorem lPf (r : Rec) : Statement (.lPf r) := fun _ _ => .inr (oneItem_recWords _ _ _)
theorem lCv (r : Rec) : Statement (.lCv r) := fun _ _ => .inr (oneItem_recWords _ _ _)
theorem mma (r : Rec) : Statement (.mma r) := fun _ _ => .inr (oneItem_recWords _ _ _)
theorem mmaSp (r : Rec) : Statement (.mmaSp r) := fun _ _ => .inr (oneItem_recWords _ _ _)
theorem accZero (r : Rec) : Statement (.accZero r) := fun _ _ => .inr (oneItem_recWords _ _ _)
theorem accCopy (r : Rec) : Statement (.accCopy r) := fun _ _ => .inr (oneItem_recWords _ _ _)
theorem vAdd (r : Rec) : Statement (.vAdd r) := fun _ _ => .inr (oneItem_recWords _ _ _)
theorem vSub (r : Rec) : Statement (.vSub r) := fun _ _ => .inr (oneItem_recWords _ _ _)
theorem vMul (r : Rec) : Statement (.vMul r) := fun _ _ => .inr (oneItem_recWords _ _ _)
theorem vFma (r : Rec) : Statement (.vFma r) := fun _ _ => .inr (oneItem_recWords _ _ _)
theorem vMin (r : Rec) : Statement (.vMin r) := fun _ _ => .inr (oneItem_recWords _ _ _)
theorem vMax (r : Rec) : Statement (.vMax r) := fun _ _ => .inr (oneItem_recWords _ _ _)
theorem vAbs (r : Rec) : Statement (.vAbs r) := fun _ _ => .inr (oneItem_recWords _ _ _)
theorem vNeg (r : Rec) : Statement (.vNeg r) := fun _ _ => .inr (oneItem_recWords _ _ _)
theorem vSel (r : Rec) : Statement (.vSel r) := fun _ _ => .inr (oneItem_recWords _ _ _)
theorem vCmp (r : Rec) : Statement (.vCmp r) := fun _ _ => .inr (oneItem_recWords _ _ _)
theorem vCvt (r : Rec) : Statement (.vCvt r) := fun _ _ => .inr (oneItem_recWords _ _ _)
theorem vMov (r : Rec) : Statement (.vMov r) := fun _ _ => .inr (oneItem_recWords _ _ _)
theorem vBcast (r : Rec) : Statement (.vBcast r) := fun _ _ => .inr (oneItem_recWords _ _ _)
theorem vAnd (r : Rec) : Statement (.vAnd r) := fun _ _ => .inr (oneItem_recWords _ _ _)
theorem vOr (r : Rec) : Statement (.vOr r) := fun _ _ => .inr (oneItem_recWords _ _ _)
theorem vXor (r : Rec) : Statement (.vXor r) := fun _ _ => .inr (oneItem_recWords _ _ _)
theorem vShl (r : Rec) : Statement (.vShl r) := fun _ _ => .inr (oneItem_recWords _ _ _)
theorem vShr (r : Rec) : Statement (.vShr r) := fun _ _ => .inr (oneItem_recWords _ _ _)
theorem vExp2 (r : Rec) : Statement (.vExp2 r) := fun _ _ => .inr (oneItem_recWords _ _ _)
theorem vLog2 (r : Rec) : Statement (.vLog2 r) := fun _ _ => .inr (oneItem_recWords _ _ _)
theorem vRcp (r : Rec) : Statement (.vRcp r) := fun _ _ => .inr (oneItem_recWords _ _ _)
theorem vRsqrt (r : Rec) : Statement (.vRsqrt r) := fun _ _ => .inr (oneItem_recWords _ _ _)
theorem vTanh (r : Rec) : Statement (.vTanh r) := fun _ _ => .inr (oneItem_recWords _ _ _)
theorem vClamp (r : Rec) : Statement (.vClamp r) := fun _ _ => .inr (oneItem_recWords _ _ _)
theorem rSum (r : Rec) : Statement (.rSum r) := fun _ _ => .inr (oneItem_recWords _ _ _)
theorem rMax (r : Rec) : Statement (.rMax r) := fun _ _ => .inr (oneItem_recWords _ _ _)
theorem rMin (r : Rec) : Statement (.rMin r) := fun _ _ => .inr (oneItem_recWords _ _ _)
theorem rAmax (r : Rec) : Statement (.rAmax r) := fun _ _ => .inr (oneItem_recWords _ _ _)
theorem rArgmax (r : Rec) : Statement (.rArgmax r) := fun _ _ => .inr (oneItem_recWords _ _ _)
theorem rTopk (r : Rec) : Statement (.rTopk r) := fun _ _ => .inr (oneItem_recWords _ _ _)
theorem xTr (r : Rec) : Statement (.xTr r) := fun _ _ => .inr (oneItem_recWords _ _ _)
theorem xGth (r : Rec) : Statement (.xGth r) := fun _ _ => .inr (oneItem_recWords _ _ _)
theorem sdfSmp (r : Rec) : Statement (.sdfSmp r) := fun _ _ => .inr (oneItem_recWords _ _ _)
theorem sweep (r : Rec) : Statement (.sweep r) := fun _ _ => .inr (oneItem_recWords _ _ _)
theorem sTile (r : Rec) : Statement (.sTile r) := fun _ _ => .inr (oneItem_recWords _ _ _)
theorem sQuant (r : Rec) : Statement (.sQuant r) := fun _ _ => .inr (oneItem_recWords _ _ _)
theorem sScat (r : Rec) : Statement (.sScat r) := fun _ _ => .inr (oneItem_recWords _ _ _)
theorem sRed (r : Rec) : Statement (.sRed r) := fun _ _ => .inr (oneItem_recWords _ _ _)
theorem sMeet (r : Rec) : Statement (.sMeet r) := fun _ _ => .inr (oneItem_recWords _ _ _)
theorem sCkpt (r : Rec) : Statement (.sCkpt r) := fun _ _ => .inr (oneItem_recWords _ _ _)
theorem sRing (r : Rec) : Statement (.sRing r) := fun _ _ => .inr (oneItem_recWords _ _ _)
theorem nop : Statement (.nop) := fun _ _ => .inr (oneItem_w32 _ _ _ _ _)
theorem tgt : Statement (.tgt) := fun _ _ => .inr (oneItem_w32 _ _ _ _ _)
theorem eret : Statement (.eret) := fun _ _ => .inr (oneItem_w32 _ _ _ _ _)
theorem yield : Statement (.yield) := fun _ _ => .inr (oneItem_w32 _ _ _ _ _)
theorem mod : Statement (.mod) := fun v h => .inr (oneItem_mod v (h rfl))
theorem unassignedEncoding : Statement (.unassignedEncoding) := fun _ _ => .inl rfl
theorem misalignedItem : Statement (.misalignedItem) := fun _ _ => .inl rfl
theorem ret : Statement (.ret) := fun _ _ => .inr (oneItem_w32 _ _ _ _ _)
theorem loadWriteback : Statement (.loadWriteback) := fun _ _ => .inl rfl
theorem fenceSc : Statement (.fenceSc) := fun _ _ => .inr (oneItem_w32 _ _ _ _ _)
theorem fenceIo : Statement (.fenceIo) := fun _ _ => .inr (oneItem_w32 _ _ _ _ _)
theorem waitpv : Statement (.waitpv) := fun _ _ => .inr (oneItem_w32 _ _ _ _ _)
theorem sms : Statement (.sms) := fun _ _ => .inr (oneItem_w32 _ _ _ _ _)
theorem qdrain : Statement (.qdrain) := fun _ _ => .inr (oneItem_w32 _ _ _ _ _)
theorem gleave : Statement (.gleave) := fun _ _ => .inr (oneItem_w32 _ _ _ _ _)
theorem tdone : Statement (.tdone) := fun _ _ => .inr (oneItem_w32 _ _ _ _ _)
theorem tstage : Statement (.tstage) := fun _ _ => .inr (oneItem_w32 _ _ _ _ _)
theorem rawPacketComplete : Statement (.rawPacketComplete) := fun _ _ => .inl rfl
theorem callw : Statement (.callw) := fun _ _ => .inr (oneItem_w64 _ _ _ _ _ _)
theorem plive : Statement (.plive) := fun _ _ => .inr (oneItem_w64 _ _ _ _ _ _)
theorem segb : Statement (.segb) := fun _ _ => .inr (oneItem_w64 _ _ _ _ _ _)
theorem sege : Statement (.sege) := fun _ _ => .inr (oneItem_w64 _ _ _ _ _ _)
theorem recordStart : Statement (.recordStart) := fun _ _ => .inl rfl
theorem recordIssue : Statement (.recordIssue) := fun _ _ => .inl rfl
theorem recordRetire : Statement (.recordRetire) := fun _ _ => .inl rfl
theorem waitSatisfied : Statement (.waitSatisfied) := fun _ _ => .inl rfl
theorem strandPlacement : Statement (.strandPlacement) := fun _ _ => .inl rfl
theorem placeZeroingDone : Statement (.placeZeroingDone) := fun _ _ => .inl rfl
theorem taskDispatch : Statement (.taskDispatch) := fun _ _ => .inl rfl
theorem stageAgeTick : Statement (.stageAgeTick) := fun _ _ => .inl rfl
theorem taskRequest : Statement (.taskRequest) := fun _ _ => .inl rfl
theorem tsubAtOwner : Statement (.tsubAtOwner) := fun _ _ => .inl rfl
theorem depDecrement : Statement (.depDecrement) := fun _ _ => .inl rfl
theorem completionReport : Statement (.completionReport) := fun _ _ => .inl rfl
theorem copyEntryComplete : Statement (.copyEntryComplete) := fun _ _ => .inl rfl
theorem launchStart : Statement (.launchStart) := fun _ _ => .inl rfl
theorem launchComplete : Statement (.launchComplete) := fun _ _ => .inl rfl
theorem lqKick : Statement (.lqKick) := fun _ _ => .inl rfl
theorem launchFetchRetry : Statement (.launchFetchRetry) := fun _ _ => .inl rfl
theorem lqCfgWrite : Statement (.lqCfgWrite) := fun _ _ => .inl rfl
theorem preemptPre : Statement (.preemptPre) := fun _ _ => .inl rfl
theorem preemptRequestArrive : Statement (.preemptRequestArrive) := fun _ _ => .inl rfl
theorem preemptHintBoundExpiry : Statement (.preemptHintBoundExpiry) := fun _ _ => .inl rfl
theorem contextSaveComplete : Statement (.contextSaveComplete) := fun _ _ => .inl rfl
theorem preemptRes : Statement (.preemptRes) := fun _ _ => .inl rfl
theorem resumeComplete : Statement (.resumeComplete) := fun _ _ => .inl rfl
theorem preemptFls : Statement (.preemptFls) := fun _ _ => .inl rfl
theorem ctxFltDsc : Statement (.ctxFltDsc) := fun _ _ => .inl rfl
theorem ctxLogcWrite : Statement (.ctxLogcWrite) := fun _ _ => .inl rfl
theorem ctxCkiClear : Statement (.ctxCkiClear) := fun _ _ => .inl rfl
theorem svcCtlShed : Statement (.svcCtlShed) := fun _ _ => .inl rfl
theorem svcCtlReturn : Statement (.svcCtlReturn) := fun _ _ => .inl rfl
theorem svcTimWrite : Statement (.svcTimWrite) := fun _ _ => .inl rfl
theorem quiescentPoint : Statement (.quiescentPoint) := fun _ _ => .inl rfl
theorem stackPowerUp : Statement (.stackPowerUp) := fun _ _ => .inl rfl
theorem selfTestComplete : Statement (.selfTestComplete) := fun _ _ => .inl rfl
theorem stackPowerLoss : Statement (.stackPowerLoss) := fun _ _ => .inl rfl
theorem lockstepMismatch : Statement (.lockstepMismatch) := fun _ _ => .inl rfl
theorem fabricMessageReceive : Statement (.fabricMessageReceive) := fun _ _ => .inl rfl
theorem fabricAckReceive : Statement (.fabricAckReceive) := fun _ _ => .inl rfl
theorem ackTimeout : Statement (.ackTimeout) := fun _ _ => .inl rfl
theorem linkRecoveryExpiry : Statement (.linkRecoveryExpiry) := fun _ _ => .inl rfl
theorem heartbeatTimer : Statement (.heartbeatTimer) := fun _ _ => .inl rfl
theorem suspectReportReceive : Statement (.suspectReportReceive) := fun _ _ => .inl rfl
theorem suspectReportExpiry : Statement (.suspectReportExpiry) := fun _ _ => .inl rfl
theorem viewProposalReceive : Statement (.viewProposalReceive) := fun _ _ => .inl rfl
theorem viewAckReceive : Statement (.viewAckReceive) := fun _ _ => .inl rfl
theorem viewCommit : Statement (.viewCommit) := fun _ _ => .inl rfl
theorem fencedStackPowerDown : Statement (.fencedStackPowerDown) := fun _ _ => .inl rfl
theorem atomicPerform : Statement (.atomicPerform) := fun _ _ => .inl rfl
theorem migrationCopyComplete : Statement (.migrationCopyComplete) := fun _ _ => .inl rfl
theorem orderedBatchPerform : Statement (.orderedBatchPerform) := fun _ _ => .inl rfl
theorem reductionContributionArrive : Statement (.reductionContributionArrive) := fun _ _ => .inl rfl
theorem windowMerge : Statement (.windowMerge) := fun _ _ => .inl rfl
theorem meetOperandArrive : Statement (.meetOperandArrive) := fun _ _ => .inl rfl
theorem meetResultDelivery : Statement (.meetResultDelivery) := fun _ _ => .inl rfl
theorem spillHoldExpiry : Statement (.spillHoldExpiry) := fun _ _ => .inl rfl
theorem orphanTimeout : Statement (.orphanTimeout) := fun _ _ => .inl rfl
theorem multicastDelivery : Statement (.multicastDelivery) := fun _ _ => .inl rfl
theorem ringDelivery : Statement (.ringDelivery) := fun _ _ => .inl rfl
theorem segmentCycleBound : Statement (.segmentCycleBound) := fun _ _ => .inl rfl
theorem patrolScrub : Statement (.patrolScrub) := fun _ _ => .inl rfl
theorem onDieUncorrectableError : Statement (.onDieUncorrectableError) := fun _ _ => .inl rfl
theorem powerCapExceeded : Statement (.powerCapExceeded) := fun _ _ => .inl rfl
theorem dvPcapWrite : Statement (.dvPcapWrite) := fun _ _ => .inl rfl
theorem attestationRequest : Statement (.attestationRequest) := fun _ _ => .inl rfl
theorem attestationReportReady : Statement (.attestationReportReady) := fun _ _ => .inl rfl
theorem debugTokenSubmit : Statement (.debugTokenSubmit) := fun _ _ => .inl rfl
theorem dvQscrWrite : Statement (.dvQscrWrite) := fun _ _ => .inl rfl
theorem quarantineScrubDone : Statement (.quarantineScrubDone) := fun _ _ => .inl rfl
theorem dvEccClear : Statement (.dvEccClear) := fun _ _ => .inl rfl
theorem dvUccClear : Statement (.dvUccClear) := fun _ _ => .inl rfl
theorem dbgCtlStop : Statement (.dbgCtlStop) := fun _ _ => .inl rfl
theorem dbgCtlRun : Statement (.dbgCtlRun) := fun _ _ => .inl rfl
theorem dbgCtlStep : Statement (.dbgCtlStep) := fun _ _ => .inl rfl
theorem dbgCctlSall : Statement (.dbgCctlSall) := fun _ _ => .inl rfl
theorem dbgCctlRall : Statement (.dbgCctlRall) := fun _ _ => .inl rfl
theorem dbgCctlPclr : Statement (.dbgCctlPclr) := fun _ _ => .inl rfl
theorem dbgDatRead : Statement (.dbgDatRead) := fun _ _ => .inl rfl
theorem dbgDatWrite : Statement (.dbgDatWrite) := fun _ _ => .inl rfl
theorem dbgPcWrite : Statement (.dbgPcWrite) := fun _ _ => .inl rfl
theorem traceConfigWrite : Statement (.traceConfigWrite) := fun _ _ => .inl rfl
theorem registerWrite : Statement (.registerWrite) := fun _ _ => .inl rfl
theorem pqSelectionWriteback : Statement (.pqSelectionWriteback) := fun _ _ => .inl rfl
theorem powerFallsBelowCap : Statement (.powerFallsBelowCap) := fun _ _ => .inl rfl
theorem lifeCycleAdvance : Statement (.lifeCycleAdvance) := fun _ _ => .inl rfl
theorem dbgStClear : Statement (.dbgStClear) := fun _ _ => .inl rfl

end Laws.ItemWords

end Sys2Proof
end

