-- ==== Sys2Proof/Tests/Slice0.lean ====
section
/-! SUPPORT. The model's own tests: ill-formed terms that WellFormed refuses, the words of every encoding, single steps on small states,
and a witness for the hypotheses of every statement. -/

namespace Sys2Proof.Tests

open Sys2Proof Sys2Proof.Machine

set_option Elab.async false

/-! ## WellFormed -/

/-- A record with every field zero. -/
def rec0 : Rec :=
  { sat := false, round := 0, pen := false, pneg := false, pred := 0, nest := 0, hr := false, hl := false, pr := false, pl := false,
    ctl := 0, t0 := 0, t1 := 0, t2 := 0, t3 := 0, sD := ⟨0, 0, 0, 0, 0, 0⟩, sA := ⟨0, 0, 0, 0, 0, 0⟩, sB := ⟨0, 0, 0, 0, 0, 0⟩,
    sC := ⟨0, 0, 0, 0, 0, 0⟩, imm := 0 }

/-- FIFOs 6 and 7, queue 3 and `tinfo` words 5 to 7 do not exist (R192, R193, R209). -/
theorem test_wf_codes : Instr.wf (.tokp 6) = false ∧ Instr.wf (.tokw 7) = false ∧ Instr.wf (.qwait 1 3) = false ∧ Instr.wf (.qseq 1 3) = false
    ∧ Instr.wf (.tinfo 1 5) = false ∧ Instr.wf (.tokp 5) = true ∧ Instr.wf (.qwait 1 2) = true ∧ Instr.wf (.tinfo 1 4) = true := by decide

/-- Orderings 5 to 7 are unassigned (R132). -/
theorem test_wf_order : Instr.wf (.atomAdd 1 2 3 true 5 0 false) = false ∧ Instr.wf (.atomSub 1 2 3 true 5 0 false) = false
    ∧ Instr.wf (.atomAnd 1 2 3 true 6 0 false) = false ∧ Instr.wf (.atomOr 1 2 3 true 7 0 false) = false
    ∧ Instr.wf (.atomXor 1 2 3 true 5 0 false) = false ∧ Instr.wf (.atomMin 1 2 3 true 5 0 false) = false
    ∧ Instr.wf (.atomMax 1 2 3 true 5 0 false) = false ∧ Instr.wf (.atomMinn 1 2 3 true 5 0 false) = false := by decide
theorem test_wf_order_2 : Instr.wf (.atomMaxn 1 2 3 true 5 0 false) = false ∧ Instr.wf (.atomXchg 1 2 3 true 5 0 false) = false
    ∧ Instr.wf (.atomCas 1 2 3 4 5 0 false) = false ∧ Instr.wf (.atomFaddS 1 2 3 5 0 false) = false
    ∧ Instr.wf (.atomFaddD 1 2 3 5 0 false) = false ∧ Instr.wf (.atomFmaxS 1 2 3 5 0 false) = false
    ∧ Instr.wf (.atomFminS 1 2 3 5 0 false) = false ∧ Instr.wf (.atomCas 1 2 3 4 4 0 false) = true := by decide

/-- Rounding codes 6 and 7 (R104) and trips beyond the nest (R138). -/
theorem test_wf_record : Instr.wf (.mma { rec0 with round := 6 }) = false ∧ Instr.wf (.lTile { rec0 with t1 := 1 }) = false
    ∧ Instr.wf (.vAdd { rec0 with nest := 1, t2 := 1 }) = false ∧ Instr.wf (.sTile { rec0 with nest := 2, t3 := 1 }) = false
    ∧ Instr.wf (.sTile { rec0 with nest := 3, t1 := 1, t2 := 1, t3 := 1 }) = true := by decide

/-- What is not assigned is refused by name: majors, `fn` codes, reserved fields, record queues, operations, roundings and trips, prefix
kinds, and an item cut short (R122, R374–R376). -/
theorem test_refused : decode [0x000000FC#32] = .error ⟨.major, 0, 0x000000FC⟩ ∧ decode [0x18000000#32] = .error ⟨.fn, 0, 0x18000000⟩
    ∧ decode [0x00000100#32] = .error ⟨.field, 0, 0x00000100⟩ ∧ decode [0x00000041#32] = .error ⟨.kind, 0, 0x00000041⟩
    ∧ decode [0x00000002#32] = .error ⟨.truncated, 0, 0x00000002⟩ ∧ decode [] = .error ⟨.truncated, 0, 0⟩ := by decide

/-! ## Words written out from the encoding tables (R123–R140) -/

theorem test_decode_system :
    decode [0x00000000#32] = .ok (.nop, 1)
    ∧ decode [0x04000900#32] = .ok (.brk 9, 1)
    ∧ decode [0x08000000#32] = .ok (.tgt, 1)
    ∧ decode [0x0C000900#32] = .ok (.sysc 9, 1)
    ∧ decode [0x10000000#32] = .ok (.eret, 1)
    ∧ decode [0x14000000#32] = .ok (.yield, 1) := by decide

theorem test_decode_integer_1 :
    decode [0x03388904#32] = .ok (.add 9 0x22 0x33, 1)
    ∧ decode [0x07388904#32] = .ok (.sub 9 0x22 0x33, 1)
    ∧ decode [0x0B388904#32] = .ok (.mul 9 0x22 0x33, 1)
    ∧ decode [0x0F388904#32] = .ok (.mulh 9 0x22 0x33, 1)
    ∧ decode [0x13388904#32] = .ok (.mulhn 9 0x22 0x33, 1)
    ∧ decode [0x17388904#32] = .ok (.div 9 0x22 0x33, 1)
    ∧ decode [0x1B388904#32] = .ok (.divn 9 0x22 0x33, 1)
    ∧ decode [0x1F388904#32] = .ok (.rem 9 0x22 0x33, 1)
    ∧ decode [0x23388904#32] = .ok (.remn 9 0x22 0x33, 1)
    ∧ decode [0x27388904#32] = .ok (.and 9 0x22 0x33, 1)
    ∧ decode [0x2B388904#32] = .ok (.or 9 0x22 0x33, 1)
    ∧ decode [0x2F388904#32] = .ok (.xor 9 0x22 0x33, 1) := by decide

theorem test_decode_integer_2 :
    decode [0x33388904#32] = .ok (.andn 9 0x22 0x33, 1)
    ∧ decode [0x37388904#32] = .ok (.orn 9 0x22 0x33, 1)
    ∧ decode [0x3B388904#32] = .ok (.shl 9 0x22 0x33, 1)
    ∧ decode [0x3F388904#32] = .ok (.shr 9 0x22 0x33, 1)
    ∧ decode [0x43388904#32] = .ok (.sra 9 0x22 0x33, 1)
    ∧ decode [0x47388904#32] = .ok (.rol 9 0x22 0x33, 1)
    ∧ decode [0x4B388904#32] = .ok (.min 9 0x22 0x33, 1)
    ∧ decode [0x4F388904#32] = .ok (.max 9 0x22 0x33, 1)
    ∧ decode [0x53388904#32] = .ok (.minn 9 0x22 0x33, 1)
    ∧ decode [0x57388904#32] = .ok (.maxn 9 0x22 0x33, 1)
    ∧ decode [0x58088904#32] = .ok (.clz 9 0x22, 1)
    ∧ decode [0x5C088904#32] = .ok (.ctz 9 0x22, 1) := by decide

theorem test_decode_integer_3 :
    decode [0x60088904#32] = .ok (.pop 9 0x22, 1)
    ∧ decode [0x64088904#32] = .ok (.bswap 9 0x22, 1)
    ∧ decode [0x6B388904#32] = .ok (.adds 9 0x22 0x33, 1)
    ∧ decode [0x6F388904#32] = .ok (.subs 9 0x22 0x33, 1) := by decide

theorem test_decode_immediate :
    decode [0xABC88908#32] = .ok (.addi 9 0x22 0xABC, 1)
    ∧ decode [0xABC8890C#32] = .ok (.andi 9 0x22 0xABC, 1)
    ∧ decode [0xABC88910#32] = .ok (.ori 9 0x22 0xABC, 1)
    ∧ decode [0xABC88914#32] = .ok (.xori 9 0x22 0xABC, 1)
    ∧ decode [0x03388918#32] = .ok (.shli 9 0x22 0x33, 1)
    ∧ decode [0x07388918#32] = .ok (.shri 9 0x22 0x33, 1)
    ∧ decode [0x0B388918#32] = .ok (.srai 9 0x22 0x33, 1)
    ∧ decode [0x0F388918#32] = .ok (.roli 9 0x22 0x33, 1)
    ∧ decode [0xABC26A20#32] = .ok (.cmpi 5 2 9 0xABC, 1) := by decide

theorem test_decode_compare :
    decode [0x0222451C#32] = .ok (.cmpEq 5 9 0x22, 1)
    ∧ decode [0x0622451C#32] = .ok (.cmpNe 5 9 0x22, 1)
    ∧ decode [0x0A22451C#32] = .ok (.cmpLt 5 9 0x22, 1)
    ∧ decode [0x0E22451C#32] = .ok (.cmpLe 5 9 0x22, 1)
    ∧ decode [0x1222451C#32] = .ok (.cmpLtn 5 9 0x22, 1)
    ∧ decode [0x1622451C#32] = .ok (.cmpLen 5 9 0x22, 1) := by decide

theorem test_decode_predicate :
    decode [0x00608524#32] = .ok (.pand 5 2 6, 1)
    ∧ decode [0x04608524#32] = .ok (.por 5 2 6, 1)
    ∧ decode [0x08608524#32] = .ok (.pxor 5 2 6, 1)
    ∧ decode [0x0C608524#32] = .ok (.pandn 5 2 6, 1)
    ∧ decode [0x37388928#32] = .ok (.sel 9 0x22 0x33 5 true, 1) := by decide

theorem test_decode_float_d :
    decode [0x0338892C#32] = .ok (.faddD 9 0x22 0x33, 1)
    ∧ decode [0x0738892C#32] = .ok (.fsubD 9 0x22 0x33, 1)
    ∧ decode [0x0B38892C#32] = .ok (.fmulD 9 0x22 0x33, 1)
    ∧ decode [0x0F38892C#32] = .ok (.fdivD 9 0x22 0x33, 1)
    ∧ decode [0x1008892C#32] = .ok (.fsqrtD 9 0x22, 1)
    ∧ decode [0x1738892C#32] = .ok (.fminD 9 0x22 0x33, 1)
    ∧ decode [0x1B38892C#32] = .ok (.fmaxD 9 0x22 0x33, 1)
    ∧ decode [0x1F38892C#32] = .ok (.fmacD 9 0x22 0x33, 1)
    ∧ decode [0x2008892C#32] = .ok (.fabsD 9 0x22, 1)
    ∧ decode [0x2408892C#32] = .ok (.fnegD 9 0x22, 1) := by decide

theorem test_decode_float_s :
    decode [0x03388930#32] = .ok (.faddS 9 0x22 0x33, 1)
    ∧ decode [0x07388930#32] = .ok (.fsubS 9 0x22 0x33, 1)
    ∧ decode [0x0B388930#32] = .ok (.fmulS 9 0x22 0x33, 1)
    ∧ decode [0x0F388930#32] = .ok (.fdivS 9 0x22 0x33, 1)
    ∧ decode [0x10088930#32] = .ok (.fsqrtS 9 0x22, 1)
    ∧ decode [0x17388930#32] = .ok (.fminS 9 0x22 0x33, 1)
    ∧ decode [0x1B388930#32] = .ok (.fmaxS 9 0x22 0x33, 1)
    ∧ decode [0x1F388930#32] = .ok (.fmacS 9 0x22 0x33, 1)
    ∧ decode [0x20088930#32] = .ok (.fabsS 9 0x22, 1)
    ∧ decode [0x24088930#32] = .ok (.fnegS 9 0x22, 1) := by decide

theorem test_decode_float_compare :
    decode [0x02224534#32] = .ok (.fcmpEqS 5 9 0x22, 1)
    ∧ decode [0x06224534#32] = .ok (.fcmpLtS 5 9 0x22, 1)
    ∧ decode [0x0A224534#32] = .ok (.fcmpLeS 5 9 0x22, 1)
    ∧ decode [0x0E224534#32] = .ok (.fcmpUnS 5 9 0x22, 1)
    ∧ decode [0x12224534#32] = .ok (.fcmpEqD 5 9 0x22, 1)
    ∧ decode [0x16224534#32] = .ok (.fcmpLtD 5 9 0x22, 1)
    ∧ decode [0x1A224534#32] = .ok (.fcmpLeD 5 9 0x22, 1)
    ∧ decode [0x1E224534#32] = .ok (.fcmpUnD 5 9 0x22, 1) := by decide

theorem test_decode_convert :
    decode [0x00088938#32] = .ok (.cvtDI 9 0x22, 1)
    ∧ decode [0x04088938#32] = .ok (.cvtDN 9 0x22, 1)
    ∧ decode [0x08088938#32] = .ok (.cvtID 9 0x22, 1)
    ∧ decode [0x0C088938#32] = .ok (.cvtND 9 0x22, 1)
    ∧ decode [0x10088938#32] = .ok (.cvtSD 9 0x22, 1)
    ∧ decode [0x14088938#32] = .ok (.cvtDS 9 0x22, 1)
    ∧ decode [0x18088938#32] = .ok (.cvtSI 9 0x22, 1)
    ∧ decode [0x1C088938#32] = .ok (.cvtIS 9 0x22, 1)
    ∧ decode [0x20088938#32] = .ok (.cvtHS 9 0x22, 1)
    ∧ decode [0x24088938#32] = .ok (.cvtSH 9 0x22, 1)
    ∧ decode [0x28088938#32] = .ok (.cvtBfS 9 0x22, 1)
    ∧ decode [0x2C088938#32] = .ok (.cvtSBf 9 0x22, 1) := by decide

theorem test_decode_branch :
    decode [0xC0DE503C#32] = .ok (.bra 0xC0DE5, 1)
    ∧ decode [0xC0DE5D40#32] = .ok (.bp 5 true 0xC0DE5, 1)
    ∧ decode [0xC0DE5044#32] = .ok (.call 0xC0DE5, 1)
    ∧ decode [0x00024048#32] = .ok (.jr 9, 1)
    ∧ decode [0x04024048#32] = .ok (.callr 9, 1)
    ∧ decode [0x08000048#32] = .ok (.ret, 1) := by decide

theorem test_decode_load :
    decode [0xA588894C#32] = .ok (.ldB 9 0x22 true 0xA5, 1)
    ∧ decode [0xA598894C#32] = .ok (.ldBn 9 0x22 true 0xA5, 1)
    ∧ decode [0xA5A8894C#32] = .ok (.ldH 9 0x22 true 0xA5, 1)
    ∧ decode [0xA5B8894C#32] = .ok (.ldHn 9 0x22 true 0xA5, 1)
    ∧ decode [0xA5C8894C#32] = .ok (.ldW 9 0x22 true 0xA5, 1)
    ∧ decode [0xA5D8894C#32] = .ok (.ldWn 9 0x22 true 0xA5, 1)
    ∧ decode [0xA5E8894C#32] = .ok (.ldD 9 0x22 true 0xA5, 1) := by decide

theorem test_decode_store :
    decode [0xA5888950#32] = .ok (.stB 9 0x22 true 0xA5, 1)
    ∧ decode [0xA5988950#32] = .ok (.stH 9 0x22 true 0xA5, 1)
    ∧ decode [0xA5A88950#32] = .ok (.stW 9 0x22 true 0xA5, 1)
    ∧ decode [0xA5B88950#32] = .ok (.stD 9 0x22 true 0xA5, 1) := by decide

theorem test_decode_fence :
    decode [0x00200054#32] = .ok (.pub 2, 1)
    ∧ decode [0x04200054#32] = .ok (.ref 2, 1)
    ∧ decode [0x08200054#32] = .ok (.phase 2, 1)
    ∧ decode [0x0C000054#32] = .ok (.fenceSc, 1)
    ∧ decode [0x10000054#32] = .ok (.fenceIo, 1)
    ∧ decode [0x14000054#32] = .ok (.waitpv, 1)
    ∧ decode [0x18000054#32] = .ok (.sms, 1) := by decide

theorem test_decode_token :
    decode [0x00400058#32] = .ok (.tokp 4, 1)
    ∧ decode [0x04400058#32] = .ok (.tokw 4, 1)
    ∧ decode [0x08124058#32] = .ok (.qwait 9 1, 1)
    ∧ decode [0x0C100958#32] = .ok (.qseq 9 1, 1)
    ∧ decode [0x10000058#32] = .ok (.qdrain, 1) := by decide

theorem test_decode_ring :
    decode [0x0002C95C#32] = .ok (.racq 9 0xB, 1)
    ∧ decode [0x0492C05C#32] = .ok (.rrel 0xB 9, 1)
    ∧ decode [0x0802C95C#32] = .ok (.rwait 9 0xB, 1)
    ∧ decode [0x0C02C05C#32] = .ok (.rpop 0xB, 1)
    ∧ decode [0x1012C55C#32] = .ok (.rtest 5 0xB 1, 1)
    ∧ decode [0x1402C95C#32] = .ok (.rstat 9 0xB, 1) := by decide

theorem test_decode_barrier :
    decode [0x00088960#32] = .ok (.bara 9 0x22, 1)
    ∧ decode [0x04088960#32] = .ok (.barad 9 0x22, 1)
    ∧ decode [0x0A224060#32] = .ok (.barw 9 0x22, 1)
    ∧ decode [0x0E224560#32] = .ok (.bart 5 9 0x22, 1)
    ∧ decode [0x12224060#32] = .ok (.barx 9 0x22, 1)
    ∧ decode [0x14088960#32] = .ok (.barq 9 0x22, 1) := by decide

theorem test_decode_gang :
    decode [0x00088964#32] = .ok (.gjoin 9 0x22, 1)
    ∧ decode [0x04000064#32] = .ok (.gleave, 1)
    ∧ decode [0x08088964#32] = .ok (.gsize 9 0x22, 1)
    ∧ decode [0x0C000964#32] = .ok (.grank 9, 1) := by decide

theorem test_decode_tag :
    decode [0x03388968#32] = .ok (.tagal 9 0x22 0x33, 1)
    ∧ decode [0x04024068#32] = .ok (.tagfr 9, 1)
    ∧ decode [0x08088968#32] = .ok (.tagq 9 0x22, 1) := by decide

theorem test_decode_task :
    decode [0x0338896C#32] = .ok (.tsub 9 0x22 0x33, 1)
    ∧ decode [0x0400006C#32] = .ok (.tdone, 1)
    ∧ decode [0x0802406C#32] = .ok (.tdep 9, 1)
    ∧ decode [0x0C00006C#32] = .ok (.tstage, 1)
    ∧ decode [0x1030096C#32] = .ok (.tinfo 9 3, 1) := by decide

theorem test_decode_priority_queue :
    decode [0x03388970#32] = .ok (.pqins 9 0x22 0x33, 1)
    ∧ decode [0x06254970#32] = .ok (.pqpop 9 5 2 0x22, 1)
    ∧ decode [0x0A254970#32] = .ok (.pqpeek 9 5 2 0x22, 1)
    ∧ decode [0x0E224070#32] = .ok (.pqinv 9 0x22, 1)
    ∧ decode [0x10900070#32] = .ok (.pqclr 9, 1)
    ∧ decode [0x16200970#32] = .ok (.pqcnt 9 0x22, 1) := by decide

theorem test_decode_sysreg :
    decode [0xABC00974#32] = .ok (.mfs 9 0xABC, 1)
    ∧ decode [0xABC24078#32] = .ok (.mts 0xABC 9, 1) := by decide

theorem test_decode_random :
    decode [0x0000097C#32] = .ok (.rnd 9, 1)
    ∧ decode [0x0622407C#32] = .ok (.rndk 9 0x22, 1) := by decide

theorem test_decode_check :
    decode [0x00000980#32] = .ok (.chkerr 9, 1)
    ∧ decode [0x04000980#32] = .ok (.sigr 9, 1) := by decide

theorem test_decode_log :
    decode [0x00024084#32] = .ok (.logm 9, 1)
    ∧ decode [0x04100984#32] = .ok (.logq 9 1, 1) := by decide

theorem test_decode_accumulator :
    decode [0x00088988#32] = .ok (.accrd 9 0x22, 1)
    ∧ decode [0x04088988#32] = .ok (.accwr 9 0x22, 1) := by decide

theorem test_decode_raw :
    decode [0x0338898C#32] = .ok (.rpw 9 0x22 0x33, 1)
    ∧ decode [0x0738898C#32] = .ok (.rpr 9 0x22 0x33, 1)
    ∧ decode [0x0808898C#32] = .ok (.rpt 9 0x22, 1) := by decide

theorem test_decode_stream :
    decode [0x00018B90#32] = .ok (.smov 0xB 6, 1)
    ∧ decode [0x04024B90#32] = .ok (.sld 0xB 9, 1)
    ∧ decode [0x08024B90#32] = .ok (.sst 0xB 9, 1) := by decide

theorem test_decode_window :
    decode [0x03388994#32] = .ok (.rwopen 9 0x22 0x33, 1)
    ∧ decode [0x04024094#32] = .ok (.rwclose 9, 1) := by decide

theorem test_decode_long_1 :
    decode [0x00000902#32, 0x89ABCDEF#32] = .ok (.movi 9 0x89ABCDEF, 2)
    ∧ decode [0x00000906#32, 0x89ABCDEF#32] = .ok (.movhi 9 0x89ABCDEF, 2)
    ∧ decode [0x0008890A#32, 0x89ABCDEF#32] = .ok (.addwi 9 34 0x89ABCDEF, 2)
    ∧ decode [0x00089D0E#32, 0x89ABCDEF#32] = .ok (.cmpwi 3 5 34 0x89ABCDEF, 2)
    ∧ decode [0x00000D12#32, 0x89ABCDEF#32] = .ok (.braw 5 true 0x89ABCDEF, 2)
    ∧ decode [0x00000016#32, 0x89ABCDEF#32] = .ok (.callw, 2)
    ∧ decode [0x00000022#32, 0x89ABCDEF#32] = .ok (.plive, 2)
    ∧ decode [0x0008892E#32, 0x89ABCDEF#32] = .ok (.lea 9 34 0x89ABCDEF, 2)
    ∧ decode [0x00000032#32, 0x89ABCDEF#32] = .ok (.segb, 2)
    ∧ decode [0x00000036#32, 0x89ABCDEF#32] = .ok (.sege, 2)
    ∧ decode [0x00088926#32, 0x89ABCDEF#32] = .ok (.ldlB 9 34 0x89ABCDEF, 2)
    ∧ decode [0x04088926#32, 0x89ABCDEF#32] = .ok (.ldlBn 9 34 0x89ABCDEF, 2) := by decide

theorem test_decode_long_2 :
    decode [0x08088926#32, 0x89ABCDEF#32] = .ok (.ldlH 9 34 0x89ABCDEF, 2)
    ∧ decode [0x0C088926#32, 0x89ABCDEF#32] = .ok (.ldlHn 9 34 0x89ABCDEF, 2)
    ∧ decode [0x10088926#32, 0x89ABCDEF#32] = .ok (.ldlW 9 34 0x89ABCDEF, 2)
    ∧ decode [0x14088926#32, 0x89ABCDEF#32] = .ok (.ldlWn 9 34 0x89ABCDEF, 2)
    ∧ decode [0x18088926#32, 0x89ABCDEF#32] = .ok (.ldlD 9 34 0x89ABCDEF, 2)
    ∧ decode [0x0008892A#32, 0x89ABCDEF#32] = .ok (.stlB 9 34 0x89ABCDEF, 2)
    ∧ decode [0x0408892A#32, 0x89ABCDEF#32] = .ok (.stlH 9 34 0x89ABCDEF, 2)
    ∧ decode [0x0808892A#32, 0x89ABCDEF#32] = .ok (.stlW 9 34 0x89ABCDEF, 2)
    ∧ decode [0x0C08892A#32, 0x89ABCDEF#32] = .ok (.stlD 9 34 0x89ABCDEF, 2) := by decide

theorem test_decode_atomic_1 :
    decode [0x0738891A#32, 0x00000CC0#32] = .ok (.atomAdd 9 34 51 true 3 2 true, 2)
    ∧ decode [0x0738891A#32, 0x00000CC1#32] = .ok (.atomSub 9 34 51 true 3 2 true, 2)
    ∧ decode [0x0738891A#32, 0x00000CC2#32] = .ok (.atomAnd 9 34 51 true 3 2 true, 2)
    ∧ decode [0x0738891A#32, 0x00000CC3#32] = .ok (.atomOr 9 34 51 true 3 2 true, 2)
    ∧ decode [0x0738891A#32, 0x00000CC4#32] = .ok (.atomXor 9 34 51 true 3 2 true, 2)
    ∧ decode [0x0738891A#32, 0x00000CC5#32] = .ok (.atomMin 9 34 51 true 3 2 true, 2)
    ∧ decode [0x0738891A#32, 0x00000CC6#32] = .ok (.atomMax 9 34 51 true 3 2 true, 2)
    ∧ decode [0x0738891A#32, 0x00000CC7#32] = .ok (.atomMinn 9 34 51 true 3 2 true, 2)
    ∧ decode [0x0738891A#32, 0x00000CC8#32] = .ok (.atomMaxn 9 34 51 true 3 2 true, 2)
    ∧ decode [0x0738891A#32, 0x00000CC9#32] = .ok (.atomXchg 9 34 51 true 3 2 true, 2)
    ∧ decode [0x5B38891A#32, 0x00000CCA#32] = .ok (.atomCas 9 34 51 22 3 2 true, 2)
    ∧ decode [0x0338891A#32, 0x00000CCB#32] = .ok (.atomFaddS 9 34 51 3 2 true, 2) := by decide

theorem test_decode_atomic_2 :
    decode [0x0338891A#32, 0x00000CCC#32] = .ok (.atomFaddD 9 34 51 3 2 true, 2)
    ∧ decode [0x0338891A#32, 0x00000CCD#32] = .ok (.atomFmaxS 9 34 51 3 2 true, 2)
    ∧ decode [0x0338891A#32, 0x00000CCE#32] = .ok (.atomFminS 9 34 51 3 2 true, 2)
    ∧ decode [0x5B388B1E#32, 0x01848D00#32] = .ok (.sdef 11 34 51 22 0x1234 2 1, 2) := by decide

/-- Words 1 to 15 of a record with every field set, by R136 and R137. -/
def recTail : List Half :=
  [0xC0FFEE11, 0x03040102, 0x07080506, 0x11111237, 0x33332222, 0x45684444, 0x66665555, 0x88887777, 0x99997899, 0xBBBBAAAA, 0xABCACCCC, 0xEEEEDDDD, 0x0F0FFFFF, 0x55667788, 0x11223344]

/-- The fields of that record. -/
def recFields : Rec :=
  { sat := true, round := 4, pen := true, pneg := true, pred := 5, nest := 3, hr := true, hl := false, pr := true, pl := false,
    ctl := 0xC0FFEE11, t0 := 0x0102, t1 := 0x0304, t2 := 0x0506, t3 := 0x0708,
    sD := ⟨7, 0x123, 0x1111, 0x2222, 0x3333, 0x4444⟩,
    sA := ⟨8, 0x456, 0x5555, 0x6666, 0x7777, 0x8888⟩,
    sB := ⟨9, 0x789, 0x9999, 0xAAAA, 0xBBBB, 0xCCCC⟩,
    sC := ⟨10, 0xABC, 0xDDDD, 0xEEEE, 0xFFFF, 0xF0F⟩,
    imm := 0x1122334455667788 }


theorem test_decode_load_records :
    decode (0x0C77A003 :: recTail) = .ok (.lTile recFields, 16)
    ∧ decode (0x0C77A007 :: recTail) = .ok (.lGth recFields, 16)
    ∧ decode (0x0C77A00B :: recTail) = .ok (.lMc recFields, 16)
    ∧ decode (0x0C77A00F :: recTail) = .ok (.lSc recFields, 16)
    ∧ decode (0x0C77A013 :: recTail) = .ok (.lAcc recFields, 16)
    ∧ decode (0x0C77A017 :: recTail) = .ok (.lZero recFields, 16)
    ∧ decode (0x0C77A01B :: recTail) = .ok (.lPf recFields, 16)
    ∧ decode (0x0C77A01F :: recTail) = .ok (.lCv recFields, 16) := by decide

theorem test_decode_compute_records_1 :
    decode (0x0C77A403 :: recTail) = .ok (.mma recFields, 16)
    ∧ decode (0x0C77A407 :: recTail) = .ok (.mmaSp recFields, 16)
    ∧ decode (0x0C77A40B :: recTail) = .ok (.accZero recFields, 16)
    ∧ decode (0x0C77A40F :: recTail) = .ok (.accCopy recFields, 16)
    ∧ decode (0x0C77A443 :: recTail) = .ok (.vAdd recFields, 16)
    ∧ decode (0x0C77A447 :: recTail) = .ok (.vSub recFields, 16)
    ∧ decode (0x0C77A44B :: recTail) = .ok (.vMul recFields, 16)
    ∧ decode (0x0C77A44F :: recTail) = .ok (.vFma recFields, 16)
    ∧ decode (0x0C77A453 :: recTail) = .ok (.vMin recFields, 16)
    ∧ decode (0x0C77A457 :: recTail) = .ok (.vMax recFields, 16)
    ∧ decode (0x0C77A45B :: recTail) = .ok (.vAbs recFields, 16)
    ∧ decode (0x0C77A45F :: recTail) = .ok (.vNeg recFields, 16) := by decide

theorem test_decode_compute_records_2 :
    decode (0x0C77A463 :: recTail) = .ok (.vSel recFields, 16)
    ∧ decode (0x0C77A467 :: recTail) = .ok (.vCmp recFields, 16)
    ∧ decode (0x0C77A46B :: recTail) = .ok (.vCvt recFields, 16)
    ∧ decode (0x0C77A46F :: recTail) = .ok (.vMov recFields, 16)
    ∧ decode (0x0C77A473 :: recTail) = .ok (.vBcast recFields, 16)
    ∧ decode (0x0C77A477 :: recTail) = .ok (.vAnd recFields, 16)
    ∧ decode (0x0C77A47B :: recTail) = .ok (.vOr recFields, 16)
    ∧ decode (0x0C77A47F :: recTail) = .ok (.vXor recFields, 16)
    ∧ decode (0x0C77A483 :: recTail) = .ok (.vShl recFields, 16)
    ∧ decode (0x0C77A487 :: recTail) = .ok (.vShr recFields, 16)
    ∧ decode (0x0C77A48B :: recTail) = .ok (.vExp2 recFields, 16)
    ∧ decode (0x0C77A48F :: recTail) = .ok (.vLog2 recFields, 16) := by decide

theorem test_decode_compute_records_3 :
    decode (0x0C77A493 :: recTail) = .ok (.vRcp recFields, 16)
    ∧ decode (0x0C77A497 :: recTail) = .ok (.vRsqrt recFields, 16)
    ∧ decode (0x0C77A49B :: recTail) = .ok (.vTanh recFields, 16)
    ∧ decode (0x0C77A49F :: recTail) = .ok (.vClamp recFields, 16)
    ∧ decode (0x0C77A4C3 :: recTail) = .ok (.rSum recFields, 16)
    ∧ decode (0x0C77A4C7 :: recTail) = .ok (.rMax recFields, 16)
    ∧ decode (0x0C77A4CB :: recTail) = .ok (.rMin recFields, 16)
    ∧ decode (0x0C77A4CF :: recTail) = .ok (.rAmax recFields, 16)
    ∧ decode (0x0C77A4D3 :: recTail) = .ok (.rArgmax recFields, 16)
    ∧ decode (0x0C77A4D7 :: recTail) = .ok (.rTopk recFields, 16)
    ∧ decode (0x0C77A503 :: recTail) = .ok (.xTr recFields, 16)
    ∧ decode (0x0C77A507 :: recTail) = .ok (.xGth recFields, 16) := by decide

theorem test_decode_compute_records_4 :
    decode (0x0C77A543 :: recTail) = .ok (.sdfSmp recFields, 16)
    ∧ decode (0x0C77A547 :: recTail) = .ok (.sweep recFields, 16) := by decide

theorem test_decode_store_records :
    decode (0x0C77A803 :: recTail) = .ok (.sTile recFields, 16)
    ∧ decode (0x0C77A807 :: recTail) = .ok (.sQuant recFields, 16)
    ∧ decode (0x0C77A80B :: recTail) = .ok (.sScat recFields, 16)
    ∧ decode (0x0C77A80F :: recTail) = .ok (.sRed recFields, 16)
    ∧ decode (0x0C77A813 :: recTail) = .ok (.sMeet recFields, 16)
    ∧ decode (0x0C77A817 :: recTail) = .ok (.sCkpt recFields, 16)
    ∧ decode (0x0C77A81B :: recTail) = .ok (.sRing recFields, 16) := by decide

/-- A `mod` word by R126: pen [17], pneg [16], pred [15:13], ftz [12], sat [11], round [10:8]. -/
theorem test_decode_mod : decode [0x0003BD01#32] = .ok (.mod, 1) ∧ pfxOf 0x0003BD01 = ⟨true, true, 5, true, true, 5⟩ := by decide
/-! ## Single steps -/

/-- A strand in RUN on berth 0 at pc 0 with nothing but context 0 mapped: virtual addresses are physical ones. -/
def base : State := State.reset.withFetchWord 32 0

/-- The state after an instruction. -/
def after (i : Instr) (s : State) : State := match exec i s with
  | .next t => t
  | _ => s

/-- `base` with two registers set. -/
def with2 (a b : Word) : State := base.upd (fun B => (B.setG 2 a).setG 3 b)

/-- R168: `movi` sign-extends its immediate (the manual's own example in R142). -/
theorem test_movi : (after (.movi 20 0xA5A5A5A5) base).G 20 = 0xFFFFFFFFA5A5A5A5 := by decide
theorem test_movhi : (after (.movhi 2 0x12345678) (with2 0x9ABCDEF0 0)).G 2 = 0x123456789ABCDEF0 := by decide
/-- R151: `g0` discards a write. -/
theorem test_g0 : (after (.movi 0 5) base).G 0 = 0 := by decide
/-- R154: sums wrap, and R156 clamps them under `sat`. -/
theorem test_add_wraps : (after (.add 1 2 3) (with2 0x7FFFFFFFFFFFFFFF 1)).G 1 = 0x8000000000000000 := by decide
theorem test_add_sat :
    (after (.add 1 2 3) ((with2 0x7FFFFFFFFFFFFFFF 1).upd (fun B => { B with pfx := some ⟨false, false, 0, false, true, 0⟩ }))).G 1
      = 0x7FFFFFFFFFFFFFFF := by decide
theorem test_sub : (after (.sub 1 2 3) (with2 3 5)).G 1 = 0xFFFFFFFFFFFFFFFE := by decide
theorem test_mulh : (after (.mulh 1 2 3) (with2 0xFFFFFFFFFFFFFFFF 2)).G 1 = 0xFFFFFFFFFFFFFFFF := by decide
theorem test_mulhn : (after (.mulhn 1 2 3) (with2 0xFFFFFFFFFFFFFFFF 2)).G 1 = 1 := by decide
/-- R157: division by zero and the one overflow. -/
theorem test_div_zero : (after (.div 1 2 3) (with2 7 0)).G 1 = 0xFFFFFFFFFFFFFFFF ∧ (after (.rem 1 2 3) (with2 7 0)).G 1 = 7 := by decide
theorem test_div_overflow : (after (.div 1 2 3) (with2 0x8000000000000000 0xFFFFFFFFFFFFFFFF)).G 1 = 0x8000000000000000
    ∧ (after (.rem 1 2 3) (with2 0x8000000000000000 0xFFFFFFFFFFFFFFFF)).G 1 = 0 := by decide
/-- R154: shift amounts count modulo 64. -/
theorem test_shl : (after (.shl 1 2 3) (with2 1 65)).G 1 = 2 ∧ (after (.sra 1 2 3) (with2 0x8000000000000000 63)).G 1 = 0xFFFFFFFFFFFFFFFF := by
  decide
theorem test_counts : (after (.clz 1 2) (with2 0 0)).G 1 = 64 ∧ (after (.ctz 1 2) (with2 8 0)).G 1 = 3 ∧ (after (.pop 1 2) (with2 0xFF0 0)).G 1 = 8
    ∧ (after (.bswap 1 2) (with2 0x0102030405060708 0)).G 1 = 0x0807060504030201 := by decide
theorem test_lea : (after (.lea 1 2 0xFFFFFFFF) (with2 0xFFC0000000000000 0)).G 1 = 0xFFFFFFFFFFFFFFFF := by decide
theorem test_cmp : (after (.cmpLt 1 2 3) (with2 0xFFFFFFFFFFFFFFFF 1)).P 1 = true ∧ (after (.cmpLtn 1 2 3) (with2 0xFFFFFFFFFFFFFFFF 1)).P 1 = false := by
  decide
/-- R151: `p0` reads true. -/
theorem test_p0 : (after (.cmpEq 0 2 3) (with2 1 2)).P 0 = true := by decide
theorem test_sel : (after (.sel 1 2 3 0 true) (with2 7 9)).G 1 = 9 := by decide
/-- R161: 1.5 + 2.25 = 3.75; 1 / 0 is an infinity; 0 / 0 the canonical NaN (R162). -/
theorem test_fadd : (after (.faddD 1 2 3) (with2 0x3FF8000000000000 0x4002000000000000)).G 1 = 0x400E000000000000 := by decide +kernel
theorem test_fdiv : (after (.fdivD 1 2 3) (with2 0xBFF0000000000000 0)).G 1 = 0xFFF0000000000000
    ∧ (after (.fdivD 1 2 3) (with2 0 0)).G 1 = 0x7FF8000000000000 := by decide +kernel
/-- R164: an integer beyond 2^53 rounds to even. -/
theorem test_cvt : (after (.cvtDI 1 2) (with2 0x20000000000001 0)).G 1 = 0x4340000000000000 := by decide +kernel
theorem test_fmin : (after (.fminS 1 2 3) (with2 0x80000000 0)).G 1 = 0x80000000 := by decide +kernel
/-- R165, R167: targets count from the branch word, and `g63` takes the next address. -/
theorem test_bra : (after (.bra 0xFFFFF) base).me.pc = 0xFFFFFFFFFFFFFFFC ∧ (after (.bp 0 true 2) base).me.pc = 4 := by decide
theorem test_callw : (after .callw { base with ir := [0x16, 4] }).me.pc = 16 ∧ (after .callw { base with ir := [0x16, 4] }).G 63 = 8 := by decide
/-- R170: a load takes the bytes of its address and writes the register when it returns. -/
theorem test_load : (after .loadWriteback (after (.ldW 1 0 false 0) { base with mem := memPut base.mem 0 [0xFE, 0xFF, 0xFF, 0xFF] })).G 1
    = 0xFFFFFFFFFFFFFFFE := by decide +kernel
/-- R74: a store stays with the strand until a publish, and its own load sees it. -/
theorem test_store : (after (.stD 2 0 false 1) (with2 5 0)).mb 8 = 0 ∧ (after (.pub 2) (after (.stD 2 0 false 1) (with2 5 0))).mb 8 = 5 := by
  decide +kernel
/-- R171: a misaligned access traps; with no handler the context faults (R366, R372). -/
theorem test_misaligned : ((after (.ldD 1 2 false 0) (with2 4 0)).ctx 0).pnd = true ∧ (after (.ldD 1 2 false 0) (with2 4 0)).me.haltF = true := by
  decide +kernel
/-- R65, R69: the scratchpad ends at 4 MiB. -/
theorem test_scratch : (after .loadWriteback (after (.ldBn 1 2 true 0) (after (.stB 3 2 true 0) (with2 0x3FFFFF 0xAB)))).G 1 = 0xAB := by
  decide +kernel
/-- R178: the generator advances by four draws. -/
theorem test_rnd : (after (.rnd 1) base).me.rngc = 4 := by decide +kernel
theorem test_rndk : (after (.rndk 2 3) (with2 6 7)).me.rngk = 6 ∧ (after (.rndk 2 3) (with2 6 7)).me.rngc = 7 := by decide
/-- R177: a read-only register ignores a write; `preds` reads 1 in bit 0. -/
theorem test_mfs : (after (.mfs 1 3) base).G 1 = 1 ∧ (after (.mts 1 2) (with2 5 0)).me.ctx = 0 := by decide
/-- R193: append and sequence counts. -/
theorem test_qseq : (after (.qseq 1 0) (base.upd (fun B => { B with app := [3, 0, 0], qsn := [2, 0, 0] }))).G 1 = 0x0000000200000003 := by
  decide +kernel
/-- R192, R225: a pop of an empty FIFO waits. -/
theorem test_tokw : (after (.tokw 0) base).me.st = .wait ∧ (after .waitSatisfied (after (.tokp 0) base)).me.pc = 4 := by decide +kernel
/-- R204: the first member of a gang takes phase 0. -/
theorem test_gjoin : (after (.gjoin 1 2) (with2 3 0)).me.gang = some 3 ∧ ((after (.gjoin 1 2) (with2 3 0)).gang 0 3).members = [0] := by decide +kernel
/-- R265: an insertion answers the count. -/
theorem test_pqins : (after (.pqins 1 2 3) (with2 7 0)).G 1 = 1 := by decide +kernel
theorem test_tinfo : (after (.tinfo 1 0) base).G 1 = 0xFFFFFFFF := by decide +kernel
/-- R211: an atomic is performed at its home and answers the old value. -/
theorem test_atom : ((after .atomicPerform (after (.atomAdd 1 2 3 false 0 2 false) { with2 0x40 7 with mem := memPut base.mem 0x40 [9] })).mb 0x40) = 16
    ∧ ((after .atomicPerform (after (.atomAdd 1 2 3 false 0 2 false) { with2 0x40 7 with mem := memPut base.mem 0x40 [9] })).me.answer) = some 9 := by
  decide +kernel

/-- R222, R417: the check values that the two standards publish for the nine bytes "123456789". -/
theorem test_crcs : crc32c (leBytes 0x393837363534333231 9) = 0xE3069283 ∧ crc32 (leBytes 0x393837363534333231 9) = 0xCBF43926 := by decide +kernel
/-! ## Witnesses: for each statement, states and operands that meet its hypotheses, clause by clause -/

/-- With no prefix in force every instruction suits. -/
theorem suits_of_none (s : State) (i : Instr) (h : s.me.pfx = none) : s.suits i := fun p k => by rw [h] at k; cases k

theorem suits_base (i : Instr) : base.suits i := suits_of_none _ i (by decide)

/-- `base` with a `tgt` word at 0x4000. -/
def padded : State := { base with mem := memPut base.mem 0x4000 [0, 0, 0, 8] }

/-- `padded`, where context 0's handler is that word. -/
def handled : State := padded.updCtx 0 (fun c => { c with trap := 0x4001 })

/-- `handled` inside the handler. -/
def inside : State := handled.upd (fun B => { B with trap := { B.trap with tcause := 0x810, tpc := 8, tprd := 3 } })

/-- `handled` with two registers set. -/
def handled2 (a b : Word) : State := handled.upd (fun B => (B.setG 2 a).setG 3 b)

theorem witness_IntegerResults :
    (∃ i d v n, base.suits i ∧ intValue i base.pfx.sat base.G base.P = some (d, v, n)) ∧ (∃ i d v n, base.suits i ∧ intValue i true base.G base.P = some (d, v, n)) :=
  ⟨⟨.add 1 2 3, 1, _, 4, suits_base _, rfl⟩, ⟨.movi 0 5, 0, _, 8, suits_base _, rfl⟩⟩

theorem witness_PredicateResults :
    (∃ i d v n, base.suits i ∧ predValue i base.G base.P = some (d, v, n)) ∧ ∃ i d v, base.suits i ∧ floatCompare i base.pfx.ftz base.G = some (d, v) :=
  ⟨⟨.cmpEq 0 2 3, 0, _, 4, suits_base _, rfl⟩, ⟨.fcmpUnD 1 2 3, 1, _, suits_base _, rfl⟩⟩

theorem witness_FloatResults :
    ∃ i d v used, base.suits i ∧ floatValue i base.pfx base.G (draw16 base.me.rngk base.me.rngc) = some (d, v, used) :=
  ⟨.faddD 1 2 3, 1, _, _, suits_base _, rfl⟩

/-- A NaN operand, and 1 / 0. -/
theorem witness_FloatSpecials :
    (∃ i d f xs, (with2 0x7FF8000000000000 0).suits i ∧ floatOperands i (with2 0x7FF8000000000000 0).G = some (d, f, xs) ∧ d ≠ 0
      ∧ ∃ x ∈ xs, (f.dec (x.toNat % 2 ^ f.container)).isNan = true)
    ∧ (with2 0x3FF0000000000000 0).me.pfx = none ∧ (with2 0x3FF0000000000000 0).pfx.sat = false
    ∧ fopnd fp64 false ((with2 0x3FF0000000000000 0).G 2) = .fin false (2 ^ 52) (-52) 1
    ∧ fopnd fp64 false ((with2 0x3FF0000000000000 0).G 3) = .fin false 0 (-1074) 1
    ∧ (with2 0x3F800000 0).me.pfx = none ∧ fopnd fp32 false ((with2 0x3F800000 0).G 2) = .fin false (2 ^ 23) (-23) 1
    ∧ fopnd fp32 false ((with2 0x3F800000 0).G 3) = .fin false 0 (-149) 1
    ∧ (let u := (with2 0x3FF0000000000000 0).upd (fun B => { B with pfx := some ⟨false, false, 0, false, true, 0⟩ }); u.suits (.fdivD 1 2 3) ∧ u.pfx.sat = true) := by
  refine ⟨⟨.faddD 1 2 3, 1, fp64, _, suits_of_none _ _ (by decide), rfl, by decide, ?_⟩, by decide, by decide, by decide +kernel, by decide +kernel,
    by decide, by decide +kernel, by decide +kernel, ?_, by decide⟩
  swap
  · intro p hp; cases hp; decide
  exact ⟨_, List.mem_cons_self, by decide +kernel⟩

theorem witness_StrandUnits : ∃ s : State, s.me.pfx = none ∧ ∀ i, s.suits i := ⟨base, by decide, suits_base⟩

/-- A target that is misaligned, one that holds no landing pad, and one that is not mapped. -/
theorem witness_Branches_elsewhere :
    (handled2 0x4002 0).me.pfx = none ∧ (handled2 0x10 0).me.pfx = none ∧ (handled2 0x200000000 0).me.pfx = none ∧ (handled2 0x4002 0).trapGoes 0 0x4000 ∧ ((handled2 0x4002 0).G 2).toNat % 4 ≠ 0
    ∧ ((handled2 0x10 0).trapGoes 0 0x4000 ∧ ((handled2 0x10 0).G 2).toNat % 4 = 0 ∧ (handled2 0x10 0).fetchWord 0 0x10 = .ok 0)
    ∧ (handled2 0x200000000 0).fetchWord 0 0x200000000 = .error ⟨8, none, 0x200000000, 0, false⟩ := by
  simp only [State.trapGoes]; decide +kernel

theorem witness_Branches : (∀ i, padded.suits i) ∧ padded.padAt 0x4000 ∧ (padded.upd (fun B => B.setG 63 0x4000)).padAt ((padded.upd (fun B => B.setG 63 0x4000)).G 63) := by
  refine ⟨fun i => suits_of_none _ i (by decide), ?_, ?_⟩ <;> (unfold State.padAt; decide +kernel)

/-- `mod` words and an `add` after them. -/
def prefixed (w : Half) (w1 : Half) : State :=
  { handled with ir := [w], mem := memPut handled.mem 0 (leBytes w.toNat 4 ++ leBytes w1.toNat 4) }

theorem witness_PrefixUnit :
    ((prefixed 0x30001 0x04308104).fetchWord 0 4 = .ok 0x04308104 ∧ orphan 0x04308104 4 = false
      ∧ (prefixed 0x30001 0x04308104).fetchItem 0 4 = .ok [0x04308104] ∧ decode [0x04308104] = .ok (.sub 1 2 3, 1)
      ∧ (pfxOf 0x30001).pen = true ∧ (prefixed 0x30001 0x04308104).P (pfxOf 0x30001).pred = (pfxOf 0x30001).pneg)
    ∧ (¬ ((pfxOf 0x801).pen = true ∧ base.P 0 = (pfxOf 0x801).pneg) ∧ pfxMisuse (pfxOf 0x801) 0x04308104 = false)
    ∧ ((prefixed 0x801 0x08000000).me.pfx = none ∧ (prefixed 0x801 0x08000000).fetchWord 0 4 = .ok 0x08000000
      ∧ (prefixed 0x801 0x08000000).trapGoes 0 0x4000 ∧ orphan 0x08000000 4 = true)
    ∧ ((prefixed 0x101 0x04308104).fetchWord 0 4 = .ok 0x04308104 ∧ (prefixed 0x101 0x04308104).trapGoes 0 0x4000
      ∧ ¬ ((pfxOf 0x101).pen = true ∧ base.P 0 = (pfxOf 0x101).pneg) ∧ pfxMisuse (pfxOf 0x101) 0x04308104 = true) := by
  simp only [State.trapGoes]; decide +kernel

theorem witness_SystemCalls :
    handled.me.pfx = none ∧ handled.trapGoes handled.cur 0x4000 ∧ handled.armed handled.myCtx = false ∧ handled.trapGoes handled.cur 0x4000
    ∧ handled.untraced handled.myCtx
    ∧ ∃ s : State, s.me.pfx = none ∧ s.armed s.myCtx = true := by
  refine ⟨by decide, ?_, by decide, ?_, ?_, ⟨{ handled with features := 1 }.updCtx 0 (fun c => { c with dbgc := 1 }), by decide, by decide⟩⟩
  all_goals simp only [State.trapGoes, State.untraced]; decide +kernel

/-- A record of queue q in a given state. -/
def recAt (q : Nat) (st : RState) : QRec :=
  { q := q, opn := 0, r := rec0, addr := 0, word0 := 3, idx := 0, live := true, st := st, point := 0, toks := true,
    slots := List.replicate 4 ⟨0, 0, false, none⟩, ranges := [], draw0 := 0, draws := 0, key := 0, tid := threadOf 0 0 (q + 1), clk := [], wr := [], joins := [],
    pops := [], pushes := [], arrived := none, fcode := 0, faddr := 0, fval := 0, flane := 0, poisoned := false, skip := false, gval := [],
    front := [0, 0, 0], inSeg := false, pushed := 0, joinAtEnd := false, sent := 0, left := [] }

theorem witness_ReturnFromTrap :
    (inside.me.inHandler = true ∧ inside.me.trap.tact ≠ 2 ∧ inside.me.dbg.due = 0)
    ∧ (∃ s : State, s.me.inHandler = true ∧ s.me.trap.tact = 2 ∧ (s.ctx s.myCtx).pendFault = none ∧ bitN (s.ctx s.myCtx).flt.toNat 0 = false)
    ∧ handled.trapGoes handled.cur 0x4000
    ∧ (let s := inside.upd (fun B => { B with recs := [recAt 1 .faulted], trap := { B.trap with tact := 1, tcause := 0x9C2 } })
      s.me.inHandler = true ∧ s.me.trap.tact = 1) := by
  refine ⟨by decide, ⟨inside.upd (fun B => { B with trap := { B.trap with tact := 2 } }), by decide, by decide, by decide, by decide⟩, ?_, by decide, by decide⟩
  simp only [State.trapGoes]; decide +kernel

/-- `handled` with its pc elsewhere. -/
def handledAt (pc : Word) : State := handled.upd (fun B => { B with pc := pc })

theorem witness_TrapEntry :
    handled.trapGoes handled.cur 0x4000
    ∧ (let u : State := { handledAt 0x200000000 with cur := 0, ir := [] }; u.breakAt 0 = none ∧ u.fetchItem u.me.ctx u.me.pc = .error ⟨8, none, 0x200000000, 0, false⟩
      ∧ u.trapGoes 0 0x4000)
    ∧ (let u : State := { handledAt 0x200000002 with cur := 0, ir := [] }; u.me.pc.toNat % 4 ≠ 0
      ∧ u.fetchWord u.me.ctx u.me.pc = .error ⟨8, none, 0x200000002, 0, false⟩)
    ∧ (handled.walk 0 0x200000000 0x200000000 = .error ⟨8, none, 0x200000000, 0, false⟩ ∧ handled.walk 0 0x4000 0x4000 = .ok ⟨0x4000, 0x100000, 0x1F, 0⟩)
    ∧ ((inside.berth 0).inHandler = true) ∧ ((base.berth 0).inHandler = false ∧ bitN (base.ctx 0).trap.toNat 0 = false) := by
  simp only [State.trapGoes]; decide +kernel

/-- A store of the 8 bytes at 0x40 that berth 0's strand has not seen, after an older one. -/
def raced : State :=
  { base with hist := (List.range 8).map (fun i => (0x40 + i, [⟨77, 5, 6, 0, 0xBB⟩, ⟨0, 0, 0, 0, 0xAA⟩])) }

/-- A doubleword at 0x40 of memory, and at the last one of the scratchpad. -/
theorem witness_Loads :
    (loadForm (.ldD 1 2 false 0) = some (1, 2, 8, false, 8 * (0 : BitVec 8).toInt, false, 4) ∧ (∀ i, (with2 0x40 0).suits i)
      ∧ let u := (with2 0x40 0).writeback 0; u.access u.myCtx u.myLaunch.bndb (effPtr (u.G 2) 0) 8 .rd = .ok 0x40
        ∧ u.atomAt (effPtr (u.G 2) 0) 8 = false)
    ∧ (loadForm (.ldD 1 2 true 0) = some (1, 2, 8, false, 8 * (0 : BitVec 8).toInt, true, 4)
      ∧ let u := (with2 0x3FFFF8 0).writeback 0; (effPtr (u.G 2) 0).toNat % 8 = 0 ∧ (effPtr (u.G 2) 0).toNat < 0x400000
        ∧ u.unblocked 1 (effPtr (u.G 2) 0).toNat 8 false)
    ∧ (∃ (s : State) (o : LoadOut), (s.berth s.arg.b).outLoad = some o ∧ o.pz = false) ∧ (∃ (s : State) (o : LoadOut), (s.berth s.arg.b).outLoad = some o ∧ o.pz = true)
    ∧ AMap.find base.hist 0 = none ∧ Ver.known base.me.clk base.me.tid base.me.ctx ⟨0, 0, 0, 0, 0xAA⟩ = true
    ∧ (0x40 % 8 = 0 ∧ 77 ≠ raced.me.tid ∧ AMap.get 0 raced.me.clk 77 < 5
      ∧ ∀ i < 8, AMap.find raced.hist (0x40 + i) = some [⟨77, 5, 6, raced.me.ctx, 0xBB⟩, ⟨0, 0, 0, raced.me.ctx, 0xAA⟩]) := by
  refine ⟨⟨rfl, fun i => suits_of_none _ i (by decide), by decide +kernel⟩, ⟨rfl, ?_⟩,
    ⟨base.upd (fun B => { B with outLoad := some ⟨1, 5, false⟩ }), _, rfl, rfl⟩, ⟨base.upd (fun B => { B with outLoad := some ⟨1, 5, true⟩ }), _, rfl, rfl⟩,
    by decide, by decide, by decide +kernel⟩
  simp only [State.unblocked]; decide +kernel

theorem witness_StoresDone :
    (storeForm (.stD 3 2 false 0) = some (3, 2, 8, 8 * (0 : BitVec 8).toInt, false, 4)
      ∧ let u := (with2 0x40 7).writeback 0; u.access u.myCtx u.myLaunch.bndb (effPtr (u.G 2) 0) 8 .wr = .ok 0x40
        ∧ u.atomAt (effPtr (u.G 2) 0) 8 = false ∧ ∀ k < 8, AMap.find u.hist (0x40 + k) = none)
    ∧ (storeForm (.stD 3 2 true 0) = some (3, 2, 8, 8 * (0 : BitVec 8).toInt, true, 4)
      ∧ let u := (with2 0x3FFFF8 7).writeback 0; (effPtr (u.G 2) 0).toNat % 8 = 0 ∧ (effPtr (u.G 2) 0).toNat < 0x400000
        ∧ u.unblocked 1 (effPtr (u.G 2) 0).toNat 8 true) := by
  refine ⟨⟨by decide, by decide +kernel⟩, ⟨by decide, ?_⟩⟩
  simp only [State.unblocked]; decide +kernel

theorem witness_AddressTraps :
    (memForm (.ldD 1 2 false 0) = some (2, 8, 8 * (0 : BitVec 8).toInt, false)
      ∧ let u := (handled2 4 0).writeback 0; (effPtr (u.G 2) 0).toNat % 8 ≠ 0 ∧ u.trapGoes u.cur 0x4000)
    ∧ (memForm (.ldD 1 2 true 0) = some (2, 8, 8 * (0 : BitVec 8).toInt, true)
      ∧ let u := (handled2 0x400000 0).writeback 0; (effPtr (u.G 2) 0).toNat % 8 = 0 ∧ 0x400000 ≤ (effPtr (u.G 2) 0).toNat ∧ u.trapGoes u.cur 0x4000)
    ∧ (let u := (handled2 0x4000000000000 0).writeback 0; (effPtr (u.G 2) 0).toNat % 8 = 0 ∧ fld (effPtr (u.G 2) 0).toNat 50 4 ≠ 0 ∧ u.trapGoes u.cur 0x4000)
    ∧ (let u := (handled2 0x200000000 0).writeback 0; u.access u.myCtx u.myLaunch.bndb 0x200000000 8 .rd = .error ⟨8, none, 0x200000000, 0, false⟩
      ∧ u.trapGoes u.cur 0x4000)
    ∧ (let u := ((handled2 8 0).updStack 0 (fun k => { k with power := false })).writeback 0; u.access u.myCtx u.myLaunch.bndb 8 8 .rd = .error (MFault.silent 8))
    ∧ (let u := ((handled2 8 0).setPoison 0x100000 8).writeback 0; u.access u.myCtx u.myLaunch.bndb 8 8 .wr = .error ⟨12, some 8, 8, 0, true⟩
      ∧ (u.ctx u.myCtx).pendFault = none ∧ u.me.inHandler = false) := by
  simp only [State.trapGoes]; decide +kernel

/-- `base` whose first page-table entry is e. -/
def withRoot (e : Nat) : State := { base with mem := memPut base.mem 0x100000 (leBytes e 8) }

/-- The walk meets an invalid, a malformed, a table, a fenced, a quarantined and a good entry; an access fails at each check. -/
theorem witness_AddressTraps_walk :
    entryAt 0x100000 0 8 = 0x100000 ∧ base.paDead 0x100000 = false ∧ base.poisoned 0x100000 8 = false
    ∧ bitN (memNat (withRoot 2).mem 0x100000 8) 0 = false ∧ (withRoot 0x83).malformed 0x83 0 0
    ∧ ¬ (withRoot 0x200001).malformed 0x200001 0x200000 0 ∧ bitN 0x200001 1 = false
    ∧ (base.updStack 1 (fun k => { k with fenced := true })).paFenced (2 ^ 43) = true
    ∧ ({ base with qlist := [(0, 2 ^ 63)] } : State).quarantined 8 = true ∧ base.quarantined 8 = false ∧ base.paFenced 0 = false
    ∧ ¬ base.malformed 0x1F 0 0 ∧ granted .rd 0x1F (2 ^ 63) ∧ ¬ granted .wr 0x17 (2 ^ 62)
    ∧ base.xlate 0 0x4010 0 .rd = .ok ⟨0x4010, 0x100000, 0x1F, 0⟩ ∧ base.xlate 0 0x200000000 0 .rd = .error ⟨8, none, 0, 0, false⟩ := by
  simp only [State.malformed, granted, entryAt]; decide +kernel

theorem witness_StreamAndAccumulator :
    let u := (with2 0x3FFFE0 0).writeback 0; let v := (with2 0x7FFFF8 0).writeback 0
    ((u.G 2).toNat % 32 = 0 ∧ (u.G 2).toNat < 0x400000 ∧ u.unblocked 1 (u.G 2).toNat 32 false ∧ u.unblocked 1 (u.G 2).toNat 32 true)
    ∧ ((v.G 2).toNat % 8 = 0 ∧ (v.G 2).toNat < 0x800000 ∧ v.unblocked 2 (v.G 2).toNat 8 false ∧ v.unblocked 2 (v.G 2).toNat 8 true) := by
  simp only [State.unblocked]; decide +kernel

/-- A host store to publish, with the host's port on a stack that is silent. -/
def silentHost : State := (base.updStack 0 (fun k => { k with power := false })).upd (fun B => { B with pend := [(2 ^ 45, 1)] })

theorem witness_Fences :
    (let u := base.writeback 0; u.flushed 0 ∧ u.flushed 2 ∧ u.flushed 3 ∧ u.hostAnswers u.cur = true ∧ u.rawBusy u.cur = false)
    ∧ ((silentHost.writeback 0).hostAnswers 0 = false)
    ∧ ∃ s : State, (s.writeback s.cur).me.obuf ≠ [] := by
  refine ⟨?_, by decide +kernel,
    base.upd (fun B => { B with obuf := [⟨0, 0, false, 1, 0x40, 0, false, none, 8, 0, []⟩] }), by decide⟩
  simp only [State.flushed]; decide +kernel

/-- A FIFO of n tokens. -/
def withTokens (n : Nat) : State :=
  base.upd (fun B => { B with fifos := (List.range 6).map (fun _ => ⟨n, 0, (List.range n).map (fun i => (i, Tok.empty)), []⟩) })

theorem witness_TokenFifos :
    (let u := (withTokens 14).writeback 0; u.me.inHandler = false ∧ 5 < u.me.fifos.length ∧ (u.me.fifo 5).count < 15 ∧ u.flushed 0)
    ∧ 15 ≤ (((withTokens 15).writeback 0).me.fifo 5).count
    ∧ ((withTokens 1).writeback 0).me.tokwTakes ((withTokens 1).writeback 0).myLaunch.det 5 = some (0, Tok.empty)
    ∧ ((withTokens 0).writeback 0).me.tokwTakes ((withTokens 0).writeback 0).myLaunch.det 5 = none := by
  simp only [State.flushed]; decide +kernel

def withRec (q : Nat) (st : RState) : State := base.upd (fun B => { B with recs := [recAt q st] })

theorem witness_QueueWaits :
    (let u := (with2 0 0).writeback 0; u.me.inHandler = false ∧ (u.me.qsn.getD 2 0 - BitVec.ofNat 32 ((u.G 2).toNat % 2 ^ 32)).toNat < 2 ^ 31)
    ∧ (let u := (with2 1 0).writeback 0; ¬ (u.me.qsn.getD 2 0 - BitVec.ofNat 32 ((u.G 2).toNat % 2 ^ 32)).toNat < 2 ^ 31)
    ∧ (let u := (withRec 2 .retired).writeback 0; u.me.inHandler = false ∧ ∀ r ∈ u.me.recs, r.st = .retired ∧ r.q < 3 ∧ upTo r.idx (u.me.app.getD r.q 0).toNat = true)
    ∧ ∃ r ∈ ((withRec 2 .started).writeback 0).me.recs, r.st ≠ .retired := by decide +kernel


/-- Core 0 with ring 0 enabled: four slots of 64 bytes at 0, named by `q0`. -/
def ringOf (f : Ring → Ring) : State :=
  (base.updCore 0 (fun c => { c with rings := [(0, f { Ring.zero with desc := 0x8000000300000000 })] })).upd (fun B => { B with q := [(0, 0x8000)] })

/-- Empty, with one slot claimed, with its head full, and full, with `g3` in the claimed slot. -/
def ringClaimed : State := ringOf (fun r => { r with tail := 1, claimed := 1, owner := [(0, 0)] })
def ringHead : State := ringOf (fun r => { r with tail := 1, full := [(0, true)] })
def ringFull : State := ringOf (fun r => { r with claimed := 4 })

theorem witness_RingInstructions :
    (let u := (ringOf id).writeback 0; ∃ n r, u.myRing (u.me.getQ 0) = some (n, r) ∧ u.myLaunch.det = false ∧ r.used + u.asksAhead 0 n (ringPlace u.cur 0) < ringN r.desc ∧ r.isFull r.head = false)
    ∧ (let u := ringClaimed.writeback 0; ∃ n r, u.myRing (u.me.getQ 0) = some (n, r) ∧ u.myLaunch.det = false ∧ r.claimedSlot (u.G 3).toNat u.cur = some 0 ∧ u.flushed 0)
    ∧ (let u := ringHead.writeback 0; ∃ n r, u.myRing (u.me.getQ 0) = some (n, r) ∧ u.myLaunch.det = false ∧ r.isFull r.head = true ∧ u.flushed 0)
    ∧ (let u := ringFull.writeback 0; ∃ n r, u.myRing (u.me.getQ 0) = some (n, r) ∧ u.myLaunch.det = false ∧ ringN r.desc ≤ r.used + u.asksAhead 0 n (ringPlace u.cur 0)) := by
  simp only [State.flushed]
  exact ⟨⟨0, _, rfl, by decide, by decide, by decide⟩, ⟨0, _, rfl, by decide, by decide, by decide⟩, ⟨0, _, rfl, by decide, by decide, by decide⟩,
    ⟨0, _, rfl, by decide, by decide⟩⟩

/-- A disabled ring; an empty head and an unclaimed slot; a strand in its handler. -/
theorem witness_IllegalUses :
    (handled.trapGoes handled.cur 0x4000 ∧ handled.myRing (handled.me.getQ 0) = none)
    ∧ (let u : State := { handled with cores := (ringOf id).cores }.upd (fun B => { B with q := [(0, 0x8000)] })
       u.trapGoes u.cur 0x4000 ∧ ∃ n r, u.myRing (u.me.getQ 0) = some (n, r) ∧ r.isFull r.head = false ∧ r.claimedSlot (u.G 3).toNat u.cur = none)
    ∧ (inside.writeback inside.cur).me.inHandler = true ∧ inside.me.inHandler = true ∧ inside.armed inside.myCtx = false := by
  simp only [State.trapGoes]
  exact ⟨by decide +kernel, ⟨by decide +kernel, 0, _, rfl, by decide, by decide⟩, by decide, by decide, by decide⟩

/-- Gang 3 of context 0 with the given barrier and members; `g2` names it, `g4` the last core barrier. -/
def gangOf (v : Bar) (ms : List Nat) (mine : Bool) : State :=
  (base.updCtx 0 (fun c => { c with gangs := [(3, ⟨v, ms⟩)] })).upd (fun B => { (B.setG 2 3).setG 4 0x10F with gang := if mine then some 3 else none })

theorem witness_BarrierArrivals :
    (let u := (gangOf { Bar.zero with e := 2 } [0, 2] true).writeback 0; let v := u.bar u.myCtx (.gang 3)
      u.names 2 (.gang 3) ∧ v.ready = false ∧ u.mayArrive u.cur (.gang 3) = true ∧ u.flushed 2 ∧ (BarId.gang 3).scope = 2 ∧ u.myLaunch.det = false
        ∧ ∃ b ∈ (u.gang u.myCtx 3).members, b ≠ u.cur)
    ∧ (let u := (gangOf { Bar.zero with e := 1 } [0] true).writeback 0; let v := u.bar u.myCtx (.gang 3)
      u.names 2 (.gang 3) ∧ v.ready = false ∧ u.mayArrive u.cur (.gang 3) = true ∧ ∀ b ∈ (u.gang u.myCtx 3).members, b = u.cur)
    ∧ (let u := (gangOf Bar.zero [] false).writeback 0; u.names 4 (.core 0 15) ∧ (u.bar u.myCtx (.core 0 15)).ready = false
        ∧ u.mayArrive u.cur (.core 0 15) = true ∧ u.flushed (BarId.core 0 15).scope) := by
  simp only [State.names, State.flushed]; decide +kernel

theorem witness_BarrierWaits :
    (let u := (gangOf { Bar.zero with phase := 5 } [0, 2] true).upd (fun B => B.setG 3 5); let v := u.bar u.myCtx (.gang 3)
      u.names 2 (.gang 3) ∧ (BitVec.ofNat 32 v.phase - (u.G 3).truncate 32).toNat = 0 ∧ u.myLaunch.det = false)
    ∧ (let u := (gangOf { Bar.zero with phase := 0 } [0, 2] true).upd (fun B => B.setG 3 0xFFFFFFFF); let v := u.bar u.myCtx (.gang 3)
      u.names 2 (.gang 3) ∧ 0 < (BitVec.ofNat 32 v.phase - (u.G 3).truncate 32).toNat
        ∧ (BitVec.ofNat 32 v.phase - (u.G 3).truncate 32).toNat < 2 ^ 31 ∧ v.errSeen (u.G 3) = false)
    ∧ (let u := { gangOf { Bar.zero with phase := 6, ev := true, ecode := 0xE0, ephase := 5 } [0, 2] true with mem := handled.mem }
        |>.upd (fun B => B.setG 3 5) |>.updCtx 0 (fun c => { c with trap := 0x4001 })
       let v := u.bar u.myCtx (.gang 3)
       u.names 2 (.gang 3) ∧ 0 < (BitVec.ofNat 32 v.phase - (u.G 3).truncate 32).toNat
        ∧ (BitVec.ofNat 32 v.phase - (u.G 3).truncate 32).toNat < 2 ^ 31 ∧ v.errSeen (u.G 3) = true ∧ u.me.inHandler = false ∧ u.untraced u.myCtx
        ∧ u.handler u.myCtx = some 0x4000)
    ∧ (let u := (gangOf { Bar.zero with phase := 6, ev := true, ecode := 0xE0, ephase := 5 } [0, 2] true).upd (fun B => B.setG 3 5); let v := u.bar u.myCtx (.gang 3)
       u.names 2 (.gang 3) ∧ 0 < (BitVec.ofNat 32 v.phase - (u.G 3).truncate 32).toNat
        ∧ (BitVec.ofNat 32 v.phase - (u.G 3).truncate 32).toNat < 2 ^ 31 ∧ v.errSeen (u.G 3) = true ∧ u.handler u.myCtx = none ∧ u.myLaunch.det = false) := by
  simp only [State.names, State.untraced]; decide +kernel

/-- A running launch of context 0 with one stage of sixteen records at 0x10000, one copy entry at 0x8000, on stack 0. -/
def launch1 : Launch :=
  { Launch.none with rcd := 2 ^ 64 + 2 ^ 68 * 3 + 2 ^ 72 + 2 ^ 384 * 0x8000 + 2 ^ 448 * 1 + 2 ^ 512 * 0x20000 + 2 ^ 1024 * (2 ^ 72 * 128 + 2 ^ 84 * 4 + 2 ^ 128 * 0x10000), st := .running, stks := 1 }

def running (f : Launch → Launch) : State := base.updCtx 0 (fun c => { c with launches := [f launch1] })

theorem witness_BarrierSetup :
    (let s := (gangOf Bar.zero [0] true); s.names 2 (.gang 3) ∧ s.myLaunch.det = false)
    ∧ (let s := (running id).upd (fun B => B.setG 2 0x100); let y := (s.G 3).toNat
       s.names 2 (.core 0 0) ∧ fld y 62 2 = 0 ∧ fld y 12 50 = 0 ∧ y % 2 ^ 12 < s.myLaunch.ncpy ∧ (s.myLaunch.copy (y % 2 ^ 12)).done = false
        ∧ (s.myLaunch.copy (y % 2 ^ 12)).bound = none ∧ s.myLaunch.resident = true)
    ∧ (let s := (gangOf Bar.zero [0] true).upd (fun B => B.setG 3 0x400000000000FFFF); let y := (s.G 3).toNat
       s.names 2 (.gang 3) ∧ fld y 62 2 = 1 ∧ fld y 16 46 = 0 ∧ s.gangExists s.myCtx 3 = true)
    ∧ (let s := base.upd (fun B => (B.setG 2 0x10F).setG 3 0x8000000000000004); let y := (s.G 3).toNat; let v := s.bar s.myCtx (.core 0 15)
       s.names 2 (.core 0 15) ∧ fld y 62 2 = 2 ∧ fld y 16 46 = 0 ∧ v.a = 0 ∧ v.x = 0) := by
  simp only [State.names]; decide +kernel

theorem witness_GangMembership :
    (∃ s : State, s.myLaunch.det = false ∧ fld (s.G 2).toNat 8 56 = 0 ∧ s.me.gang = none ∧ (s.gang s.myCtx (s.G 2).toNat).bar.a = 0)
    ∧ (∃ s : State, s.myLaunch.det = false ∧ fld (s.G 2).toNat 8 56 = 0 ∧ s.me.gang = none ∧ (s.gang s.myCtx (s.G 2).toNat).bar.a ≠ 0)
    ∧ (let s := (gangOf { Bar.zero with e := 2, a := 1 } [2, 0] true).upd (fun B => { B with arrivedPh := some 0 })
       s.me.gang = some 3 ∧ s.me.arrivedPh.isSome = true ∧ (s.gang 0 3).members.filter (· != s.cur) ≠ [])
    ∧ (let s := gangOf { Bar.zero with e := 1 } [0] true; s.me.gang = some 3 ∧ (s.gang 0 3).members.filter (· != s.cur) = [])
    ∧ (let s := gangOf { Bar.zero with e := 2 } [2, 0] true; s.me.arrivedPh = none ∧ ({ (s.gang 0 3).bar with e := (s.gang 0 3).bar.e - 1 } : Bar).ready = false)
    ∧ (let s := (gangOf { Bar.zero with e := 2, a := 1 } [2, 0] true).setBerth 2 { Berth.zero with st := .wait }; let v := (s.gang 0 3).bar
       s.me.arrivedPh = none ∧ ({ v with e := v.e - 1 } : Bar).ready = true ∧ v.err = none ∧ s.cont = false
        ∧ ∀ b ∈ (s.gang 0 3).members.filter (· != s.cur), let B := s.berth b
            B.ctx = s.myCtx ∧ B.st ≠ .free ∧ B.st ≠ .save ∧ B.st ≠ .restore ∧ B.st ≠ .place)
    ∧ (let s := gangOf { Bar.zero with e := 2 } [2, 0] true; (s.gang s.myCtx 3).members = [2] ++ s.cur :: [] ∧ s.cur ∉ [2]) := by
  refine ⟨⟨gangOf Bar.zero [] false, by decide +kernel⟩, ⟨gangOf { Bar.zero with e := 1, a := 1 } [2] false, by decide +kernel⟩, ?_⟩
  decide +kernel

/-- A list of pairs whose values are all v answers v for each of its keys. -/
theorem get_const {α : Type} (d v : α) : ∀ (ks : List Nat) (k : Nat), k ∈ ks → AMap.get d (ks.map (fun i => (i, v))) k = v
  | [], _, h => by cases h
  | j :: ks, k, h => by
    by_cases e : j = k
    · simp [AMap.get, e]
    · have : k ∈ ks := by
        cases h with
        | head => exact absurd rfl e
        | tail _ h => exact h
      simpa [AMap.get, e] using get_const d v ks k this

/-- A computation whose outcome is a value. -/
theorem ok_of {ε α : Type} {x : Except ε α} (h : x.toOption.isSome = true) : ∃ u, x = .ok u := by
  cases x with
  | ok u => exact ⟨u, rfl⟩
  | error e => cases h

/-- `base` with the given tags in context 0, `g2` a destination or a tag, `g3` a control word: concatenation of one granule. -/
def tagged (ts : AMap Tag) (a : Word) : State := (with2 a 0x100000003).updCtx 0 (fun c => { c with tags := ts })

/-- One of 4096 registered tags. -/
def regTag : Tag := { Tag.zero with alloc := true, ctl := 0x100000003, dest := 64 }

theorem tagged_tag (ts : AMap Tag) (a : Word) (i : Nat) :
    ((tagged ts a).writeback 0).tag ((tagged ts a).writeback 0).myCtx i = AMap.get Tag.zero ts i := rfl

/-- A free tag; none free; a registered one with nothing and with a result on its way; the last tag. -/
theorem witness_MeetTags :
    (let u := (tagged [(0, regTag)] 0x3FFFFFFFFFF80).writeback 0; let p := u.G 2; let v := (u.G 3).toNat
      u.myLaunch.det = false ∧ ctlOk v = true ∧ bitN v 2 = false ∧ p.toNat % 64 = 0
        ∧ u.rangeCheck u.myCtx u.myLaunch.bndb p ((v / 2 ^ 32 % 2 ^ 8) * 64 * (if v % 4 = 3 then 2 else 1)) .wr = .ok ()
        ∧ (u.tag u.myCtx 1).alloc = false ∧ ∀ j < 1, (u.tag u.myCtx j).alloc = true)
    ∧ (let u := (tagged ((List.range 4096).map (fun i => (i, regTag))) 0x40).writeback 0; ∀ i < 4096, (u.tag u.myCtx i).alloc = true)
    ∧ (let u := (tagged [(4095, regTag)] 4095).writeback 0
      (u.G 2).toNat < 4096 ∧ (u.tag u.myCtx (u.G 2).toNat).alloc = true
        ∧ (∀ o ∈ u.mouts, ¬ (o.ctx = u.myCtx ∧ o.tag = 4095 ∧ o.orphan = false)) ∧ ∀ k, ∀ x ∈ u.heldAt k, x.1 = u.myCtx ∧ x.2.1 = 4095)
    ∧ (let s := { tagged [(0, regTag)] 0 with mouts := [⟨0, 0, [], false, false, 0, 0, 0⟩] }
      ∃ o ∈ s.mouts, o.ctx = s.myCtx ∧ o.tag = 0 ∧ o.orphan = false) := by
  refine ⟨by decide +kernel, ?_, ⟨by decide +kernel, by decide +kernel, by decide +kernel, fun k x h => ?_⟩, by decide +kernel⟩
  swap
  · have e : ((tagged [(4095, regTag)] 4095).writeback 0).heldAt k = [] := rfl
    rw [show State.heldAt _ k = [] from e] at h; cases h
  intro u i h
  exact (congrArg Tag.alloc ((tagged_tag _ _ _).trans (get_const _ _ _ _ (List.mem_range.2 h)))).trans rfl

/-- A request of berth 0 at its queue's owner. -/
def request (waits : Bool) (held : Option Nat) : TsubReq := ⟨0, 0, 0, 0, List.replicate 64 1, false, 0, waits, held, 0⟩

/-- `request` at stage 0 with the given queue. -/
def submitting (r : TsubReq) (q : StageQ) : State := { running (fun l => { l with stages := [(0, q)] }) with tsubs := [r] }

/-- An image at the last place of the scratchpad; an answer; a request at a queue with one slot left, at a full one, and in the slot it has reserved. -/
theorem witness_TaskSubmission :
    (let u := ((running id).upd (fun B => B.setG 2 0x3FFFC0)).writeback 0; let x := (u.G 2).toNat; let i := (u.G 3).toNat
      u.me.answer = none ∧ x % 64 = 0 ∧ x < 0x400000 ∧ i < 8 ∧ i < u.myLaunch.nst ∧ u.unblocked 1 x 64 false ∧ u.flushed 2 ∧ u.myCore.spPoison x 64 = false)
    ∧ (∃ (s : State) (h : Word), (s.writeback s.cur).me.answer = some h)
    ∧ (let r := request false none; let s := submitting r { StageQ.zero with head := 1, tail := 16 }; let l := s.launch 0 0; let q := l.stage 0
       s.tsubs.find? (fun x => x.berth == s.arg.b) = some r ∧ s.controlAhead 0 q.owner r.iss = false ∧ (∀ x ∈ s.tsubs.filter (fun x => x.berth != 0), x.waits = false)
        ∧ q.tail - q.head < l.cap 0 ∧ l.resident = true ∧ (s.launchOf 0).det = false
        ∧ s.access 0 l.bndb (BitVec.ofNat 64 (l.qbase 0 + 64 * (q.tail % l.cap 0))) 64 .wr = .ok 0x10000)
    ∧ (∀ w, let r := request w none; let s := submitting r { StageQ.zero with tail := 16 }; let l := s.launch 0 0; let q := l.stage 0
       s.tsubs.find? (fun x => x.berth == s.arg.b) = some r ∧ s.controlAhead 0 q.owner r.iss = false ∧ l.cap 0 ≤ q.tail - q.head)
    ∧ (let r := request false (some 15); let s := submitting r { StageQ.zero with tail := 16 }; let l := s.launch 0 0
       s.tsubs.find? (fun x => x.berth == s.arg.b) = some r ∧ l.resident = true
        ∧ s.access 0 l.bndb (BitVec.ofNat 64 (l.qbase 0 + 64 * (15 % l.cap 0))) 64 .wr = .ok 0x103C0
        ∧ (∀ k < 64, s.paDead (0x103C0 + k) = false ∧ s.paFenced (0x103C0 + k) = false) ∧ (s.berth 0).pend = [] ∧ r.img.length = 64 ∧ r.pz = false) := by
  simp only [State.unblocked, State.flushed]
  refine ⟨by decide +kernel, ⟨base.upd (fun B => { B with answer := some 5 }), 5, by decide⟩, by decide +kernel, by decide +kernel, by decide +kernel⟩

/-- Stage 0 with records head to tail - 1 granted, and berth 0 in the task of record 3. -/
def inTask (head tail : Nat) : State :=
  (running (fun l => { l with stages := [(0, { StageQ.zero with head := head, tail := tail, slots := [(3, ⟨0, true, true, false, 0, [], false⟩), (4, ⟨0, true, true, true, 0, [], false⟩)] })] })).upd
    (fun B => { B with handle := 3, hasTask := true })

theorem witness_TaskEnd :
    (let u := (inTask 0 5).writeback 0; let l := u.myLaunch; let h := u.me.handle.toNat; let i := h / 2 ^ 29 % 8; let k := h % 2 ^ 14; let q := l.stage i
      u.me.inHandler = false ∧ (∀ r ∈ u.me.recs, r.st = .retired) ∧ (u.upd (·.joinAll)).flushed 2 ∧ l.rpl = false
      ∧ u.untraced u.myCtx ∧ l.resident = true ∧ l.seq % 2 = u.me.lsl ∧ q.head % l.cap i ≠ k ∧ (l.slotOf i q.head).ended = false ∧ q.head < q.tail)
    ∧ (let u := (inTask 3 4).writeback 0; let l := u.myLaunch; let h := u.me.handle.toNat; let i := h / 2 ^ 29 % 8; let k := h % 2 ^ 14; let q := l.stage i
      u.untraced u.myCtx ∧ q.head % l.cap i = k ∧ q.tail = q.head + 1)
    ∧ (let u := ((inTask 3 6).upd (fun B => { B with dbg := { B.dbg with due := 4 } })).writeback 0
      let l := u.myLaunch; let h := u.me.handle.toNat; let i := h / 2 ^ 29 % 8; let k := h % 2 ^ 14; let q := l.stage i
      u.untraced u.myCtx ∧ u.me.dbg.due = 4 ∧ q.head + 2 ≤ q.tail ∧ 2 < l.cap i ∧ (∀ j < 5, 3 ≤ j → j % l.cap i = k ∨ (l.slotOf i j).ended = true)
        ∧ 5 % l.cap i ≠ k ∧ (l.slotOf i 5).ended = false) := by
  simp only [State.untraced, State.flushed]; decide +kernel

/-- A decrement on its way to record 3 of stage 0, in the given state. -/
def decTo (x : TaskSlot) : State :=
  { running (fun l => { l with stages := [(0, { StageQ.zero with tail := 5, slots := [(3, x)] })] }) with deps := [⟨0, 0, 3, 0, 0, 0, []⟩] }

theorem witness_Dependences :
    (let u := (running id).writeback 0; let v := (u.G 2).toNat; v < 2 ^ 32 ∧ u.myLaunch.badHandle v = false ∧ u.flushed 2)
    ∧ (let s := decTo ⟨1, true, false, false, 0, [], false⟩; let m : DepMsg := ⟨0, 0, 3, 0, 0, 0, []⟩; let l := s.launch 0 0; let x := AMap.get TaskSlot.zero (l.stage 0).slots 3
      s.deps[s.arg.k]? = some m ∧ s.controlAhead m.src (l.stage 0).owner m.iss = false ∧ l.badHandle m.handle = false ∧ x.committed = true ∧ x.granted = false
        ∧ x.lap = m.handle / 2 ^ 15 % 2 ^ 14 ∧ x.cnt ≠ 0 ∧ x.unread = false ∧ l.resident = true)
    ∧ (let s := decTo ⟨0, true, false, false, 0, [], false⟩; let m : DepMsg := ⟨0, 0, 3, 0, 0, 0, []⟩; let x := AMap.get TaskSlot.zero ((s.launch 0 0).stage 0).slots 3
      s.deps[s.arg.k]? = some m ∧ s.controlAhead m.src ((s.launch 0 0).stage 0).owner m.iss = false ∧ x.cnt = 0 ∧ x.unread = false
        ∧ (s.berth m.berth).residentOf m.ctx = true ∧ (s.berth m.berth).lsl = m.lsl ∧ (s.berth m.berth).inHandler = false ∧ (s.ctx 0).pendFault = none ∧ bitN (s.ctx 0).flt.toNat 0 = false) := by
  simp only [State.flushed]; decide +kernel

/-- A launch whose copy entry has the given word, in the given state. -/
def copying (e : Nat) (k : CopyEnt) (n : Nat) : State :=
  { running (fun l => { l with copies := [(0, k)], ntst := n }) with mem := memPut base.mem 0x8000 (leBytes e 32) }

/-- 64 bytes of memory at 0x9000 to core 0's scratchpad, and back. -/
def copyIn : Nat := 0x9000 + 2 ^ 128 * 64 + 2 ^ 166 + 2 ^ 192 * 0xFFFFFFFF
/-- 128 bytes. -/
def copyIn2 : Nat := 0x9000 + 2 ^ 128 * 128 + 2 ^ 166 + 2 ^ 192 * 0xFFFFFFFF
def copyBack : Nat := 2 ^ 64 * 0x9000 + 2 ^ 128 * 64 + 2 ^ 167 + 2 ^ 192 * 0xFFFFFFFF

theorem witness_CopySchedule :
    (let u := (copying 0 CopyEnt.zero 1).writeback 0; let l := u.myLaunch; u.flushed 2 ∧ l.resident = true ∧ l.seq % 2 = u.me.lsl ∧ l.ncpy ≤ l.ntst)
    ∧ (let u := (copying copyIn CopyEnt.zero 0).writeback 0; let l := u.myLaunch
      u.flushed 2 ∧ l.ntst < l.ncpy ∧ u.me.pend = [] ∧ u.copyWord 0 l l.ntst = .ok copyIn ∧ u.copyCheck 0 l copyIn = none)
    ∧ (let u := (copying 0 CopyEnt.zero 0).writeback 0; let l := u.myLaunch
      l.ntst < l.ncpy ∧ u.copyWord 0 l l.ntst = .ok 0 ∧ u.copyCheck 0 l 0 = some 5 ∧ (l.copy l.ntst).bound = none)
    ∧ (let s := copying copyIn ⟨true, false, none, 0, 0, 77⟩ 1; let l := s.launch 0 0
      (l.copy s.arg.ent).released = true ∧ (l.copy s.arg.ent).done = false ∧ (l.copy s.arg.ent).bound = none ∧ l.st = .running ∧ l.seq % 2 = s.arg.lsl
        ∧ s.copyWord 0 l s.arg.ent = .ok copyIn ∧ s.copyCheck 0 l copyIn = none ∧ (l.copy s.arg.ent).moved = 0 ∧ s.arg.n = 0 ∧ ∃ u, s.copyMove 77 0 copyIn 64 = .ok u)
    ∧ (let s := { copying copyIn2 ⟨true, false, none, 0, 0, 77⟩ 1 with arg := { n := 1 } }; let l := s.launch 0 0
      s.copyWord 0 l s.arg.ent = .ok copyIn2 ∧ s.copyCheck 0 l copyIn2 = none ∧ s.arg.n ≠ 0 ∧ 64 * s.arg.n < fld copyIn2 128 32
        ∧ ∃ u, s.copyMove 77 0 copyIn2 (64 * s.arg.n) = .ok u)
    ∧ (bitN copyIn 167 = false ∧ bitN copyIn 166 = true ∧ ∃ bs, base.readVAf 0 (fld copyIn 0 64) (fld copyIn 128 32) (fld copyIn 128 32 / 65536 + 2) = .ok bs)
    ∧ (bitN copyBack 167 = true ∧ bitN copyBack 166 = false ∧ (∀ i < 1, (base.core 0).spPoison (fld copyBack 0 64 + 64 * i) 64 = false)
      ∧ ∃ t, State.writeVAby (State.storeBy 77 0) base 0 (fld copyBack 64 64) ((List.range 64).map (fun i => base.spAt 0 (fld copyBack 0 64 + i)))
          (64 / 65536 + 2) = .ok t) := by
  simp only [State.flushed]
  exact ⟨by decide +kernel, by decide +kernel, by decide +kernel,
    ⟨by decide +kernel, by decide +kernel, by decide +kernel, by decide +kernel, by decide +kernel, by decide +kernel, by decide +kernel,
      by decide +kernel, by decide +kernel, ok_of (by decide +kernel)⟩,
    ⟨by decide +kernel, by decide +kernel, by decide +kernel, by decide +kernel, ok_of (by decide +kernel)⟩,
    ⟨by decide +kernel, by decide +kernel, ok_of (by decide +kernel)⟩,
    ⟨by decide +kernel, by decide +kernel, by decide +kernel, ok_of (by decide +kernel)⟩⟩

/-- Queue 3 of core 0 with the given contents, named by `g3`. -/
def queued (q : Pq) : State := (base.updCore 0 (fun c => { c with pqs := [(3, q)] })).upd (fun B => B.setG 3 3)

theorem queued_dead (q : Pq) (e : PqEnt) : (((queued q).core 0).pq 3).dead e = q.dead e := rfl

theorem witness_PriorityQueues :
    (let s := queued Pq.zero; let v := (s.G 3).toNat; let q := (s.core 0).pq 3
      s.myLaunch.det = false ∧ v < 4 ∧ s.pqBusy (v % 4) = false ∧ q.ents.length < 8192 ∧ s.me.pq = none ∧ (∀ e ∈ q.ents, q.dead e = true)
        ∧ fld v 3 61 = 0 ∧ (s.G 2).toNat < 2 ^ 16)
    ∧ (let s := queued ⟨List.replicate 8192 ⟨1, 2, 3⟩, [], 0, 0⟩; let q := (s.core 0).pq 3
      s.pqBusy 3 = false ∧ 8192 ≤ q.ents.length ∧ ∀ e ∈ q.ents, q.dead e = false)
    ∧ (let s := queued ⟨[⟨1, 2, 0⟩, ⟨1, 3, 1⟩, ⟨0, 4, 2⟩], [(4, true)], 3, 0⟩; let q := (s.core 0).pq 3
      s.pqBusy 3 = false ∧ s.me.pq = none ∧ q.first ⟨1, 2, 0⟩)
    ∧ (∀ k ∈ [0, 4], let s := (queued ⟨[⟨1, 2, 0⟩, ⟨1, 3, 1⟩], [(3, true)], 2, 0⟩).upd (fun B => { B with pq := some ⟨1, 1, 2, 3, k, some (1, 3, 1), true, [], []⟩ })
      let q := (s.core 0).pq 3
      (s.launchOf 0).det = false ∧ ((s.berth s.arg.b).pq.map (fun p => (p.cand, p.tries))) = some (some (1, 3, 1), k) ∧ q.dead ⟨1, 3, 1⟩ = true
        ∧ q.dead ⟨1, 2, 0⟩ = false ∧ q.first ⟨1, 2, 0⟩)
    ∧ (let s := (queued ⟨[⟨1, 2, 0⟩, ⟨1, 3, 1⟩], [(3, true)], 2, 0⟩).upd (fun B => { B with pq := some ⟨1, 1, 2, 3, 0, none, true, [], []⟩ })
      (s.berth s.arg.b).pq.isSome = true ∧ ((s.core 0).pq 3).first ⟨1, 2, 0⟩) := by
  simp only [Pq.first]
  refine ⟨by decide +kernel, ⟨by decide +kernel, by decide +kernel, ?_⟩, by decide +kernel, by decide +kernel, by decide +kernel⟩
  exact fun e _ => (queued_dead _ e).trans rfl

theorem witness_SystemRegisters :
    (let u := base.writeback 0; AMap.find u.behind (stackOf u.cur) = none ∧ (∃ v, u.sysValue 0 = some v) ∧ (∃ v, u.sysValue 0x1AF = some v) ∧ (∃ v, u.sysValue 0x1B0 = some v))
    ∧ sysAbsent 7 ∧ sysAbsent 0xF ∧ sysAbsent 0x165 ∧ sysAbsent 0xFFF ∧ handled.trapGoes handled.cur 0x4000
    ∧ (let u := (with2 0xFF 0x8000000300000000).writeback 0; (u.G 2).toNat < 2 ^ 8 ∧ fld (u.G 2).toNat 11 4 = 0
      ∧ ((u.core 0).ring 31).claimed = 0 ∧ ((u.core 0).ring 31).nfull = 0 ∧ ringDescOk (u.G 3) = true)
    ∧ (let u := (with2 2 0x3FFFC0).writeback 0; (u.G 2).toNat < 3 ∧ (u.G 3).toNat < 2 ^ 22 ∧ (u.G 3).toNat % 64 = 0) := by
  simp only [sysAbsent, State.trapGoes]
  exact ⟨⟨by decide, ⟨_, rfl⟩, ⟨_, rfl⟩, ⟨_, rfl⟩⟩, by decide, by decide, by decide, by decide, by decide +kernel, by decide +kernel, by decide +kernel⟩

/-- An open segment without words, whose value is 0 against the instruction's constant. -/
def segment (k : Half) (s : State) : State :=
  { s.upd (fun B => { B with seg := ⟨true, false, 0xFFFFFFFF, 0, 0, 0, 0, 9, 0, 0⟩ }) with ir := [0, k] }

theorem witness_ChecksAndLog :
    (let u := base.writeback 0; u.me.inHandler = false ∧ (∀ r ∈ u.me.recs, r.st = .retired) ∧ u.me.obuf = [] ∧ u.busyReq u.cur = false ∧ u.batchOut u.cur = false
      ∧ u.rawBusy u.cur = false ∧ u.myLaunch.det = false)
    ∧ (let u := (base.upd (fun B => { B with obuf := [⟨0, 0, false, 1, 0x40, 0, false, none, 8, 0, []⟩] })).writeback 0
      u.me.inHandler = false ∧ (∀ r ∈ u.me.recs, r.st = .retired) ∧ u.me.obuf ≠ [])
    ∧ (∃ r ∈ ((withRec 0 .started).writeback 0).me.recs, r.st ≠ .retired) := by decide +kernel

/-- A deterministic launch of context 0 whose log of sixteen records stands at 0x30000 and holds these, of which the host has taken or placed n. -/
def logging (rpl : Nat) (n : Word) (rs : List LogReq) : State :=
  let s := (running (fun l => { l with rcd := l.rcd + 2 ^ 76 + 2 ^ 77 * rpl + 2 ^ 192 * 0x30000 + 2 ^ 256 * 4 })).updCtx 0 (fun c => { c with logc0 := n })
  { s with mem := memPut s.mem 0x30000 (rs.zipIdx.flatMap (fun r => leBytes (logWord r.1 r.2) 32)) }

/-- A mark of C of the strand on berth 0, and of another one; a barrier's phase of C. -/
def mark0 (v : Nat) : LogReq := ⟨4, v, 0, 0, 0xFFFFFFFF, 0, 0⟩
def mark1 : LogReq := ⟨4, 5, 0, 0, 7, 1, 0⟩
def phase0 : LogReq := ⟨0x12, 0x100, 0, 0, 0xFFFFFFFF, 0, 0⟩

theorem first_zero {s : State} {n l : Nat} {p : LogReq → Bool} {q : LogReq} (h : 0 < s.lcnt n l ∧ AMap.get false (s.launch n l).log.used 0 = false)
    (hq : s.logAt n l 0 = some q) (ht : q.typ ≠ 2 ∧ q.typ ≠ 3 ∧ p q = true) : s.logFirst n l 0 p q :=
  ⟨h.1, h.2, hq, fun j hj _ => by cases Nat.le_zero.1 hj; exact ⟨q, hq, ht.1, ht.2.1, by simp [ht.2.2]⟩⟩

theorem first_one {s : State} {n l : Nat} {p : LogReq → Bool} {x q : LogReq} (h : 1 < s.lcnt n l ∧ AMap.get false (s.launch n l).log.used 1 = false)
    (hx : s.logAt n l 0 = some x ∧ x.typ ≠ 2 ∧ x.typ ≠ 3 ∧ p x = false) (hq : s.logAt n l 1 = some q) (ht : q.typ ≠ 2 ∧ q.typ ≠ 3 ∧ p q = true) :
    s.logFirst n l 1 p q :=
  ⟨h.1, h.2, hq, fun j hj _ => by
    match j, hj with
    | 0, _ => exact ⟨x, hx.1, hx.2.1, hx.2.2.1, by simp [hx.2.2.2]⟩
    | 1, _ => exact ⟨q, hq, ht.1, ht.2.1, by simp [ht.2.2]⟩⟩

/-- C's record of the party is the one that the statement means. -/
def mineOf (u : State) (q : LogReq) : Bool := q.hnd == u.me.handle.toNat && q.pk == 0 && q.pix == u.me.pixc

/-- In record mode with room and without; in replay the strand's own mark, another's before it, and another event of the strand. -/
theorem witness_ChecksAndLog_log :
    (let u := (logging 0 0 []).writeback 0; let l := u.myLaunch
      l.resident = true ∧ l.det = true ∧ l.log.brk = false ∧ l.log.free = false ∧ (∀ x ∈ u.atoms, x.berth ≠ u.cur) ∧ (∀ x ∈ u.contribs, x.req.berth ≠ u.cur)
        ∧ l.rpl = false ∧ l.f 78 1 = 0 ∧ lowI ((l.log.k : Int) - (u.lcnt 0 0 : Nat)) 64 ≠ 2 ^ l.f 256 5
        ∧ (u.writeVA2 0 (l.f 192 64 + 32 * (l.log.k % 2 ^ l.f 256 5)) (leBytes 4 32)).toOption.isSome = true)
    ∧ (let u := (logging 0 0xFFFFFFFFFFFFFFF0 []).writeback 0; let l := u.myLaunch
      l.rpl = false ∧ l.f 78 1 = 0 ∧ lowI ((l.log.k : Int) - (u.lcnt 0 0 : Nat)) 64 = 2 ^ l.f 256 5)
    ∧ (let u := (logging 1 1 [mark0 0]).writeback 0; u.myLaunch.rpl = true ∧ u.logFirst 0 0 0 (fun q => q.typ == 4) (mark0 0) ∧ mineOf u (mark0 0) = true
      ∧ (mark0 0).obj = (u.G 2).toNat ∧ (mark0 0).obj ≠ ((u.upd (fun B => B.setG 2 1)).G 2).toNat ∧ (u.ctx 0).pendFault = none ∧ bitN (u.ctx 0).flt.toNat 0 = false)
    ∧ (let u := (logging 1 2 [mark1, mark0 0]).writeback 0; u.logFirst 0 0 0 (fun q => q.typ == 4) mark1 ∧ mineOf u mark1 = false
      ∧ u.logFirst 0 0 1 (mineOf u) (mark0 0) ∧ (mark0 0).typ = 4)
    ∧ (let u := (logging 1 2 [mark1, phase0]).writeback 0; u.logFirst 0 0 0 (fun q => q.typ == 4) mark1 ∧ u.logFirst 0 0 1 (mineOf u) phase0
      ∧ 5 ≤ phase0.typ ∧ phase0.typ ≠ 0x15) := by
  exact ⟨by decide +kernel, by decide +kernel,
    ⟨by decide +kernel, first_zero (by decide +kernel) (by decide +kernel) (by decide), by decide +kernel, by decide +kernel, by decide +kernel, by decide, by decide⟩,
    ⟨first_zero (by decide +kernel) (by decide +kernel) (by decide), by decide +kernel,
      first_one (x := mark1) (by decide +kernel) (by decide +kernel) (by decide +kernel) (by decide +kernel), by decide⟩,
    ⟨first_zero (by decide +kernel) (by decide +kernel) (by decide),
      first_one (x := mark1) (by decide +kernel) (by decide +kernel) (by decide +kernel) (by decide +kernel), by decide, by decide⟩⟩

/-- The log's size of gang 0 at the strand's next event; the deterministic pairing of pushes and pops, with the token of its number and without. -/
theorem witness_ChecksAndLog_picks :
    (let s := logging 1 1 [⟨0x16, 0, 3 * 2 ^ 32 + 0x219, 0, 0xFFFFFFFF, 0, 0⟩]; let q : LogReq := ⟨0x16, 0, 3 * 2 ^ 32 + 0x219, 0, 0xFFFFFFFF, 0, 0⟩
      (s.G 2).toNat < 2 ^ 8 ∧ (s.gang s.myCtx 0).members.length < 2 ^ 32 ∧ s.myLaunch.rpl = true ∧ s.logFirst s.myCtx s.me.lsl 0 (mineOf s) q
        ∧ s.logFirst s.myCtx s.me.lsl 0 (fun q => q.obj == 0 && (q.typ == 0x13 || (q.typ == 0x16 && q.arg % 2 ^ 8 == 0x19))) q ∧ q.arg % 2 ^ 32 = 0x219)
    ∧ (let u := ((logging 0 0 []).upd (fun B => { B with fifos := (withTokens 1).me.fifos })).writeback 0; let q := u.me.fifo 5
      u.myLaunch.det = true ∧ u.me.inHandler = false ∧ 5 < u.me.fifos.length ∧ (q.npop, Tok.empty) ∈ q.done ∧ ∀ x ∈ q.done, x.1 = q.npop → x = (q.npop, Tok.empty))
    ∧ (let u := (logging 0 0 []).writeback 0; u.myLaunch.det = true ∧ ∀ x ∈ (u.me.fifo 5).done, x.1 ≠ (u.me.fifo 5).npop) := by
  exact ⟨⟨by decide +kernel, by decide +kernel, by decide +kernel, first_zero (by decide +kernel) (by decide +kernel) (by decide +kernel),
    first_zero (by decide +kernel) (by decide +kernel) (by decide +kernel), by decide⟩, by decide +kernel, by decide +kernel⟩

theorem witness_Segments :
    (handled.me.inHandler = false ∧ handled.me.seg.isOpen = false)
    ∧ (let u := (segment 0 ((withRec 2 .started).upd (fun B => { B with recs := [{ recAt 2 .started with inSeg := true }] }))).writeback 0
      u.me.inHandler = false ∧ u.me.seg.isOpen = true ∧ ∃ r ∈ u.me.recs, r.inSeg = true ∧ r.st ≠ .retired)
    ∧ (let u := (segment (segment 0 base).me.seg.value base).writeback 0
      (∀ r ∈ u.me.recs, r.inSeg = true → r.st = .retired) ∧ u.untraced u.myCtx ∧ u.me.seg.value = u.imm32)
    ∧ (let u := (segment ((segment 0 base).me.seg.value + 1) handled).writeback 0
      u.untraced u.myCtx ∧ u.me.seg.value ≠ u.imm32 ∧ u.handler u.myCtx = some 0x4000)
    ∧ (let s := segment 0 handled; let B := (s.writeback s.arg.b).berth s.arg.b
      B.seg.isOpen = true ∧ B.seg.disarmed = false ∧ B.seg.bound ≠ 0 ∧ B.pfx = none ∧ (B.st = .run ∨ B.st = .wait) ∧ B.inHandler = false ∧ B.haltF = false ∧ B.cut = false ∧ B.dbg.stp = false ∧ s.cBusy s.arg.b = false ∧ s.untraced B.ctx
        ∧ s.handler B.ctx = some 0x4000) := by
  simp only [State.untraced]; decide +kernel

/-- A raw window of one megabyte at 16 MiB; the last packet of it in `g2`, and its mask. -/
def rawWin (m : Nat) (tags : AMap RawTag) : State :=
  ((with2 (BitVec.ofNat 64 (0xFFFE0 + 2 ^ 32 * m)) 0x3FFFE0).updCtx 0 (fun c => { c with raw := 0x1000001 })).updCore 0 (fun c => { c with raw := tags })

theorem witness_RawPackets :
    (let u := (rawWin 0 [(0, ⟨true, 1, true, 0x1000000, 0, 0, [], 0, true⟩)]).writeback 0; let n := u.ctx u.myCtx; let off := (u.G 2).toNat % 2 ^ 32
      let x := (u.G 3).toNat
      n.rawSize ≠ 0 ∧ off % 32 = 0 ∧ off < n.rawSize ∧ x % 32 = 0 ∧ x < 0x400000 ∧ u.rawOk (n.rawBase + off) = true ∧ u.paFenced (n.rawBase + off) = false
        ∧ (∀ j < 1, (AMap.get RawTag.zero (u.core 0).raw j).busy = true) ∧ (AMap.get RawTag.zero (u.core 0).raw 1).busy = false
        ∧ u.unblocked 1 x 32 false ∧ u.unblocked 1 x 32 true ∧ (u.core 0).spPoison x 32 = false)
    ∧ (let u := (rawWin 0 ((List.range 8).map (fun k => (k, ⟨true, 1, true, 0x1000000, 0, 0, [], 0, true⟩)))).writeback 0
      u.unblocked 1 (u.G 3).toNat 32 false ∧ ∀ k < 8, (AMap.get RawTag.zero (u.core 0).raw k).busy = true)
    ∧ (let u := ((rawWin 0 [(7, ⟨true, 0, true, 0x1000000, 0, 0, [], 0, true⟩)]).upd (fun B => B.setG 2 7)).writeback 0
      (u.G 2).toNat < 8 ∧ (AMap.get RawTag.zero (u.core 0).raw 7).busy = true ∧ (AMap.get RawTag.zero (u.core 0).raw 7).berth = u.cur
        ∧ (AMap.get RawTag.zero (u.core 0).raw 7).mine = true ∧ u.me.answer = none
        ∧ (AMap.get RawTag.zero (u.core 0).raw 6).busy = false)
    ∧ ∀ m ∈ [0, 5, 0xFFFFFFFF], ∀ w ∈ [true, false],
      let s := rawWin 0 [(0, ⟨true, 0, w, 0x1000000, m, 0, List.replicate 32 1, 0, true⟩)]; let K := s.core 0; let r := AMap.get RawTag.zero K.raw 0
      r.busy = true ∧ (∀ x ∈ K.raw, x.2.busy = true → x.2.pa = r.pa → r.order ≤ x.2.order) ∧ s.paDead r.pa = false ∧ s.paFenced r.pa = false
        ∧ r.mine = true ∧ r.data.length = 32 ∧ r.mask < 2 ^ 32 := by
  simp only [State.unblocked]; decide +kernel

/-- Context 0 with the given windows, `g2` a pointer or a window, `g3` 16 elements of the last operation, or a value. -/
def windowed (ws : AMap Window) (a b : Word) : State :=
  ((running id).upd (fun B => (B.setG 2 a).setG 3 b)).updCtx 0 (fun c => { c with wins := ws })

/-- Window number k of 16 words at 0x40000 times k. -/
def winAt (k : Nat) : Window := ⟨true, BitVec.ofNat 64 (0x40000 * k), 16, 0, 1, [], 0, none⟩

/-- A contribution of 5 to the last element of window 7. -/
def contrib : Contrib := ⟨⟨0, 0, 0, 0, 4, 0x1C003C, 5, 0, false, false, none, none, 0, 0, 0, 8, 0, [], [], none, 0⟩, 7, 15⟩

/-- The last 64 bytes of the address space with seven windows open; all eight open; the last one to close; its last element's contribution,
while it is open and after; the merge. -/
theorem witness_Windows :
    (let u := (windowed ((List.range 7).map (fun k => (k, winAt k))) 0x3FFFFFFFFFFC0 0xA0010).writeback 0; let p := u.G 2; let y := (u.G 3).toNat
      let n := y % 2 ^ 16; let op := y / 2 ^ 16
      u.myLaunch.det = false ∧ p.toNat % 64 = 0 ∧ u.rangeCheck u.myCtx u.myLaunch.bndb p (4 * n) .at = .ok () ∧ op ≤ 10 ∧ 16 ≤ n ∧ n ≤ 32768 ∧ n % 16 = 0
        ∧ (∀ k < 8, (u.win u.myCtx k).isOpen = true → fld p.toNat 0 50 + 4 * n ≤ fld (u.win u.myCtx k).base.toNat 0 50
          ∨ fld (u.win u.myCtx k).base.toNat 0 50 + 4 * (u.win u.myCtx k).n ≤ fld p.toNat 0 50))
    ∧ (let u := (windowed ((List.range 7).map (fun k => (k, winAt k))) 0x3FFFFFFFFFFC0 0xA0010).writeback 0
      u.flushed 2 ∧ (u.win u.myCtx 7).isOpen = false ∧ (∀ j < 7, (u.win u.myCtx j).isOpen = true) ∧ maskList u.winStacks = [0]
        ∧ ∀ x ∈ maskList u.winStacks, (u.stack x).redSlots + 16 ≤ 32768)
    ∧ (let u := (windowed ((List.range 8).map (fun k => (k, winAt k))) 0x3FFFFFFFFFFC0 0xA0010).writeback 0; ∀ k < 8, (u.win u.myCtx k).isOpen = true)
    ∧ (let u := (windowed [(7, winAt 7)] 7 0).writeback 0; u.me.answer = none ∧ u.flushed 2 ∧ (u.G 2).toNat < 8 ∧ (u.win u.myCtx 7).isOpen = true
      ∧ (u.win u.myCtx 7).closing = none)
    ∧ (let u := (windowed [(7, { winAt 7 with closing := some 2 })] 7 0).writeback 0; u.me.answer = none ∧ u.flushed 2 ∧ (u.win u.myCtx 7).isOpen = true
      ∧ (u.win u.myCtx 7).closing = some 2)
    ∧ (let s := { windowed [(7, winAt 7)] 7 0 with contribs := [contrib] }; let w := s.win 0 7
      s.contribs[s.arg.k]? = some contrib ∧ w.isOpen = true ∧ fld (0x1C003C : Word).toNat 0 50 = fld w.base.toNat 0 50 + 4 * 15
        ∧ bitN w.stks 0 = true ∧ (s.launch 0 0).det = false)
    ∧ (let s := { windowed [] 7 0 with contribs := [contrib] }; (s.win 0 7).isOpen = false ∧ (s.launch 0 0).det = false ∧ (s.kin contrib).head? = some contrib)
    ∧ (let s := { windowed [(7, { winAt 7 with closing := some 0 })] 7 0 with arg := { win := 7 } }; let w := s.win 0 7
      w.closing = some 0 ∧ w.isOpen = true ∧ (∀ c ∈ s.contribs, c.req.ctx = 0 → c.win ≠ 7) ∧ s.mayMerge 0 w = true ∧ (s.launchOf 0).det = false)
    ∧ ∃ l, base.walk 0 (fld (winAt 7).base.toNat 0 50 + 4 * 15) 0 = .ok l := by
  simp only [State.flushed]
  exact ⟨by decide +kernel, by decide +kernel, by decide +kernel, by decide +kernel, by decide +kernel, by decide +kernel, by decide +kernel, by decide +kernel, ok_of (by decide +kernel)⟩

theorem witness_ExactSums : ∃ xs ys : List (BitVec 32), xs.Perm ys ∧ xs ≠ ys ∧ xs.length < 2 ^ 16 ∧ (8 : Nat) ≤ 10 ∧ (8 : Nat) ≠ 9 ∧ (8 : Nat) ≠ 10 :=
  ⟨[1, 2], [2, 1], .swap _ _ _, by decide, by decide, by decide, by decide, by decide⟩

/-- An answer; an add of a doubleword at 0x40 relaxed, acquiring and releasing; buffered; into window 1's first element. -/
theorem witness_AtomsIssue :
    (∃ (s : State) (v : Word), (s.writeback s.cur).me.answer = some v)
    ∧ (let u := (windowed [] 0x40 1).writeback 0
      u.me.answer = none ∧ u.access u.myCtx u.myLaunch.bndb (u.G 2) 8 .at = .ok 0x40 ∧ u.winAt u.myCtx (fld (u.G 2).toNat 0 50) = none ∧ bitN 0x40 45 = false
        ∧ u.me.obuf = [] ∧ u.batchOut u.cur = false ∧ (∀ o < 5, u.flushed (relScope o 3)))
    ∧ (∀ o ≤ (4 : BitVec 3), ∃ r, atomForm (.atomAdd 0 2 3 false o 3 true) (windowed [] 0x40 1).G = some r)
    ∧ (let u := (windowed [(1, winAt 1)] 0x40000 1).writeback 0
      u.access u.myCtx u.myLaunch.bndb (u.G 2) 4 .at = .ok 0x40000 ∧ u.winAt u.myCtx (fld (u.G 2).toNat 0 50) = some (1, 0) ∧ bitN 0x40000 45 = false
        ∧ winOp 0 = some 0 ∧ (u.win u.myCtx 1).op = 0 ∧ ∀ o < 5, u.flushed (relScope o 3)) := by
  simp only [State.flushed]
  exact ⟨⟨base.upd (fun B => { B with answer := some 5 }), 5, by decide⟩, by decide +kernel, fun o _ => ⟨_, rfl⟩, by decide +kernel⟩

/-- An addition of 1 to the doubleword at 0x40, on its way, alone or in a batch. -/
def addReq (o : Option Nat) : AtomReq := ⟨0, 0, 0, 0, 8, 0x40, 1, 0, true, false, none, o, 0, 0, 0, 8, 0, [], [], some 2, 0⟩

/-- A batch of two entries at one port, the second of which is performed with the first. -/
theorem witness_AtomsPerform_batch :
    let r := addReq (some 0); let q := { addReq (some 0) with ptr := 0x48 }; let s := { running id with atoms := [r, q] }
    s.atoms[s.arg.k]? = some r ∧ (s.xlate 0 0x40 r.ptr .at).toOption.map (·.pa) = some 0x40 ∧ s.held 0x40 = false ∧ s.held 0x48 = false
      ∧ (s.xlate 0 0x48 q.ptr .at).toOption.map (·.pa) = some 0x48 ∧ (s.launch r.ctx r.lsl).det = false ∧ (s.berth r.berth).pend = []
      ∧ s.atoms.filter (s.samePart r) = [r, q] ∧ (∀ x ∈ s.atoms, x.berth = r.berth → x.ordB = some 0)
      ∧ ∀ x ∈ s.atoms.takeWhile (fun x => !(s.samePart r x)), s.goesFirst x r = false := by decide +kernel

theorem witness_AtomsPerform :
    ∀ o ∈ [none, some 0], let s := { running id with atoms := [addReq o] }; let r := addReq o
      s.atoms[s.arg.k]? = some r ∧ r.byRec = none ∧ s.xlate r.ctx (fld r.ptr.toNat 0 50) r.ptr .at = s.xlate 0 0x40 r.ptr .at
        ∧ (s.xlate 0 0x40 r.ptr .at).toOption.map (·.pa) = some 0x40 ∧ s.held 0x40 = false ∧ (s.launch r.ctx r.lsl).det = false ∧ (s.berth r.berth).pend = []
        ∧ (∀ q ∈ s.atoms.take s.arg.k, s.goesFirst q r = false) ∧ (∀ q ∈ s.atoms, q ≠ r → s.goesFirst q r = false)
        ∧ (s.berth r.berth).tid = r.tid ∧ (∀ p ∈ (s.berth r.berth).refs, p.2 ≤ r.iss)
        ∧ (∀ q ∈ s.atoms, q.berth = r.berth → q.ordB.isSome = true → q = r) ∧ s.atoms.count r = 1 := by decide +kernel

/-- A move of the frame at 2 MiB to 4 MiB, by a leaf and a list entry next to each other. -/
theorem witness_FrameMoves :
    let s := { base with migrs := [⟨0, 0x8000, 0x8008, 0x200000, 0x400000⟩] }; let m : Migr := ⟨0, 0x8000, 0x8008, 0x200000, 0x400000⟩
    s.migrs[s.arg.k]? = some m ∧ Memory.wf s.mem = true ∧ (m.old + 2 ^ 21 ≤ m.new ∨ m.new + 2 ^ 21 ≤ m.old)
      ∧ (m.pte + 8 ≤ m.new ∨ m.new + 2 ^ 21 ≤ m.pte) ∧ (m.ent + 8 ≤ m.new ∨ m.new + 2 ^ 21 ≤ m.ent) ∧ (m.pte + 8 ≤ m.ent ∨ m.ent + 8 ≤ m.pte)
      ∧ let e := memNat s.mem m.pte 8; 256 * fld e 8 38 ≤ e ∧ e - 256 * fld e 8 38 + m.new < 2 ^ 64 ∧ m.old + 1 < 2 ^ 64 := by decide +kernel

/-- A stream of 1,024 bytes in the given space at the given address. -/
def strm (a spc : Nat) : BitVec 256 := BitVec.ofNat 256 (2 ^ 192 * a + 2 ^ 160 * 1024 + 2 ^ 112 * 25 + spc)

/-- C before a record that zeroes the first element of that stream, with n records of queue L appended. -/
def beforeRec (a spc n : Nat) (s : State) : State :=
  { s.upd (fun B => { B with s := [(0, strm a spc)], recs := List.replicate n (recAt 0 .waitTok) }) with ir := [0x0C77A017] }

theorem witness_RecordsAppend :
    (let u := (beforeRec 0 1 15 handled).writeback 0;
      recForm (.lZero rec0) = some (0, 5, rec0) ∧ u.me.inHandler = false ∧ (u.me.queue 0).length < 16 ∧ u.myLaunch.det = false ∧ u.me.app.length = 3
        ∧ (!rec0.pen || (u.P rec0.pred ^^ rec0.pneg)) = true ∧ u.appendFault 0 5 rec0 = none)
    ∧ (let u := (beforeRec 0 1 16 handled).writeback 0; u.me.inHandler = false ∧ 16 ≤ (u.me.queue 0).length)
    ∧ (let u := handled.writeback 0
      u.trapGoes u.cur 0x4000 ∧ u.me.inHandler = false ∧ (u.me.queue 0).length < 16 ∧ (u.appendFault 0 5 rec0).map (·.cls) = some 10)
    ∧ (inside.writeback inside.cur).me.inHandler = true := by
  simp only [State.trapGoes]; decide +kernel

/-- That record in a state of its life, at an issue point. -/
def zeroing (a spc : Nat) (st : RState) (point : Nat) : QRec :=
  { recAt 0 st with opn := 5, point := point, slots := ⟨strm a spc, 0, true, none⟩ :: List.replicate 3 ⟨0, 0, false, none⟩ }

/-- A send of its first 16 codes (one element, or one byte) on queue q. -/
def sending (q opn : Nat) (imm : Word) (D A : BitVec 256) : QRec :=
  { recAt q .started with opn := opn, r := { rec0 with imm := imm }, slots := [⟨D, 0, true, none⟩, ⟨A, 0, true, none⟩, ⟨0, 0, false, none⟩, ⟨0, 0, false, none⟩] }

/-- A stream of 32-bit integers. -/
def strm32 (a spc : Nat) : BitVec 256 := BitVec.ofNat 256 (2 ^ 192 * a + 2 ^ 160 * 1024 + 2 ^ 112 * 41 + spc)

def withSend (x : QRec) (ws : AMap Window) : State :=
  ((running id).updCtx 0 (fun c => { c with tags := [(0, regTag)], wins := ws })).upd (fun B => { B with recs := [x] })

def withZeroing (x : QRec) : State := handled.upd (fun B => { B with recs := [x] })

theorem headIs_one {s : State} {b q : Nat} {r : QRec} (h : (s.berth b).recs = [r]) (hq : r.q = q) (hh : (s.berth b).head q = some r) :
    s.headIs b q r := by
  refine ⟨by rw [h]; exact List.mem_cons_self, hq, hh, fun x hx _ _ => ?_⟩
  rw [h] at hx; exact List.mem_singleton.1 hx

/-- Before its start, before its one issue, before an issue beyond the address space, and before it retires. -/
theorem witness_RecordsRun :
    (∀ x ∈ [zeroing 0 1 .waitTok 0, zeroing 0 1 .started 0, zeroing (2 ^ 50) 0 .started 0, zeroing 0 1 .started 1], (withZeroing x).headIs 0 0 x
      ∧ (withZeroing x).queueRuns 0 = true ∧ (withZeroing x).untraced 0)
    ∧ (let r := zeroing 0 1 .waitTok 0; let B := (withZeroing r).berth 0
      r.st = .waitTok ∧ r.pops = [] ∧ B.rangeHeld r = false ∧ r.slots.length = 4 ∧ ∀ k < 4, r.onRing k = false)
    ∧ (let r := zeroing 0 1 .started 0; let s := withZeroing r
      r.st = .started ∧ r.live = true ∧ r.skip = false ∧ r.point < recIssues r.r ∧ r.sent = 0 ∧ s.engineTurn 0 0 = true ∧ s.issueFault 0 r r.point = none)
    ∧ (let r := zeroing (2 ^ 50) 0 .started 0; let s := withZeroing r; let B := s.berth 0
      ((s.issueFault 0 r r.point).map (fun f => (f.code, f.ctxf))) = some (0x71, false) ∧ s.cBusy 0 = false ∧ B.outLoad = none ∧ B.inHandler = false
        ∧ s.handler B.ctx = some 0x4000 ∧ s.engineTurn 0 0 = true ∧ s.cont = false ∧ ∀ x ∈ B.recs, x.st ≠ .faulted)
    ∧ (let r := zeroing 0 1 .started 1
      r.sent = 0 ∧ recIssues r.r ≤ r.point ∧ r.pushes = [] ∧ (∀ k < 4, r.onRing k = false) ∧ (∀ k < 4, r.boundAt k = none)
        ∧ r.r.ctl.toNat.testBit 19 = false ∧ r.joinAtEnd = false) := by
  refine ⟨?_, ?_⟩
  · intro x hx
    simp only [List.mem_cons, List.not_mem_nil, or_false] at hx
    rcases hx with rfl | rfl | rfl | rfl <;>
      exact ⟨headIs_one (by decide +kernel) (by decide) (by decide +kernel), by decide +kernel, by simp only [State.untraced]; decide +kernel⟩
  · decide +kernel

/-- An issue of each send: `l.mc`, `s.red` outside and inside a window, `s.meet` and `s.ring`; an issue whose context faults on poison. -/
theorem witness_RecordsRun_sends :
    (∀ x ∈ [sending 0 2 0 (strm 0 1) (strm 0 0), sending 2 3 0 (strm32 0 0) (strm32 0 1), sending 2 3 4 (strm32 0 0) (strm32 0 1),
        sending 2 4 0 (strm32 0 0) (strm32 0 1), sending 2 6 0x8000 (strm32 0 0) (strm32 0 1)], let s := withSend x []
      (s.berth 0).head x.q = some x ∧ (s.berth 0).recs = [x] ∧ s.queueRuns 0 = true ∧ x.left = [] ∧ x.st = .started ∧ x.live = true ∧ x.skip = false
        ∧ x.point < recIssues x.r ∧ x.sent = 0 ∧ s.engineTurn 0 x.q = true ∧ s.issueFault 0 x x.point = none ∧ s.batchOut 0 = false
        ∧ s.redFlushes 0 x 0 = false ∧ (s.berth 0).obuf = [] ∧ s.recWaits 0 x 2 = false ∧ s.recWaits 0 x 0 = false ∧ s.recLost 0 x = false)
    ∧ handleOf (sending 2 6 0x8000 (strm32 0 0) (strm32 0 1)).r.imm = some (0, 0)
    ∧ (let x := sending 2 3 0 (strm32 0 0) (strm32 0 1); ∀ v ∈ (withSend x []).redVals 0 x 0, (withSend x []).winAt 0 (fld (((withSend x []).str 0 x 0).ptr (v.1 * 4)).toNat 0 50) = none)
    ∧ (let x := sending 2 3 0 (strm32 0x40000 0) (strm32 0 1); let s := withSend x [(1, winAt 1)]
      s.issueFault 0 x 0 = none ∧ ∀ v ∈ s.redVals 0 x 0, (s.winAt 0 (fld ((s.str 0 x 0).ptr (v.1 * 4)).toNat 0 50)).isSome = true)
    ∧ (let x := sending 2 6 0x8000 (strm32 0 0) (strm32 0x4000 0); let s := (withSend x []).setPoison 0x100000 8
      ((s.issueFault 0 x 0).map (fun f => (f.ctxf, decide (16 ≤ f.code ∧ f.code < 256)))) = some (true, true) ∧ s.cBusy 0 = false ∧ (s.berth 0).outLoad = none
        ∧ (s.berth 0).inHandler = false) := by decide +kernel

/-- Products 1 and a NaN under scales of 1. -/
theorem witness_RecordsRun_segment :
    let one : XVal := .fin false 1 0 1
    ([one] ≠ [] ∧ (∀ p ∈ [one], p.isNan = false ∧ p ≠ .inf true ∧ p ≠ .inf false) ∧ one.isNan = false ∧ one.isZero = false
      ∧ ([one].foldl (xadd false) (.fin true 0 0 1)).isZero = false) ∧ ([XVal.nan].any XVal.isNan || one.isNan || one.isNan) = true := by decide +kernel

/-- A wait for a token, with one there and with none. -/
theorem witness_WaitsEnd :
    ∀ n ∈ [0, 1], let s := (withTokens n).upd (fun B => { B with st := .wait, waiting := .tokw 0 }); let B := s.berth s.arg.b
      B.st = .wait ∧ s.dueBars B.ctx = [] ∧ s.waitOver s.arg.b = (n == 1) ∧ B.sw.asked = false := by decide +kernel

def waitingFor (k : WaitKind) : State := base.upd (fun B => { B with waiting := k })
theorem waitingFor_launch (k : WaitKind) : (waitingFor k).launchOf 0 = base.launchOf 0 := rfl

/-- Every kind of wait, which a strand can be in, outside deterministic mode and in it. -/
theorem witness_WaitsEnd_kinds :
    (∀ k : WaitKind, ∃ s : State, (s.berth 0).waiting = k ∧ (s.launchOf 0).det = false ∧ (s.launchOf 0).follows = false)
    ∧ ∃ s : State, (s.berth 0).waiting = .tokw 0 ∧ (s.launchOf 0).det = true :=
  ⟨fun k => ⟨waitingFor k, rfl, (congrArg Launch.det (waitingFor_launch k)).trans (by decide +kernel),
    (congrArg Launch.follows (waitingFor_launch k)).trans (by decide +kernel)⟩, (logging 0 0 []).upd (fun B => { B with waiting := .tokw 0 }), rfl, by decide +kernel⟩

/-- A stage queue of one record that may be granted, owned by stack k. -/
def oneTask (k : Nat) : StageQ := { StageQ.zero with tail := 1, slots := [(0, ⟨0, true, false, false, 0, [], false⟩)], owner := k }

/-- A running launch with that queue. -/
def tasked (k : Nat) (f : Launch → Launch) : State := running (fun l => f { l with stages := [(0, oneTask k)] })

/-- The same with a second stage of priority 0, beside stage 0 of priority 5: its strand is idle on berth 0, and berth 1 is busy. -/
def surplus : State :=
  let s := tasked 0 (fun l => { l with rcd := l.rcd + 2 ^ 64 + 2 ^ (1024 + 80) * 5 + 2 ^ 1280 * (2 ^ 72 * 128 + 2 ^ 84 * 4 + 2 ^ 128 * 0x11000) })
  (s.upd (fun B => { B with st := .idle, stage := 1 })).setBerth 1 { Berth.zero with st := .run, stage := 1 }

theorem witness_Scheduling :
    (let s := tasked 0 id;
      s.wants 0 0 0 = true ∧ s.serves 0 s.arg.stk = true ∧ s.bestBerth 0 0 0 = some 1 ∧ stackOf 1 = s.arg.stk
        ∧ ∀ x ∈ s.stages, x = (0, 0, 0) ∨ (s.wants x.1 x.2.1 x.2.2 = false ∧ s.startsNow x.1 x.2.1 x.2.2 = false)
          ∨ s.couldTake x.1 x.2.1 x.2.2 1 = false ∨ s.beats x (0, 0, 0) = false)
    ∧ (tasked 0 id).parked = []
    ∧ (let s := surplus; s.wants 0 0 0 = true ∧ s.serves 0 s.arg.stk = true ∧ s.bestBerth 0 0 0 = none ∧ s.retiree 0 0 0 = some 0 ∧ stackOf 0 = s.arg.stk
      ∧ (s.retire 0).rivalFor (0, 0, 0) 0 = false)
    ∧ (let s := base.upd (fun B => { B with st := .place }); (s.berth s.arg.b).st = .place ∧ (s.core (coreOf s.arg.b)).held ≠ some (s.berth s.arg.b).ctx
      ∧ ∀ x ∈ s.parked, coreOf x.2.1 ≠ coreOf s.arg.b)
    ∧ (let s := (base.upd (fun B => { B with st := .place })).updCore 0 (fun c => { c with held := some 0 })
      (s.core (coreOf s.arg.b)).held = some (s.berth s.arg.b).ctx)
    ∧ (let s := (tasked 1 id).upd (fun B => { B with st := .idle }); let l := s.launch 0 0; let q := l.stage 0
      l.st = .running ∧ (l.nextTask 0).isSome = true ∧ 0 ∈ s.ctxBerths 0 ∧ 0 < l.nst ∧ stackOf 0 = s.arg.stk ∧ (s.berth 0).st = .idle ∧ (s.berth 0).lsl = 0
        ∧ q.owner ≠ s.arg.stk ∧ q.reqs.contains s.arg.stk = false ∧ s.serves 0 s.arg.stk = true
        ∧ s.controlAhead s.arg.stk q.owner (s.ev + 1) = false) := by decide +kernel

theorem witness_TaskStart :
    let s := (tasked 0 id).upd (fun B => { B with st := .idle }); let l := s.launch 0 0
    s.canDispatch 0 0 0 0 = true ∧ l.det = false ∧ s.nextGrant 0 0 0 = some 0 ∧ s.untraced 0 ∧ ∃ bs, s.readVA 0 (l.qbase 0 + 64 * (0 % l.cap 0)) 64 = .ok bs := by
  simp only [State.untraced]
  exact ⟨by decide +kernel, by decide +kernel, by decide +kernel, by decide +kernel, ok_of (by decide +kernel)⟩

/-- A record that could not be read at acceptance, with n decrements so far, whose bytes say 2. -/
def unreadTask (n : Nat) : State :=
  { ((running (fun l => { l with stages := [(0, { oneTask 0 with slots := [(0, ⟨n, true, false, false, 0, [], true⟩)] })] })).upd (fun B => { B with st := .idle })) with
    mem := memPut base.mem 0x10000 [2] }

theorem witness_TaskStart_unread :
    ∀ n ∈ [0, 2], let s := unreadTask n; let l := s.launch 0 0; let T := (l.slotOf 0 0)
      s.canDispatch 0 0 0 0 = true ∧ s.nextGrant 0 0 0 = some 0 ∧ T.unread = true ∧ T.cnt = n
        ∧ (s.readVA 0 (l.qbase 0 + 64 * (0 % l.cap 0)) 64).toOption.map (fun bs => leNat bs % 2 ^ 16) = some 2 := by decide +kernel

/-- A launch of context 0, whose levels are the given ones, in a view. -/
def launching (lv : Word) (l : Launch) : State :=
  { base.updCtx 0 (fun c => { c with launches := [l], lvls := lv }) with vnum := 1 }

/-- The same launch as fetched, and one that the next follows. -/
def launchQ : Launch := { launch1 with st := .queued, stks := 0 }

theorem witness_LaunchStarts :
    (let s := launching 8 launchQ; let c := s.ctx 0
      c.launches = [launchQ] ∧ launchQ.st = .queued ∧ launchQ.rdnC = none ∧ s.mayStart 0 launchQ = true ∧ c.skipLvl = false ∧ c.rdnRes = none ∧ s.refusal 0 launchQ = none
        ∧ ∃ m, s.openStages 0 launchQ launchQ.nst = .ok m)
    ∧ (let s := launching 0 launchQ; s.mayStart 0 launchQ = true ∧ s.refusal 0 launchQ = some 0xD9 ∧ bitN (s.ctx 0).flt.toNat 0 = false)
    ∧ (let l := { launch1 with st := .waitBerths }; let s := launching 1 l; let c := s.ctx 0
      c.launches = [l] ∧ l.st = .waitBerths ∧ l.det = false ∧ l.early = false ∧ s.drn = false ∧ c.pnd = false ∧ c.frozen = false
        ∧ s.stillRight 0 l = false)
    ∧ (let l := { launch1 with st := .waitBerths }; let s := launching 8 l
      (s.ctx 0).launches = [l] ∧ s.stillRight 0 l = true ∧ (s.placeMins 0 (l.seq % 2)).isSome = true)
    ∧ (let l := { launch1 with st := .waitBerths, rcd := launch1.rcd + 2 ^ 1088 * 2 }; let s := launching 8 l
      (s.ctx 0).launches = [l] ∧ s.stillRight 0 l = true ∧ (s.placeMins 0 (l.seq % 2)).isSome = false)
    ∧ (running id).myLaunch.resident = true
    ∧ (let u := (running id).writeback 0; u.predRuns u.myCtx u.me.lsl = false)
    ∧ (let s := (base.updCtx 0 (fun c => { c with launches := [launch1, { launch1 with rcd := launch1.rcd + 2 ^ 32 }] })).upd (fun B => { B with lsl := 1 })
      let u := s.writeback 0; u.predRuns u.myCtx u.me.lsl = true) := by
  exact ⟨⟨by decide +kernel, by decide +kernel, by decide +kernel, by decide +kernel, by decide +kernel, by decide +kernel, by decide +kernel, ok_of (by decide +kernel)⟩,
    by decide +kernel, by decide +kernel, by decide +kernel, by decide +kernel, by decide +kernel, by decide +kernel, by decide +kernel⟩

/-- A running launch with one waiting task, whose successor may start early; the successor, and one that no bit allows. -/
def ahead (p : Launch) (l : Launch) : State := { base.updCtx 0 (fun c => { c with launches := [p, l], lvls := 8 }) with vnum := 1 }
def first1 : Launch := { launch1 with sms := true, stages := [(0, oneTask 0)] }
def second (n : Nat) : Launch := { launchQ with rcd := launchQ.rcd + 2 ^ 32 + n * 2 ^ 79 }

theorem witness_LaunchStarts_early :
    (let l := second 1; let s := ahead first1 l; let c := s.ctx 0
      c.launches = [first1, l] ∧ first1.st = .running ∧ l.rdnC = none ∧ c.rdnRes = none ∧ l.st = .queued ∧ c.skipLvl = false ∧ s.mayStart 0 l = true
        ∧ s.refusal 0 l = none ∧ (s.openStages 0 l l.nst).toOption.isSome = true)
    ∧ (let l := second 0; (ahead first1 l).mayStart 0 l = false)
    ∧ (let l := { second 1 with st := .waitBerths, early := true, stks := 1 }; let s := ahead first1 l
      (s.ctx 0).launches = [first1, l] ∧ l.det = false ∧ first1.seq % 2 ≠ l.seq % 2 ∧ s.stillRight 0 l = true ∧ s.wants 0 (1 - l.seq % 2) 0 = true) := by
  decide +kernel

/-- A state whose register windows are open. -/
def opened (f : Ctx → Ctx) : State := { (base.setStack 0 { base.stack 0 with image := [1] }).updCtx 0 f with vnum := 1 }

/-- A record of 384 bytes with number 1 and its check word, stored in slot 1 of a queue at 0x40000. -/
def launchBytes : List Byte :=
  let body := leBytes (2 ^ 32) 384
  leBytes (crc32c (List.replicate 4 0 ++ body.drop 4)) 4 ++ body.drop 4

def launchQueue (v : Nat) (bs : List Byte) (f : Ctx → Ctx) : State :=
  { opened (fun c => f { c with lqBase := 0x40000, lqCfg := 0x101 }) with mem := memPut base.mem 0x40200 bs, arg := { v := BitVec.ofNat 64 v } }

set_option maxRecDepth 20000 in
theorem launchBytes_ok : chkOk launchBytes = true := by decide +kernel
set_option maxRecDepth 20000 in
theorem launchBytes_number : leNat launchBytes / 2 ^ 32 % 2 ^ 32 = 1 := by decide +kernel
set_option maxRecDepth 20000 in
theorem launchBytes_read :
    (launchQueue 1 launchBytes id).readVA 0 0x40200 384 = .ok launchBytes ∧ (launchQueue 1 [] id).readVA 0 0x40200 384 = .ok (List.replicate 384 0) := by
  decide +kernel

/-- With the three theorems above: a configuration, a kick, a second reading, and one that reads zeros. -/
theorem witness_LaunchQueue :
    (let s := { opened id with arg := { v := 0x500000001 } }; s.windows = true ∧ (s.ctx 0).launches = [] ∧ 1 ≤ s.arg.v.toNat % 16 ∧ s.arg.v.toNat % 16 ≤ 12)
    ∧ (let s := launchQueue 1 launchBytes id; let c := s.ctx 0; let v := s.arg.v.toNat; let q := (c.fetched + 1) % 2 ^ 32
      s.windows = true ∧ c.lqCfg.getLsbD 8 = true ∧ v % 2 ^ 32 ≠ c.kicked ∧ lowI ((v % 2 ^ 32 : Nat) - (c.fetched : Int)) 32 ≤ 2 ^ (c.lqCfg.toNat % 16)
        ∧ c.fetching = false ∧ c.stopFetch = false ∧ v % 2 ^ 32 = q
        ∧ 512 * fld c.lqBase.toNat 9 41 + 512 * (q % 2 ^ (c.lqCfg.toNat % 16)) = 0x40200 ∧ q = 1)
    ∧ (let s := launchQueue 1 launchBytes (fun c => { c with fetching := true, kicked := 1 }); let c := s.ctx 0; let q := (c.fetched + 1) % 2 ^ 32
      c.fetching = true ∧ c.stopFetch = false ∧ c.kicked = q ∧ 1 ≤ c.lqCfg.toNat % 16
        ∧ 512 * fld c.lqBase.toNat 9 41 + 512 * (q % 2 ^ (c.lqCfg.toNat % 16)) = 0x40200)
    ∧ (let s := launchQueue 1 [] (fun c => { c with fetching := true, kicked := 1 }); (s.ctx 0).tries < 8 ∧ (0 : Nat) ≠ ((s.ctx 0).fetched + 1) % 2 ^ 32) := by
  decide +kernel

theorem witness_LaunchQueue_end :
    let s := (running id).upd (fun B => { B with st := .idle }); let c := s.ctx 0; let l := s.launch 0 0
    l.st = .running ∧ s.nodeZero 0 0 = true ∧ c.pnd = false ∧ c.frozen = false ∧ l.det = false ∧ s.dueBars 0 = [] ∧ c.rdn = 0 ∧ l.rdnC = none ∧ l.recovery = false
      ∧ (∀ b ∈ s.ctxBerths 0, (s.berth b).lsl = 0 → (s.berth b).st ≠ .place)
      ∧ ∃ u, (s.publishLaunch l ((s.ctxBerths 0).filter (fun b => (s.berth b).lsl == 0))).writeVA2 0 (l.rcd / 2 ^ 512 % 2 ^ 64)
          (leBytes (l.seq + (if c.cki &&& 0x9B = 0 then 0 else 2 ^ 32)) 8) = .ok u := by
  exact ⟨by decide +kernel, by decide +kernel, by decide +kernel, by decide +kernel, by decide +kernel, by decide +kernel, by decide +kernel, by decide +kernel,
    by decide +kernel, by decide +kernel, ok_of (by decide +kernel)⟩

/-- Context 0 with a pre-emption pending that has reached the stacks of the given mask, its one strand as given. -/
def preempted (k : Nat) (f : Berth → Berth) (g : Ctx → Ctx) : State :=
  (handled.updCtx 0 (fun c => g { c with pnd := true, arrivedStk := k })).upd f

/-- A request; a resume; a stack without strands of the context; strands that switch at once; one with a hint bound; its expiry. -/
theorem witness_Preemption :
    (let s := opened id; let c := s.ctx 0; s.windows = true ∧ c.pnd = false ∧ c.svd = false ∧ c.resuming = false ∧ s.parked = [])
    ∧ (let s := opened (fun c => { c with svd := true, savedBerths := [0] }); let c := s.ctx 0
      s.windows = true ∧ c.svd = true ∧ c.svdOpen = false ∧ c.resuming = false ∧ bitN c.flt.toNat 0 = false ∧ ∀ b ∈ c.savedBerths, s.corePresent (coreOf b) = true)
    ∧ (let s := { (base.updCtx 15 (fun c => { c with pnd := true })) with arg := { ctx := 15 } }; let c := s.ctx 15
      c.pnd = true ∧ bitN c.arrivedStk s.arg.stk = false ∧ s.up s.arg.stk = true
        ∧ (∀ b ∈ s.heldBerths 15, stackOf b ≠ s.arg.stk ∧ (s.berth b).sw.asked = false) ∧ ∀ b ∈ s.ctxBerths 15, s.gangWait b = none)
    ∧ (∀ st ∈ [BState.idle, .wait, .run], let s := preempted 0 (fun B => { B with st := st }) id; let B := s.berth 0; let c := s.ctx 0
      c.pnd = true ∧ bitN c.arrivedStk s.arg.stk = false ∧ s.up s.arg.stk = true ∧ s.heldBerths 0 = [0] ∧ stackOf 0 = s.arg.stk ∧ s.untraced 0
        ∧ B.outLoad = none ∧ s.gangWait 0 = none ∧ B.pq = none ∧ s.cBusy 0 = false ∧ c.pbnd.toNat % 2 ^ 32 = 0)
    ∧ (preempted 0 id id).berthsInOrder
    ∧ (let s := preempted 0 id (fun c => { c with pbnd := 100 }); let B := s.berth 0; let c := s.ctx 0
      B.st = .run ∧ B.haltF = false ∧ B.dbg.stp = false ∧ c.cfault = false ∧ c.pbnd.toNat % 2 ^ 32 ≠ 0 ∧ s.heldBerths 0 = [0] ∧ s.untraced 0)
    ∧ (let s := preempted 1 (fun B => { B with sw := { B.sw with asked := true } }) id; let B := s.berth s.arg.b
      s.heldBerths B.ctx = [0] ∧ B.st = .run ∧ B.sw.asked = true ∧ s.untraced B.ctx ∧ B.outLoad = none ∧ B.pq = none
        ∧ s.cBusy 0 = false ∧ s.up (stackOf 0) = true) := by
  simp only [State.untraced, State.berthsInOrder]; decide +kernel

/-- A live map of one register at 0x30000, named at pc 0. -/
def liveAt : State :=
  { preempted 1 (fun B => { B with sw := { B.sw with asked := true } })
      (fun c => { c with livemaps := [(0, 0x1000, 0x30000, 0x100)] }) with
    mem := memPut handled.mem 0x30000 (leBytes 1 4 ++ leBytes 8 4 ++ leBytes 2 8), ir := [0, 0] }

theorem witness_Preemption_live :
    (base.writeback 0).me.sw.asked = false
    ∧ (let u := liveAt.writeback 0
      u.me.sw.asked = true ∧ u.untraced u.myCtx ∧ u.me.outLoad = none
        ∧ (u.liveMap u.myCtx u.me.unitPc.toNat u.imm32.toNat).isSome = true) := by
  simp only [State.untraced]; decide +kernel

/-- A saved strand whose register 5 is parked in the bank of berth 1. -/
theorem witness_Preemption_parked :
    let s := opened (fun c => { c with savedState := [(0, { Berth.zero with spill := [(5, inBank 1 5)] })] }); let c := s.ctx 0
    s.windows = true ∧ s.parked.filter (fun x => x.1 == 0) = [(0, 0, 5, inBank 1 5)] ∧ c.savedState ≠ []
      ∧ ((match s.writeVA2 0 (c.strandVa 0 + 0x100 + 8 * 5) (leBytes (s.parkedValue 0 (inBank 1 5)).toNat 8) with
        | .ok u => (u.writeVA2 0 (c.strandVa 0 + 0x580 + 8 * 5) (leBytes inMemory.toNat 8)).toOption.isSome
        | .error _ => false) = true) := by decide +kernel

/-- Context 15 over a pinned page, with a saved strand whose berth waits for it. -/
def resumable : State :=
  ({ base.updCtx 15 (fun c => { c with
      resuming := true, svd := true, ptroot := 0x100000, savedBerths := [0], savedCores := [(0, Core.zero)], savedState := [(0, Berth.zero)],
      launches := [{ launch1 with st := .saved }] }) with
    mem := memPut base.mem 0x100000 (leBytes 0x5F 8), arg := { ctx := 15 } } : State).setBerth 0 { Berth.zero with st := .restore, ctx := 15 }

theorem witness_Preemption_resume :
    (let s := resumable; let c := s.ctx 15
     c.resuming = true ∧ s.drn = false ∧ s.windowRoom 15 = true
      ∧ (∀ b ∈ c.savedBerths, (s.berth b).st = .restore ∧ (s.berth b).ctx = 15 ∧ s.corePresent (coreOf b) = true)
      ∧ ((match eachOk c.savedCores s (fun s x => s.loadCore 15 x.1 x.2) with
        | .ok u => match u.loadContext 15 with
          | .ok v => match eachOk c.savedState v (fun s x => s.loadStrand 15 x.1 x.2) with
            | .ok w => decide (w.dueBars 15 = [] ∧ (w.ctx 15).kicked = (w.ctx 15).fetched)
            | .error _ => false
          | .error _ => false
        | .error _ => false) = true))
    ∧ ∃ m, resumable.loadRange 15 ((resumable.ctx 15).strandVa 0) 0 0x2000 2 = .ok m :=
  ⟨by decide +kernel, ok_of (by decide +kernel)⟩

/-- A context without strands over a pinned page, that can be saved. -/
def saveable : State :=
  { base.updCtx 15 (fun c => { c with pnd := true, arrivedStk := 15, ptroot := 0x100000 }) with
    mem := memPut base.mem 0x100000 (leBytes 0x5F 8), arg := { ctx := 15 } }

theorem witness_Preemption_save :
    let s := saveable; let u := s.switchAll 15
     (s.ctx 15).pnd = true ∧ u.canSave 15 = true ∧ (s.ctx 15).pendFault = none
      ∧ ((match (((u.heldBerths 15).foldl (fun x b => x.drainStores b) (u.updCtx 15 (fun c => { c with savedBerths := u.heldBerths 15 }))).spillMaps
          (u.heldBerths 15) s.arg.v s.arg.flag).saveMem 15 (u.heldBerths 15) with
        | .ok (some _) => true
        | _ => false) = true) := by decide +kernel

/-- Tag 4095 of context 0, whose results are concatenated into memory at 0x40. -/
def meetTag (q0 q1 : List MeetOp) : State :=
  base.updCtx 0 (fun c => { c with tags := [(4095, { regTag with q0 := q0, q1 := q1, n0 := 1 })] })

/-- An operand of side 0 for it, and one of side 1 that waits. -/
def meetMsg : MeetMsg := ⟨0, 4095, 0, [1, 2], false, 0, 0, 0, false, false, 0⟩
def meetOp : MeetOp := ⟨0, [3, 4], false, 0, none, true, 0, 0⟩

theorem witness_Deliveries :
    (∀ q ∈ [[], [meetOp]], let s := { meetTag [] q with meets := [meetMsg] }; let T := s.tag 0 4095
      s.meets[s.arg.k]? = some meetMsg ∧ s.meets.take s.arg.k = [] ∧ s.meetClassAhead 0 0 0 = false ∧ s.heldAt 0 = [] ∧ T.alloc = true
        ∧ (s.launchOf meetMsg.berth).det = false ∧ meetMsg.side = 0 ∧ meetMsg.pz = false ∧ T.q1 = q ∧ (s.stack meetMsg.lock).meetSlots < 512)
    ∧ (meetOp.lock = meetMsg.lock ∧ meetOp.stored = true ∧ meetOp.spilled = none ∧ meetOp.pz = false)
    ∧ regTag.op = 3 := by decide +kernel

/-- A result on its way; an operand without a slot; bytes for a ring; an image for a core that is another context's, and for its own. -/
theorem witness_Deliveries_more :
    (let o : MeetOut := ⟨0, 4095, [1, 2, 3, 4], false, false, 0, 0, 0⟩; let s := { meetTag [] [] with mouts := [o] }; let T := s.tag 0 4095
      s.mouts[s.arg.k]? = some o ∧ (s.ctx 0).pendFault = none ∧ (s.ctx 0).frozen = false ∧ T.dring = false ∧ T.ben = false
        ∧ s.mouts.take s.arg.k = [] ∧ s.meetClassAhead o.stk (s.goesTo o) o.iss = false
        ∧ (State.writeVAby (State.storeBy (threadOf 0 s.ev 4) 0) s 0 (fld T.dest.toNat 0 50) o.data 3).toOption.isSome = true)
    ∧ (let s := { (meetTag [{ meetOp with stored := false }] []).updCtx 0 (fun c => { c with morph := 0x1000000000000 }) with arg := { tag := 4095 } }
      (s.tag 0 4095).opAt s.arg.side s.arg.k = some { meetOp with stored := false } ∧ (s.stack meetOp.lock).meetSlots < 512
        ∧ s.heldLongest 0 = some (0, 4095, 0, { meetOp with stored := false }) ∧ s.heldAt 0 = [(0, 4095, 0, { meetOp with stored := false })]
        ∧ fld (s.ctx 0).morph.toNat 48 16 ≠ 0 ∧ ∀ l ∈ (s.ctx 0).launches, l.resident = true → l.det = false)
    ∧ (let m : RingMsg := ⟨0, 0, 0, List.replicate 64 7, false, 1, 0, 0, []⟩; let s := { (ringOf id).updCore 0 (fun c => { c with held := some 0 }) with rmsgs := [m] }
       let r := (s.core 0).ring 0
       s.rmsgs[s.arg.k]? = some m ∧ s.rmsgs.take s.arg.k = [] ∧ s.meetClassAhead 0 0 0 = false ∧ ringEn r.desc = true
        ∧ (s.core 0).held = some m.ctx ∧ m.data.length ≤ ringSz r.desc ∧ r.used < ringN r.desc ∧ (s.launch m.ctx m.lsl).det = false)
    ∧ (let m : McMsg := ⟨0, 0, 1, 0, 0x3FFFFD, [1, 2, 3], 0, false, false, 0, []⟩; let s := { base with mcs := [m] }
      s.mcs[s.arg.k]? = some m ∧ (∀ x ∈ s.mcs.take s.arg.k, x.berth = m.berth → x.core ≠ m.core ∧ x.issue ≠ m.issue) ∧ m.last = false
        ∧ (s.core m.core).held ≠ some m.ctx ∧ ((s.updCore 1 (fun c => { c with held := some 0 })).core m.core).held = some m.ctx
        ∧ m.tail = 0 ∧ (s.core m.core).mcb.toNat + m.lo + m.data.length ≤ 0x400000) := by decide +kernel

/-- Two stacks with verified images in one view. -/
def paired : State :=
  let s := { base with vnum := 1, live := 3 }
  (s.setStack 0 { s.stack 0 with image := [1] }).setStack 1 { s.stack 1 with image := [1], power := true, tst := false, tested := true }

/-- The windows and the port open; a planned shed and return; a discard; an empty context's registers at the window of context 15; a
report; a token that does not match; a scrub; the life cycle. -/
theorem witness_HostWrites :
    (let s := opened id; s.windows = true ∧ s.portUp = true ∧ s.dueBars s.arg.ctx = [])
    ∧ (let s := { paired with arg := { stk := 1 } }; s.windows = true ∧ s.shed = 0 ∧ bitN s.live 1 = true ∧ s.nlive ≠ 1 ∧ s.pendShed = none)
    ∧ (let s := { paired.setStack 1 { paired.stack 1 with hostShed := true } with live := 1, shed := 2, arg := { stk := 1 } }
      s.windows = true ∧ bitN s.shed 1 = true ∧ (s.stack 1).hostShed = true ∧ s.pendShed = none)
    ∧ (∀ o ∈ [false, true], let s := opened (fun c => { c with svd := true, svdOpen := o }); (s.ctx s.arg.ctx).svd = true ∧ (s.ctx s.arg.ctx).svdOpen = o
      ∧ (s.ctx s.arg.ctx).kicked = (s.ctx s.arg.ctx).fetched)
    ∧ (∀ o ∈ [0, 0x68], let s := { opened id with arg := { off := 0x10000 * 15 + 0xE800 + o } }
      s.windows = true ∧ s.arg.flag = false ∧ s.arg.off = 0x10000 * 15 + 0xE800 + o ∧ s.heldBerths 15 = [])
    ∧ (let s := opened id; s.repBusy = false ∧ s.life ≠ 2)
    ∧ (let s := { opened id with repBusy := true }; s.repBusy = true ∧ s.life ≠ 2)
    ∧ (let s := { opened id with qlist := [(0x1FF, 0x8000000000010000)], arg := { v := 0x1FF } }
      s.portUp = true ∧ s.scrub = none ∧ bitN (AMap.get 0 s.qlist (s.arg.v.toNat % 2 ^ 9)).toNat 63 = true)
    ∧ (let s := { opened id with qlist := [(0x1FF, 0x8000000000010000)], scrub := some 0x1FF }
      bitN (AMap.get 0 s.qlist 0x1FF).toNat 63 = true ∧ s.up (s.home (65536 * fld (AMap.get 0 s.qlist 0x1FF).toNat 16 30)) = true)
    ∧ ∃ s : State, s.life < s.arg.n ∧ s.arg.n ≤ 2 := by
  refine ⟨by decide +kernel, by decide +kernel, by decide +kernel, by decide +kernel, by decide +kernel, by decide +kernel, by decide +kernel, by decide +kernel,
    by decide +kernel, ⟨{ base with life := 1, arg := { n := 2 } }, by decide +kernel⟩⟩

theorem leBytes_len (v n : Nat) : (leBytes v n).length = n := by
  induction n generalizing v with
  | zero => rfl
  | succ n ih => simp [leBytes, ih]
theorem sha3_len (m : List Byte) : (sha3 m).length = 32 := by simp [sha3, leBytes_len]

/-- What a memory that starts with a list reads as. -/
theorem memBytes_put (bs : List Byte) : memBytes (memPut [] 0 bs) 0 bs.length = bs := by
  apply List.ext_getElem (by simp [memBytes])
  intro i h1 h2
  have e := memPut_inside [] 0 bs i h2
  rw [List.getD_eq_getElem bs 0 h2] at e
  simpa [memBytes] using e

/-- If the verification accepts some signature of each digest, some token of the device is signed. -/
theorem signed_token (s : State) (h : ∀ d, ∃ sig : List Byte, sig.length = 2420 ∧ Config.mldsaVerify (s.stack s.act).debugHash d sig = true) :
    ∃ m : Mem, ({ s with token := m } : State).tokenSigned := by
  let a := sha3 (fit 1312 (Config.identityKey s.seed))
  let hd := a ++ s.challenge ++ leBytes 0 8 ++ leBytes 1 4
  have la : a.length = 32 := sha3_len _
  have lc : s.challenge.length = 32 := by simp [State.challenge]
  have lh : hd.length = 76 := by simp [hd, la, lc, leBytes_len]
  obtain ⟨sig, ls, hv⟩ := h (sha3 hd)
  have e : memBytes (memPut [] 0 (hd ++ sig)) 0 2496 = hd ++ sig := by
    have := memBytes_put (hd ++ sig)
    rwa [show (hd ++ sig).length = 2496 by simp [lh, ls]] at this
  refine ⟨memPut [] 0 (hd ++ sig), ?_⟩
  simp only [State.tokenSigned]
  rw [e]
  refine ⟨?_, ?_, ?_, ?_⟩
  · simp only [hd, List.append_assoc]; rw [List.take_append_of_le_length (by omega), List.take_of_length_le (by omega)]
  · simp only [hd, List.append_assoc]
    rw [List.drop_append_of_le_length (by omega), List.drop_of_length_le (by omega), List.nil_append, List.take_append_of_le_length (by omega),
      List.take_of_length_le (by omega)]
    rfl
  · have : (hd ++ sig).drop 72 = leBytes 1 4 ++ sig := by
      have h72 : (a ++ s.challenge ++ leBytes 0 8).length = 72 := by simp [la, lc, leBytes_len]
      rw [show hd ++ sig = (a ++ s.challenge ++ leBytes 0 8) ++ (leBytes 1 4 ++ sig) by simp [hd], ← h72, List.drop_left]
    rw [this, List.take_append_of_le_length (by simp [leBytes_len]), List.take_of_length_le (by simp [leBytes_len])]
    decide
  · rw [show (hd ++ sig).take 76 = hd by rw [← lh, List.take_left], show (hd ++ sig).drop 76 = sig by rw [← lh, List.drop_left]]
    exact hv

/-- An empty token matches nothing, since its word for the version is 0. -/
theorem witness_HostWrites_token : ({ opened id with token := [] } : State).portUp = true ∧ ¬ ({ opened id with token := [] } : State).tokenSigned := by
  refine ⟨by decide +kernel, fun h => ?_⟩
  have v : leNat (((memBytes ([] : Mem) 0 2496).drop 72).take 4) ≠ 1 := by decide +kernel
  exact v h.2.2.1

theorem portUp_token (s : State) (m : Mem) : ({ s with token := m } : State).portUp = s.portUp := rfl

/-- If the verification, which Config leaves uninterpreted, accepts some signature of each digest, some token is accepted. -/
theorem witness_HostWrites_signed
    (h : ∀ d, ∃ sig : List Byte, sig.length = 2420 ∧ Config.mldsaVerify ((opened id).stack (opened id).act).debugHash d sig = true) :
    ∃ m : Mem, ({ opened id with token := m } : State).portUp = true ∧ ({ opened id with token := m } : State).tokenSigned := by
  obtain ⟨m, hm⟩ := signed_token (opened id) h
  exact ⟨m, (portUp_token _ m).trans (by decide +kernel), hm⟩

/-- The same for an image of a stack whose fuses hold the digest of some key. -/
theorem signed_image (T : Stack) (key : List Byte) (hl : key.length = 1312) (hr : T.rollback = 0) (hk : T.vendorHash = sha3 key)
    (h : ∀ d, ∃ sig : List Byte, sig.length = 2420 ∧ Config.mldsaVerify key d sig = true) : ∃ img, T.imageSigned img := by
  let hd : List Byte := List.replicate 16 0
  have lh : hd.length = 16 := rfl
  obtain ⟨sig, ls, hv⟩ := h (sha3 (hd ++ key))
  obtain ⟨z, lz⟩ : ∃ z : List Byte, z.length = 348 := ⟨List.replicate 348 0, List.length_replicate⟩
  let img := hd ++ (key ++ (sig ++ z))
  have li : img.length = 4096 := by simp only [img, List.length_append]; omega
  have l8 : (img.drop 8).take 8 = List.replicate 8 0 := by
    simp only [img]
    rw [List.drop_append_of_le_length (by omega), List.take_append_of_le_length (by decide)]; rfl
  have w : imageWhole img = img := by
    rw [imageWhole, l8, show leNat (List.replicate 8 (0 : Byte)) = 0 by decide]
    exact List.take_of_length_le (by omega)
  have t : img.take 1328 = hd ++ key := by
    have : img = (hd ++ key) ++ (sig ++ z) := by simp [img]
    rw [this, List.take_append_of_le_length (by simp only [List.length_append]; omega), List.take_of_length_le (by simp only [List.length_append]; omega)]
  have d : img.drop 1328 = sig ++ z := by
    have : img = (hd ++ key) ++ (sig ++ z) := by simp [img]
    rw [this, List.drop_append_of_le_length (by simp only [List.length_append]; omega), List.drop_of_length_le (by simp only [List.length_append]; omega),
      List.nil_append]
  have k : (hd ++ key).drop 16 = key := by rw [← lh, List.drop_left]
  refine ⟨img, ?_⟩
  simp only [Stack.imageSigned, w, t, k]
  refine ⟨hk.symm, ?_, by rw [hr]; exact Nat.zero_le _⟩
  rw [show img.drop 4096 = [] from List.drop_of_length_le (by omega), List.append_nil,
    show (img.take 3748).drop 1328 = sig by
      rw [List.drop_take, d, List.take_append_of_le_length (by omega), List.take_of_length_le (by omega)]]
  exact hv
/-- A stack before power-up whose fuses hold the digest of a key and a counter. -/
def keyed (r : Nat) (key : List Byte) : Stack := { State.reset.stack 0 with rollback := r, vendorHash := sha3 key }
theorem stack_set (s : State) (T : Stack) : (s.setStack 0 T).stack 0 = T := by simp [State.stack, State.setStack]

/-- If the verification, which Config leaves uninterpreted, accepts some signature of each digest under that key, some image is accepted. -/
theorem witness_PackageEvents_signed (key : List Byte) (hl : key.length = 1312)
    (h : ∀ d, ∃ sig : List Byte, sig.length = 2420 ∧ Config.mldsaVerify key d sig = true) :
    let s := State.reset.setStack 0 (keyed 0 key); let K := s.stack 0
    s.arg.stk = 0 ∧ K.fenced = false ∧ K.power = false ∧ K.image = [] ∧ ∃ img, K.imageSigned img :=
  by
  intro s K
  have e : K = keyed 0 key := stack_set _ _
  rw [e]
  exact ⟨rfl, rfl, rfl, rfl, signed_image _ key hl rfl rfl h⟩

/-- An image below the rollback counter is a bad one. -/
theorem witness_PackageEvents_rolled (key : List Byte) : ¬ (keyed 1 key).imageSigned [] := by
  intro h
  have v : ¬ (1 ≤ leNat (((imageWhole []).drop 4).take 4)) := by decide +kernel
  exact v h.2.2

/-- `State.reset` with stack 3 in its self-test, of which it has passed twelve cores. -/
def testing : State :=
  { State.reset.setStack 3 { State.reset.stack 3 with image := [1], power := true, tst := true } with arg := { stk := 3, n := 0xFFF, flag := true } }

theorem arg_only (s : State) (a : EvArg) : ({ s with arg := a } : State).arg.err = a.err ∧ ({ s with arg := a } : State).berth 0 = s.berth 0 := ⟨rfl, rfl⟩

theorem witness_PackageEvents :
    (let s := testing; let K := s.stack 3
      s.takesPart 3 = true ∧ K.power = true ∧ K.tst = true ∧ s.arg.flag = true ∧ 12 ≤ popN (K.fuseCores &&& s.arg.n) 16 ∧ s.vnum = 0
        ∧ popN (K.fuseCores &&& 0x7FF) 16 < 12)
    ∧ (let s := paired.setStack 0 { paired.stack 0 with fenced := true }; (s.stack s.arg.stk).fenced = true)
    ∧ (paired.works paired.arg.stk = true ∧ paired.vnum ≠ 0)
    ∧ (∀ q ∈ [5, 6, 65535],
      let s := { paired.setStack 1 { paired.stack 1 with recv := [(5, 5)] } with arg := { src := 0, dst := 1, msg := FabMsg.plain 0 1 5 q false } }
      let m := s.arg.msg; let T := s.stack s.arg.dst; let E := AMap.get 0 T.recv (8 * s.arg.src + m.cls); let n := m.seq
      s.linked s.arg.src s.arg.dst = true ∧ T.power = true ∧ T.halted = false ∧ s.works s.arg.dst = true ∧ bitN T.lrec s.arg.src = false ∧ E < 65536 ∧ m.crcOk = true ∧ m.fits s.arg.src s.arg.dst = true ∧ m.ack = false
        ∧ (⟨m.bytes.set 3 1⟩ : FabMsg).crcOk = false ∧ (n = E ∨ (n ≠ E ∧ ((E + 65536 - n) % 65536 ≤ 32768 ∨ q = 6))))
    ∧ (let s := { paired.setSender 0 1 4 ⟨3, [1, 2], 0⟩ with lacks := [(1, 0, 4, 2)], arg := { src := 1, dst := 0, cls := 4, seq := 2 } }; let x := s.arg
      (x.src, x.dst, x.cls, x.seq) ∈ s.lacks ∧ (s.sender x.dst x.src x.cls).unacked = [1] ++ x.seq :: [] ∧ x.seq ∉ [1] ∧ (s.stack x.dst).power = true)
    ∧ (let s := { paired.setSender 0 1 4 ⟨3, [1, 2], 0⟩ with arg := { src := 0, dst := 1, cls := 4 } }; let S := s.sender s.arg.src s.arg.dst s.arg.cls
      S.unacked ≠ [] ∧ s.works s.arg.src = true ∧ S.rtx = 0)
    ∧ (let s := { paired.setSender 0 1 4 ⟨3, [1, 2], 2⟩ with arg := { src := 0, dst := 1, cls := 4 } }; let S := s.sender s.arg.src s.arg.dst s.arg.cls
      S.unacked ≠ [] ∧ s.works s.arg.src = true ∧ S.rtx ≠ 0)
    ∧ ((paired.setStack 1 { paired.stack 1 with halted := true }).stack 1).halted = true
    ∧ (∀ e ∈ [1, 2], let s := { paired with arg := { pa := 2 ^ 43 + 48 * 2 ^ 30 - 1, ecc := e } }; let x := s.arg
      bitN x.pa 45 = false ∧ s.paBad x.pa = false ∧ s.up (s.home x.pa) = true ∧ s.home x.pa = 1)
    ∧ (∃ s : State, s.arg.err = .scratch 63 65535)
    ∧ (∀ k ∈ [0, 3], ∃ s : State, s.arg.err = .unit 0 k ∧ (s.berth 0).st ≠ .free ∧ (s.berth 0).inHandler = false)
    ∧ ∃ s : State, s.arg.err = .unit 0 0 ∧ (s.berth 0).st ≠ .free ∧ (s.berth 0).inHandler = true := by
  refine ⟨by decide +kernel, by decide +kernel, by decide +kernel, by decide +kernel, by decide +kernel, by decide +kernel, by decide +kernel, by decide +kernel,
    by decide +kernel, ⟨{ base with arg := { err := .scratch 63 65535 } }, rfl⟩,
    fun k _ => ⟨_, (arg_only base { err := .unit 0 k }).1, by rw [(arg_only _ _).2]; decide +kernel, by rw [(arg_only _ _).2]; decide +kernel⟩,
    ⟨{ inside with arg := { err := .unit 0 0 } }, rfl, by decide +kernel, by decide +kernel⟩⟩

/-- A third stack beside the pair, so that two reporters and an accused one are there. -/
def three : State := { paired.setStack 2 { paired.stack 1 with image := [1] } with live := 7 }

/-- A proposal of the next view without stack 2. -/
def without2 (h a : Nat) : Proposal := ⟨2, 3, 0, 4, 0xDE, h, a, true⟩

theorem witness_Views :
    (let s := { three with reports := [(0, 1, 2, 0xDE)], props := [(0, without2 0 0)], arg := { stk := 0, rep := 1, acc := 2, code := 0xDE } }; let x := s.arg
      (x.stk, x.rep, x.acc, x.code) ∈ s.reports ∧ s.works x.stk = true ∧ s.unfenced x.rep = true ∧ (s.reports.takeWhile (· != (x.stk, x.rep, x.acc, x.code))) = []
        ∧ AMap.find s.props x.stk = some (without2 0 0)
        ∧ 2 ≤ popN s.live 4 ∧ ∀ j ∈ fencedBy ((s.stack x.stk).sus.filter (fun h => !(h.1 == x.rep && h.2.1 == x.acc)) ++ [(x.rep, x.acc, x.code)]) s.unfenced,
          bitN (without2 0 0).fence j = true)
    ∧ (let s := { three.setStack 0 { three.stack 0 with sus := [(0, 2, 0xDF)] } with reports := [(0, 1, 2, 0xDE)], arg := { stk := 0, rep := 1, acc := 2, code := 0xDE } }
       let x := s.arg
       (x.stk, x.rep, x.acc, x.code) ∈ s.reports ∧ s.works x.stk = true ∧ s.unfenced x.rep = true ∧ (s.stack x.stk).sus = [(0, x.acc, 0xDF)] ∧ 0 ≠ x.rep ∧ x.acc ≠ x.stk ∧ x.acc < 4
        ∧ (s.reports.takeWhile (· != (x.stk, x.rep, x.acc, x.code))) = []
        ∧ s.unfenced x.acc = true ∧ AMap.find s.props x.stk = none ∧ AMap.find s.behind x.stk = none ∧ s.vnum ≠ 0)
    ∧ (let s := { three with reports := [(0, 1, 3, 0xDE), (0, 1, 2, 0xDE)], arg := { stk := 0, rep := 1, acc := 2, code := 0xDE } }; let x := s.arg
      (x.stk, x.rep, x.acc, x.code) ∈ s.reports ∧ ∃ q ∈ s.reports.takeWhile (· != (x.stk, x.rep, x.acc, x.code)), q.1 = x.stk ∧ q.2.1 = x.rep)
    ∧ (three.wantFence = 0 ∧ three.wantShed = 0 ∧ three.live < 16 ∧ 2 ≤ popN three.live 4)
    ∧ (let s := { three with props := [(0, without2 0 0)], arg := { src := 0, stk := 1 } }; let x := s.arg
      AMap.find s.props x.src = some (without2 0 0) ∧ x.stk ≠ x.src ∧ s.works x.stk = true ∧ bitN (without2 0 0).fence x.stk = false
        ∧ bitN (without2 0 0).heard x.stk = false ∧ AMap.find s.behind x.stk = none ∧ AMap.find s.props x.stk = none)
    ∧ (let s := { three with props := [(0, without2 2 0)], arg := { dst := 0, src := 1 } }
      AMap.find s.props s.arg.dst = some (without2 2 0) ∧ bitN (without2 2 0).heard s.arg.src = true)
    ∧ (let s := { three with props := [(0, without2 2 2)], arg := { stk := 0 } }; let P := without2 2 2
      s.arg.flag = false ∧ AMap.find s.props 0 = some P ∧ s.works 0 = true ∧ bitN P.fence 0 = false ∧ bitN P.fence 2 = true ∧ P.num = s.vnum + 1 ∧ P.forced = true
        ∧ ∀ j < 4, j ≠ 0 → s.takesPart j = true → bitN P.fence j = false → bitN P.acks j = true)
    ∧ (let s := { three with behind := [(1, [(0, 3)])], arg := { flag := true, dst := 1 } }
      s.arg.flag = true ∧ (AMap.find s.behind s.arg.dst).isSome = true ∧ s.up s.arg.dst = true)
    ∧ (let s := { paired with berths := [], drn := true, pendShed := some (false, 1) }
      s.drn = true ∧ s.quiescent = true ∧ s.props = [] ∧ s.plan = some (1, 2) ∧ (List.range 4).find? s.speaker = some 0) := by
  refine ⟨by decide +kernel, by decide +kernel, by decide +kernel, by decide +kernel, by decide +kernel, by decide +kernel, by decide +kernel,
    by decide +kernel, by decide +kernel⟩

/-- Berth 0 of a debugged context with the given debug state, its life-cycle state production with the given features. -/
def debugging (ft : Word) (f : Dbg → Dbg) : State := { (opened id).upd (fun B => { B with dbg := f B.dbg }) with life := 1, features := ft }

theorem witness_Debugger :
    (let s := debugging 1 id; let B := s.berth s.arg.b
      s.windows = true ∧ s.holdsHere s.arg.ctx s.arg.b = true ∧ s.feature 0 = true ∧ B.dbg.stp = false ∧ s.cBusy s.arg.b = false ∧ s.untraced B.ctx
        ∧ s.debugged s.arg.ctx = [s.arg.b] ∧ s.noneAsked s.arg.b)
    ∧ (let s := { (debugging 1 id).upd (fun B => { B with st := .wait, waiting := .reply }) with tsubs := [⟨0, 0, 0, 0, [], false, 0, false, some 0, 0⟩] }; s.feature 0 = true ∧ (s.berth s.arg.b).dbg.stp = false
      ∧ s.cBusy s.arg.b = true ∧ (s.berth s.arg.b).dbg.due = 0)
    ∧ (let s := debugging 1 (fun d => { d with stp := true }); s.holdsHere s.arg.ctx s.arg.b = true ∧ (s.berth s.arg.b).dbg.stp = true
      ∧ s.debugged s.arg.ctx = [s.arg.b])
    ∧ (debugging 0 id).feature 0 = false
    ∧ (let s := debugging 0x3F (fun d => { d with stp := true, sel := 0x3F0 }); let d := (s.berth s.arg.b).dbg
      s.feature 1 = true ∧ s.feature 2 = true ∧ s.feature 4 = true ∧ s.feature 5 = true ∧ d.stp = true ∧ d.sel.toNat % 16 = 0 ∧ d.sel.toNat / 16 % 2 ^ 12 < 64
        ∧ ∀ a ∈ s.atoms, a.ofC s.arg.b = true → a.reply = true → (s.launch a.ctx a.lsl).det = false)
    ∧ (let s := debugging 0x3F (fun d => { d with stp := true, sel := 0x400 }); let d := (s.berth s.arg.b).dbg
      s.feature 1 = true ∧ d.stp = true ∧ d.sel.toNat % 16 = 0 ∧ 64 ≤ d.sel.toNat / 16 % 2 ^ 12)
    ∧ (let s := debugging 0x3F id; s.feature 2 = true ∧ (s.berth s.arg.b).dbg.stp = false) := by
  simp only [State.untraced, State.noneAsked]; decide +kernel

theorem witness_EncodeDecode :
    (∀ i ∈ [Instr.sub 1 2 3, .movi 63 0xFFFFFFFF, .mma rec0], i.wf = true ∧ i.isEvent = false ∧ i ≠ .mod) ∧ ∃ p : Pfx, p.round.toNat = 5 :=
  ⟨by decide, ⟨⟨true, true, 7, true, true, 5⟩, rfl⟩⟩

theorem witness_DecodedIsWellFormed : decode (0x04308104#32 :: []) = .ok (.sub 1 2 3, 1) ∧ decode (1#32 :: []) = .ok (.mod, 1) := by decide

/-- `sub g1, g2, g3` next on berth 0, and an event. -/
def subNext : State := { State.reset.withFetchWord 32 0x04308104 with agenda := [.issue 0] }

theorem witness_StepRunsTheInstruction :
    (let s := subNext; let u := (({ s with ev := s.ev + 1, joined := s.cont, cont := false } : State).takeAgenda (.issue 0) []).issued 0; let pc := (u.berth 0).pc
      s.agenda = [.issue 0] ∧ (∀ x ∈ s.berths, x.2.pfx = none) ∧ s.coreChoice (coreOf 0) = some 0
        ∧ ({ u with cur := 0, ir := [] } : State).breakAt 0 = none ∧ pc.toNat % 4 = 0 ∧ u.fetchItem (u.berth 0).ctx pc = .ok [0x04308104#32]
        ∧ decode [0x04308104#32] = .ok (.sub 1 2 3, 1) ∧ (s.berth 0).dbg.due = 0)
    ∧ (let s := { base with agenda := [.event .heartbeatTimer {}] }; s.agenda = [.event .heartbeatTimer {}] ∧ Instr.isEvent .heartbeatTimer = true
      ∧ ∀ y ∈ s.berths, y.2.pfx = none)
    ∧ ([] : List Choice).head? ≠ some .same
    ∧ (let s := { subNext with mem := memPut [] 0 [0xFC] }; let o := ({ s with ev := s.ev + 1, joined := s.cont, cont := false } : State).takeAgenda (.issue 0) []
      s.coreChoice (coreOf 0) = some 0 ∧ (match (o.issued 0).unitAt 0 with
        | .stop _ => true
        | _ => false) = true)
    ∧ (base.me.stalled = false ∧ base.me.pfx = none ∧ (base.upd (fun B => { B with stalled := true })).me.stalled = true)
    ∧ (base.cont = false ∧ base.joined = false ∧ ∀ x ∈ base.berths, (∀ r ∈ x.2.recs, r.st ≠ .faulted) ∧ (x.2.dbg.stp = false ∨ x.2.dbg.due = 0))
    ∧ (base.upd (fun B => { B with pfx := some (pfxOf 1) })).latched = some 0 := by decide +kernel

theorem witness_MemoryStaysCanonical : Memory.wf subNext.mem = true ∧ ∃ t, step subNext = .next t := by
  refine ⟨by decide +kernel, ?_⟩
  have h : (match step subNext with
    | .next _ => true
    | _ => false) = true := by decide +kernel
  cases e : step subNext with
  | next t => exact ⟨t, rfl⟩
  | fault f => rw [e] at h; cases h
  | refused r => rw [e] at h; cases h

theorem witness_BerthsStayInOrder : subNext.berthsInOrder ∧ ∃ t, step subNext = .next t :=
  ⟨by simp only [State.berthsInOrder]; decide +kernel, witness_MemoryStaysCanonical.2⟩

end Sys2Proof.Tests
end

/-! # Integer and predicate results (R154–R160, R163, R168)

Each operation of `Machine/Alu.lean` is the value that its table row gives (`intRes`, `rotl`, `condTrue`, …), for all operands; the
instructions then write it by `unit_wroteG` and `unit_wroteP`. -/

namespace Sys2Proof.Machine

/-! ## Sign extension and the low 32 bits (R151) -/

theorem sgnN_eq_toInt_ofNat (v w : Nat) : sgnN v w = (BitVec.ofNat w v).toInt := by
  simp only [sgnN, BitVec.toInt_eq_toNat_cond, BitVec.toNat_ofNat]

theorem sgnN_toNat {w : Nat} (k : BitVec w) : sgnN k.toNat w = k.toInt := by
  rw [sgnN_eq_toInt_ofNat, BitVec.ofNat_toNat, BitVec.setWidth_eq]

theorem signExt64_toNat {w : Nat} (k : BitVec w) : signExt64 k.toNat w = k.signExtend 64 := by
  rw [signExt64, sgnN_toNat, BitVec.signExtend]

theorem imm12_eq_signExtend (k : BitVec 12) : imm12 k = k.signExtend 64 := signExt64_toNat k

theorem imm32_eq_signExtend (k : Half) : imm32 k = k.signExtend 64 := signExt64_toNat k

theorem toInt_imm12 (k : BitVec 12) : (imm12 k).toInt = k.toInt := by
  rw [imm12_eq_signExtend, BitVec.toInt_signExtend_of_le (by decide)]

theorem toInt_imm32 (k : Half) : (imm32 k).toInt = k.toInt := by
  rw [imm32_eq_signExtend, BitVec.toInt_signExtend_of_le (by decide)]

theorem sgnN_toNat_32 (x : Word) : sgnN x.toNat 32 = sgn32 x := by
  rw [sgnN_eq_toInt_ofNat, BitVec.ofNat_toNat, sgn32]

theorem signExt64_toNat_32 (x : Word) : signExt64 x.toNat 32 = BitVec.ofInt 64 (sgn32 x) := by
  rw [signExt64, sgnN_toNat_32]

theorem sgn32_add (x y : Word) : sgn32 (x + y) = Int.bmod (sgn32 x + sgn32 y) (2 ^ 32) := by
  rw [sgn32, BitVec.truncate_eq_setWidth, BitVec.setWidth_add x y (by decide), BitVec.toInt_add]; rfl

theorem sgn32_sub (x y : Word) : sgn32 (x - y) = Int.bmod (sgn32 x - sgn32 y) (2 ^ 32) := by
  rw [sgn32, BitVec.truncate_eq_setWidth, BitVec.sub_eq_add_neg, BitVec.setWidth_add x _ (by decide),
    BitVec.setWidth_neg_of_le (by decide), ← BitVec.sub_eq_add_neg, BitVec.toInt_sub]; rfl

/-! ## Sums and products (R154, R156) -/

theorem addOp_eq (sat : Bool) (x y : Word) : addOp sat x y = intRes sat (x.toInt + y.toInt) := by
  cases sat <;> simp [addOp, intRes, BitVec.ofInt_add]

theorem addOp_imm12 (sat : Bool) (x : Word) (k : BitVec 12) : addOp sat x (imm12 k) = intRes sat (x.toInt + k.toInt) := by
  rw [addOp_eq, toInt_imm12]

theorem addOp_imm32 (sat : Bool) (x : Word) (k : Half) : addOp sat x (imm32 k) = intRes sat (x.toInt + k.toInt) := by
  rw [addOp_eq, toInt_imm32]

theorem subOp_eq (sat : Bool) (x y : Word) : subOp sat x y = intRes sat (x.toInt - y.toInt) := by
  cases sat <;> simp [subOp, intRes, Int.sub_eq_add_neg, BitVec.ofInt_add, BitVec.ofInt_neg, BitVec.sub_eq_add_neg]

theorem mulOp_eq (sat : Bool) (x y : Word) : mulOp sat x y = intRes sat (x.toInt * y.toInt) := by
  cases sat <;> simp [mulOp, intRes, BitVec.ofInt_mul]

theorem addsOp_eq (sat : Bool) (x y : Word) : addsOp sat x y = intRes32 sat (sgn32 x + sgn32 y) := by
  simp only [addsOp, intRes32, sgnN_toNat_32, signExt64_toNat_32, sgn32_add]
  cases sat <;> rfl

theorem subsOp_eq (sat : Bool) (x y : Word) : subsOp sat x y = intRes32 sat (sgn32 x - sgn32 y) := by
  simp only [subsOp, intRes32, sgnN_toNat_32, signExt64_toNat_32, sgn32_sub]
  cases sat <;> rfl

theorem mulhOp_eq (x y : Word) : mulhOp x y = (BitVec.ofInt 128 (x.toInt * y.toInt)).extractLsb' 64 64 := by
  apply BitVec.eq_of_toNat_eq
  simp only [mulhOp, BitVec.toNat_ofInt, BitVec.extractLsb'_toNat, Nat.shiftRight_eq_div_pow]
  omega

theorem mulhnOp_eq (x y : Word) : mulhnOp x y = (BitVec.ofNat 128 (x.toNat * y.toNat)).extractLsb' 64 64 := by
  apply BitVec.eq_of_toNat_eq
  simp only [mulhnOp, BitVec.toNat_ofNat, BitVec.extractLsb'_toNat, Nat.shiftRight_eq_div_pow]
  omega

/-! ## Division (R154, R155) -/

theorem divOp_eq (x y : Word) : divOp x y = if y = 0 then 0xFFFFFFFFFFFFFFFF else BitVec.ofInt 64 (x.toInt.tdiv y.toInt) := rfl

theorem divnOp_eq (x y : Word) : divnOp x y = if y = 0 then 0xFFFFFFFFFFFFFFFF else BitVec.ofNat 64 (x.toNat / y.toNat) := rfl

/-- The table's row for a zero divisor is the truncated remainder's own value there. -/
theorem remOp_eq (x y : Word) : remOp x y = BitVec.ofInt 64 (x.toInt.tmod y.toInt) := by
  unfold remOp
  split
  · next h => simp [h]
  · rw [Int.tmod_def]

theorem remnOp_eq (x y : Word) : remnOp x y = BitVec.ofNat 64 (x.toNat % y.toNat) := by
  unfold remnOp
  split
  · next h => simp [h]
  · rfl

/-! ## Shifts and rotations (R154, R157) -/

theorem shlOp_eq (x : Word) (n : Nat) : shlOp x n = BitVec.ofNat 64 (x.toNat * 2 ^ n) := by
  apply BitVec.eq_of_toNat_eq
  simp [shlOp, Nat.shiftLeft_eq]

theorem shrOp_eq (x : Word) (n : Nat) : shrOp x n = BitVec.ofNat 64 (x.toNat / 2 ^ n) := by
  rw [shrOp, ← Nat.shiftRight_eq_div_pow, ← BitVec.toNat_ushiftRight, BitVec.ofNat_toNat, BitVec.setWidth_eq]

theorem sraOp_eq (x : Word) (n : Nat) : sraOp x n = BitVec.ofInt 64 (x.toInt / 2 ^ n) := by
  rw [sraOp, BitVec.sshiftRight_eq, Int.shiftRight_eq_div_pow]; norm_cast

/-- The two parts of a rotation overlap in no bit, so that their disjunction is their sum. -/
theorem rolOp_eq (x : Word) {n : Nat} (h : n < 64) : rolOp x n = rotl x n := by
  have hlow : x.toNat / 2 ^ (64 - n) < 2 ^ n := by
    rw [Nat.div_lt_iff_lt_mul (Nat.two_pow_pos _), ← Nat.pow_add, Nat.add_sub_cancel' h.le]
    exact x.isLt
  calc rolOp x n = shlOp x n ||| shrOp x (64 - n) := by rw [rolOp, BitVec.rotateLeft_def, Nat.mod_eq_of_lt h]; rfl
    _ = BitVec.ofNat 64 (2 ^ n * x.toNat ||| x.toNat / 2 ^ (64 - n)) := by
      rw [shlOp_eq, shrOp_eq, BitVec.ofNat_or, Nat.mul_comm]
    _ = rotl x n := by rw [← Nat.two_pow_add_eq_or_of_lt hlow, Nat.mul_comm, rotl]

theorem shAmt_lt (y : Word) : shAmt y < 64 := Nat.mod_lt _ (by decide)

/-! ## Minima and maxima (R154) -/

theorem minOp_eq (x y : Word) : minOp x y = BitVec.ofInt 64 (Min.min x.toInt y.toInt) := by
  rw [minOp, Int.min_def]; split <;> simp

theorem maxOp_eq (x y : Word) : maxOp x y = BitVec.ofInt 64 (Max.max x.toInt y.toInt) := by
  rw [maxOp, Int.max_def]; split <;> simp

theorem minnOp_eq (x y : Word) : minnOp x y = BitVec.ofNat 64 (Min.min x.toNat y.toNat) := by
  rw [minnOp, Nat.min_def]; split <;> simp

theorem maxnOp_eq (x y : Word) : maxnOp x y = BitVec.ofNat 64 (Max.max x.toNat y.toNat) := by
  rw [maxnOp, Nat.max_def]; split <;> simp

/-! ## Selection and long immediates (R160, R168) -/

/-- A concatenation as the sum that the model writes. -/
theorem ofNat_eq_append {n m : Nat} (x : BitVec n) (y : BitVec m) :
    BitVec.ofNat (n + m) (2 ^ m * x.toNat + y.toNat) = x ++ y := by
  rw [Nat.two_pow_add_eq_or_of_lt y.isLt, Nat.mul_comm, ← Nat.shiftLeft_eq, ← BitVec.toNat_append, BitVec.ofNat_toNat, BitVec.setWidth_eq]

theorem movhi_eq (k : Half) (x : Word) : BitVec.ofNat 64 (2 ^ 32 * k.toNat + x.toNat % 2 ^ 32) = k ++ x.truncate 32 := by
  rw [← BitVec.toNat_setWidth]; exact ofNat_eq_append k (x.setWidth 32)

/-- R168: the bounds index stays, the low 54 bits move. -/
theorem leaOp_eq (x k : Word) : leaOp x k = x.extractLsb' 54 10 ++ (x + k).truncate 54 := by
  have hidx : fld x.toNat 54 10 = (x.extractLsb' 54 10).toNat := by rw [fld, BitVec.extractLsb'_toNat, Nat.shiftRight_eq_div_pow]
  rw [leaOp, hidx, ← BitVec.toNat_setWidth]; exact ofNat_eq_append _ ((x + k).setWidth 54)

theorem leaOp_imm32 (x : Word) (k : Half) :
    leaOp x (imm32 k) = x.extractLsb' 54 10 ++ (x + k.signExtend 64).truncate 54 := by
  rw [leaOp_eq, imm32_eq_signExtend]

theorem ite_xor_eq_ite_ne (p inv : Bool) (x y : Word) : (if p ^^ inv then x else y) = if p ≠ inv then x else y := by
  cases p <;> cases inv <;> rfl

/-! ## Truth values (R158, R159, R163) -/

theorem condHolds_iff (cc : Nat) (x y : Word) : condHolds cc x y = true ↔ condTrue cc x y := by
  unfold condHolds condTrue
  split <;> simp

theorem condHolds_imm12_iff (cc : Nat) (x : Word) (k : BitVec 12) :
    condHolds cc x (imm12 k) = true ↔ condTrue cc x (k.signExtend 64) := by
  rw [imm12_eq_signExtend, condHolds_iff]

theorem condHolds_imm32_iff (cc : Nat) (x : Word) (k : Half) :
    condHolds cc x (imm32 k) = true ↔ condTrue cc x (k.signExtend 64) := by
  rw [imm32_eq_signExtend, condHolds_iff]

theorem and_not_iff (p q : Bool) : (p && !q) = true ↔ p = true ∧ ¬ q = true := by
  simp

theorem xeq_iff (x y : XVal) : xeq x y = true ↔ x.isNan = false ∧ y.isNan = false ∧ xcmp x y = 0 := by
  simp [xeq, and_assoc]

theorem xlt_iff (x y : XVal) : xlt x y = true ↔ x.isNan = false ∧ y.isNan = false ∧ xcmp x y = -1 := by
  simp [xlt, and_assoc]

theorem xle_iff (x y : XVal) : xle x y = true ↔ x.isNan = false ∧ y.isNan = false ∧ xcmp x y ≠ 1 := by
  simp [xle, and_assoc]

/-! ## Units that write one register -/

section
variable {s : State}

theorem unit4_writesG {d : GReg} {v : Word} {op : Berth → Word} (h : op s.me = v) :
    ∃ t, s.unit4 (fun B => B.setG d (op B)) = .next t ∧ WroteG s t d v 4 :=
  ⟨_, rfl, unit_wroteG s _ d v 4 (by rw [h])⟩

theorem unit8_writesG {d : GReg} {v : Word} {op : Berth → Word} (h : op s.me = v) :
    ∃ t, s.unit8 (fun B => B.setG d (op B)) = .next t ∧ WroteG s t d v 8 :=
  ⟨_, rfl, unit_wroteG s _ d v 8 (by rw [h])⟩

theorem unit4_writesP {d : PReg} {v : Prop} {op : Berth → Bool} (h : op s.me = true ↔ v) :
    ∃ t b, s.unit4 (fun B => B.setP d (op B)) = .next t ∧ (b = true ↔ v) ∧ WroteP s t d b 4 :=
  ⟨_, _, rfl, h, unit_wroteP s _ d _ 4 rfl⟩

theorem unit8_writesP {d : PReg} {v : Prop} {op : Berth → Bool} (h : op s.me = true ↔ v) :
    ∃ t b, s.unit8 (fun B => B.setP d (op B)) = .next t ∧ (b = true ↔ v) ∧ WroteP s t d b 8 :=
  ⟨_, _, rfl, h, unit_wroteP s _ d _ 8 rfl⟩

end

/-! ## The rows of the tables, and the statements -/

/-- The cases are the rows of `intValue` in order, and each is closed by the lemma about its row's operation. -/
theorem exec_writesG_of_intValue {i : Instr} {s : State} {d : GReg} {v : Word} {n : Nat} (h : intValue i s.pfx.sat s.G s.P = some (d, v, n)) :
    ∃ t, exec i s = .next t ∧ WroteG s t d v n := by
  unfold intValue at h
  split at h <;> simp only [Option.some.injEq, Prod.mk.injEq, reduceCtorEq] at h
  all_goals obtain ⟨rfl, rfl, rfl⟩ := h
  -- `add`, `sub`, `mul`, `mulh`, `mulhn`
  · exact unit4_writesG (addOp_eq _ _ _)
  · exact unit4_writesG (subOp_eq _ _ _)
  · exact unit4_writesG (mulOp_eq _ _ _)
  · exact unit4_writesG (mulhOp_eq _ _)
  · exact unit4_writesG (mulhnOp_eq _ _)
  -- `div`, `divn`, `rem`, `remn`
  · exact unit4_writesG (divOp_eq _ _)
  · exact unit4_writesG (divnOp_eq _ _)
  · exact unit4_writesG (remOp_eq _ _)
  · exact unit4_writesG (remnOp_eq _ _)
  -- `and`, `or`, `xor`, `andn`, `orn`: the model writes the same operation on words
  iterate 5 exact unit4_writesG rfl
  -- `shl`, `shr`, `sra`, `rol`
  · exact unit4_writesG (shlOp_eq _ _)
  · exact unit4_writesG (shrOp_eq _ _)
  · exact unit4_writesG (sraOp_eq _ _)
  · exact unit4_writesG (rolOp_eq _ (shAmt_lt _))
  -- `min`, `max`, `minn`, `maxn`
  · exact unit4_writesG (minOp_eq _ _)
  · exact unit4_writesG (maxOp_eq _ _)
  · exact unit4_writesG (minnOp_eq _ _)
  · exact unit4_writesG (maxnOp_eq _ _)
  -- `clz`, `ctz`, `pop`, `bswap`: the row names the model's operation itself
  iterate 4 exact unit4_writesG rfl
  -- `adds`, `subs`
  · exact unit4_writesG (addsOp_eq _ _ _)
  · exact unit4_writesG (subsOp_eq _ _ _)
  -- `addi`, `andi`, `ori`, `xori`
  · exact unit4_writesG (addOp_imm12 _ _ _)
  · exact unit4_writesG (congrArg (_ &&& ·) (imm12_eq_signExtend _))
  · exact unit4_writesG (congrArg (_ ||| ·) (imm12_eq_signExtend _))
  · exact unit4_writesG (congrArg (_ ^^^ ·) (imm12_eq_signExtend _))
  -- `shli`, `shri`, `srai`, `roli`
  · exact unit4_writesG (shlOp_eq _ _)
  · exact unit4_writesG (shrOp_eq _ _)
  · exact unit4_writesG (sraOp_eq _ _)
  · exact unit4_writesG (rolOp_eq _ (BitVec.isLt _))
  -- `sel`, `movi`, `movhi`, `addwi`, `lea`
  · exact unit4_writesG (ite_xor_eq_ite_ne _ _ _ _)
  · exact unit8_writesG (imm32_eq_signExtend _)
  · exact unit8_writesG (movhi_eq _ _)
  · exact unit8_writesG (addOp_imm32 _ _ _)
  · exact unit8_writesG (leaOp_imm32 _ _)

/-- Settles O1, from the rows of the table. -/
theorem integerResults : Obligations.IntegerResults :=
  fun _ _ _ _ _ _ h => exec_writesG_of_intValue h

/-- The integer compares and the predicate operations, by the rows of `predValue` (R158, R159). -/
theorem exec_writesP_of_predValue {i : Instr} {s : State} {d : PReg} {v : Prop} {n : Nat} (h : predValue i s.G s.P = some (d, v, n)) :
    ∃ t b, exec i s = .next t ∧ (b = true ↔ v) ∧ WroteP s t d b n := by
  unfold predValue at h
  split at h <;> simp only [Option.some.injEq, Prod.mk.injEq, reduceCtorEq] at h
  all_goals obtain ⟨rfl, rfl, rfl⟩ := h
  -- `cmp` by its six conditions, `cmpi`, `cmpwi`
  iterate 6 exact unit4_writesP (condHolds_iff _ _ _)
  · exact unit4_writesP (condHolds_imm12_iff _ _ _)
  · exact unit8_writesP (condHolds_imm32_iff _ _ _)
  -- `pand`, `por`, `pxor`, `pandn`
  · exact unit4_writesP Bool.and_eq_true_iff
  · exact unit4_writesP Bool.or_eq_true_iff
  · exact unit4_writesP bne_iff_ne
  · exact unit4_writesP (and_not_iff _ _)

/-- The floating-point compares `eq`, `lt`, `le` and `un` of both formats, by the rows of `floatCompare` (R163). -/
theorem exec_writesP_of_floatCompare {i : Instr} {s : State} {d : PReg} {v : Prop} (h : floatCompare i s.pfx.ftz s.G = some (d, v)) :
    ∃ t b, exec i s = .next t ∧ (b = true ↔ v) ∧ WroteP s t d b 4 := by
  unfold floatCompare at h
  split at h <;> simp only [Option.some.injEq, Prod.mk.injEq, reduceCtorEq] at h
  all_goals obtain ⟨rfl, rfl⟩ := h
  · exact unit4_writesP (xeq_iff _ _)
  · exact unit4_writesP (xlt_iff _ _)
  · exact unit4_writesP (xle_iff _ _)
  · exact unit4_writesP Bool.or_eq_true_iff
  · exact unit4_writesP (xeq_iff _ _)
  · exact unit4_writesP (xlt_iff _ _)
  · exact unit4_writesP (xle_iff _ _)
  · exact unit4_writesP Bool.or_eq_true_iff

/-- Settles O2, from the rows of the two tables. -/
theorem predicateResults : Obligations.PredicateResults :=
  ⟨fun _ _ _ _ _ _ h => exec_writesP_of_predValue h, fun _ _ _ _ _ h => exec_writesP_of_floatCompare h⟩

end Sys2Proof.Machine
